-- ==== Sys2Proof/Word.lean ====
section
/-! DEFINITION. Plain value types: bytes, byte memories, identifiers of the module's units, and the
exact values that the arithmetic of chapter 04 computes with. -/

namespace Sys2Proof

/-- A byte (01 R6: the smallest addressable unit). -/
abbrev Byte := BitVec 8

/-- A byte memory: (address, byte) pairs in canonical form, addresses strictly rising, no entry equal
to what an unlisted address reads as. -/
abbrev Mem := List (Nat × Byte)

/-- A bench `T t.B bb`: tile and physical bench (01 R25). -/
structure BenchId where
  tile : Fin 4
  phys : Fin 34
  deriving DecidableEq, Repr, Inhabited

/-- The flat number of a bench, 34 a tile: its place in `State.benches`. -/
def BenchId.idx (b : BenchId) : Nat := 34 * b.tile.val + b.phys.val

/-- A stack: `T t.S s` is 3 t + s, H0 is 12, H1 is 13 (11 R291). -/
abbrev StackId := Fin 14

/-- A port P n of the crossing (12 R327). -/
abbrev PortId := Fin 8

/-- A partition J j (03 R71). -/
abbrev PartId := Fin 8

/-- A clerk core C c (15 R420). -/
abbrev CoreId := Fin 32

/-- A tile T t. -/
abbrev TileId := Fin 4

/-- An exact value of chapter 04: NaN, an infinity, or (-1)^neg × mag × 2^ex (04 R107, R112).
A zero keeps its sign. -/
inductive Val where
  | nan
  | inf (neg : Bool)
  | fin (neg : Bool) (mag : Nat) (ex : Int)
  deriving DecidableEq, Repr, Inhabited

/-- The three sticky arithmetic flags (04 R116). -/
structure Flags where
  nanIn : Bool := false
  invalid : Bool := false
  overflow : Bool := false
  deriving DecidableEq, Repr, Inhabited

/-- The number formats by their codes (07 R206; 04 R105). -/
inductive Fmt where
  | fp32 | bf16 | fp16 | e4m3 | e5m2 | fp48
  | mxE4m3 | mxE5m2 | mxE3m2 | mxE2m3 | mxE2m1
  | int8 | int32 | int64
  deriving DecidableEq, Repr, Inhabited

end Sys2Proof
end

