-- ==== Sys2Proof/Syntax.lean ====
section
/-! DEFINITION. The commands of the module: the bench orders with their fields, the frames, messages and
measured values that commands carry, and `Instr`, one constructor for each row of
spec/opcode_table.json, in the table's order. -/

namespace Sys2Proof

/-! Bench orders (07 R204 to R233). Each structure holds the fields of one order layout as the layout
names them; a field holds the raw number of its bits. -/

/-- The 32-bit order header without its opcode (07 R204). -/
structure OrderHeader where
  stream : Bool := false
  evt : Bool := false
  need : Nat := 0
  needEn : Bool := false
  sig : Nat := 0
  sigEn : Bool := false
  sigBench : Nat := 0
  lx : Bool := false
  deriving DecidableEq, Repr, Inhabited

/-- FETCH and STORE (07 R209). -/
structure MoveOp where
  desc : Nat := 0
  row : Nat := 0
  part : Bool := false
  offset : Nat := 0
  count : Nat := 0
  rowq : Nat := 0
  deriving DecidableEq, Repr, Inhabited

/-- COPY without its MODE (07 R210). -/
structure CopyOp where
  seamEnd : Nat := 0
  sfmt : Nat := 0
  dfmt : Nat := 0
  sr : Bool := false
  srcRow : Nat := 0
  dstRow : Nat := 0
  rows : Nat := 0
  deriving DecidableEq, Repr, Inhabited

/-- LOADW, weight form (07 R211). -/
structure LoadwOp where
  tile : Bool := false
  quad : Nat := 0
  fmt : Nat := 0
  two8 : Bool := false
  row : Nat := 0
  deriving DecidableEq, Repr, Inhabited

/-- LOADW, mask form (07 R211). -/
structure MaskOp where
  m : Nat := 0
  tail : Nat := 0
  rowMask : BitVec 32 := 0
  colMask : BitVec 32 := 0
  deriving DecidableEq, Repr, Inhabited

/-- PRESS without CMP (07 R212, R213). -/
structure PressOp where
  tile : Bool := false
  quad : Nat := 0
  dir : Bool := false
  afmt : Nat := 0
  ofmt : Nat := 0
  sr : Bool := false
  mask : Nat := 0
  pin : Nat := 0
  dest : Bool := false
  n : Nat := 0
  arow : Nat := 0
  orow : Nat := 0
  prow : Nat := 0
  till : Nat := 0
  deriving DecidableEq, Repr, Inhabited

/-- COMPACT without MODE (07 R214). -/
structure CompactOp where
  pack : Nat := 0
  sid : Nat := 0
  afmt : Nat := 0
  orderEn : Bool := false
  desc : Nat := 0
  listRow : Nat := 0
  auxRow : Nat := 0
  outRow : Nat := 0
  deriving DecidableEq, Repr, Inhabited

/-- MERGE (07 R216). -/
structure MergeOp where
  dense : Bool := false
  plan : Bool := false
  nrm1 : Nat := 0
  ofmt : Nat := 0
  sr : Bool := false
  srcRow : Nat := 0
  runBase : Nat := 0
  outRow : Nat := 0
  desc : Nat := 0
  row0 : Nat := 0
  deriving DecidableEq, Repr, Inhabited

/-- SORT (07 R217). -/
structure SortOp where
  kb : Nat := 0
  ktype : Bool := false
  desc_ : Bool := false
  hist : Bool := false
  mem : Bool := false
  n : Nat := 0
  src : Nat := 0
  dst : Nat := 0
  scratchRow : Nat := 0
  histRow : Nat := 0
  deriving DecidableEq, Repr, Inhabited

/-- SCAN (07 R218). -/
structure ScanOp where
  typ : Nat := 0
  excl : Bool := false
  n : Nat := 0
  srcRow : Nat := 0
  dstRow : Nat := 0
  totalRow : Nat := 0
  deriving DecidableEq, Repr, Inhabited

/-- VEC, element form (07 R219). -/
structure VecOp where
  op : Nat := 0
  ifmt : Nat := 0
  ofmt : Nat := 0
  sr : Bool := false
  bbc : Bool := false
  cbc : Bool := false
  n : Nat := 0
  aRow : Nat := 0
  bRow : Nat := 0
  cRow : Nat := 0
  dRow : Nat := 0
  deriving DecidableEq, Repr, Inhabited

/-- VEC, fused form, without OP (07 R221). -/
structure FusedOp where
  rms : Bool := false
  nlen : Nat := 0
  rows : Nat := 0
  xRow : Nat := 0
  dyRow : Nat := 0
  pRow : Nat := 0
  dRow : Nat := 0
  deriving DecidableEq, Repr, Inhabited

/-- SIZE (07 R222). -/
structure SizeOp where
  first : Bool := false
  last : Bool := false
  ifmt : Nat := 0
  n : Nat := 0
  srcRow : Nat := 0
  outRow : Nat := 0
  tgt : BitVec 32 := 0
  deriving DecidableEq, Repr, Inhabited

/-- QUANT (07 R223). -/
structure QuantOp where
  ofmt : Nat := 0
  sr : Bool := false
  n : Nat := 0
  srcRow : Nat := 0
  tRow : Nat := 0
  outRow : Nat := 0
  scaleRow : Nat := 0
  deriving DecidableEq, Repr, Inhabited

/-- STAT (07 R224); LO and HI are the raw 16 bits. -/
structure StatOp where
  slot : Nat := 0
  lo : Nat := 0
  hi : Nat := 0
  outRow : Nat := 0
  deriving DecidableEq, Repr, Inhabited

/-- UPDATE (07 R225). -/
structure UpdateOp where
  slot : Nat := 0
  gfmt : Bool := false
  n : Nat := 0
  desc : Nat := 0
  stateRow : Nat := 0
  gRow : Nat := 0
  pRow : Nat := 0
  deriving DecidableEq, Repr, Inhabited

/-- DIGEST (07 R227). -/
structure DigestOp where
  first : Bool := false
  last : Bool := false
  bytes : Nat := 0
  desc : Nat := 0
  srcRow : Nat := 0
  outRow : Nat := 0
  deriving DecidableEq, Repr, Inhabited

/-- SIGNAL (07 R228). -/
structure SignalOp where
  ctr : Nat := 0
  bench : Nat := 0
  value : BitVec 32 := 0
  deriving DecidableEq, Repr, Inhabited

/-- WAIT (07 R228). -/
structure WaitOp where
  ctr : Nat := 0
  consume : Bool := false
  thresh : BitVec 32 := 0
  deriving DecidableEq, Repr, Inhabited

/-- SEND and RECV (07 R230). -/
structure MsgOp where
  row : Nat := 0
  rows : Nat := 0
  peer : BitVec 32 := 0
  tag : Nat := 0
  deriving DecidableEq, Repr, Inhabited

/-- REDUCE (07 R231). -/
structure ReduceOp where
  tree : Nat := 0
  mode : Nat := 0
  w64 : Bool := false
  n : Nat := 0
  srcRow : Nat := 0
  dstRow : Nat := 0
  rdesc : Nat := 0
  deriving DecidableEq, Repr, Inhabited

/-- EXCHANGE (07 R232). -/
structure ExchangeOp where
  dispRow : Nat := 0
  srcRow : Nat := 0
  dstRow : Nat := 0
  peerRow : Nat := 0
  peers : Nat := 0
  tokq : Nat := 0
  tag : Nat := 0
  deriving DecidableEq, Repr, Inhabited

/-- FOLD (07 R232). -/
structure FoldOp where
  src : Nat := 0
  dst : Nat := 0
  tag : Nat := 0
  deriving DecidableEq, Repr, Inhabited

/-- LOOP (07 R233). -/
structure LoopOp where
  body : Nat := 0
  count : Nat := 0
  rs : Int := 0
  es : Int := 0
  deriving DecidableEq, Repr, Inhabited

/-- EVENT (07 R233). -/
structure EventOp where
  code : Nat := 0
  data : BitVec 64 := 0
  deriving DecidableEq, Repr, Inhabited

/-- The body of an order: one constructor for each form that the opcode table lists (07 R208). -/
inductive Order where
  | fetch (o : MoveOp)
  | store (o : MoveOp)
  | copyShelf (o : CopyOp)
  | copyToSeam (o : CopyOp)
  | copyFromSeam (o : CopyOp)
  | copyConvert (o : CopyOp)
  | loadw (o : LoadwOp)
  | loadwMask (o : MaskOp)
  | press (o : PressOp)
  | pressCompacted (o : PressOp)
  | compactCount (o : CompactOp)
  | compactPlan (o : CompactOp)
  | compactStream (o : CompactOp)
  | compactCompress (o : CompactOp)
  | merge (o : MergeOp)
  | sort (o : SortOp)
  | scan (o : ScanOp)
  | vec (o : VecOp)
  | softmaxForward (o : FusedOp)
  | softmaxBackward (o : FusedOp)
  | normForward (o : FusedOp)
  | normBackward (o : FusedOp)
  | size (o : SizeOp)
  | quant (o : QuantOp)
  | stat (o : StatOp)
  | update (o : UpdateOp)
  | digest (o : DigestOp)
  | signal (o : SignalOp)
  | wait (o : WaitOp)
  | fence (scope : Bool)
  | send (o : MsgOp)
  | recv (o : MsgOp)
  | reduce (o : ReduceOp)
  | exchange (o : ExchangeOp)
  | fold (o : FoldOp)
  | loop (o : LoopOp)
  | jump (disp : Int)
  | event (o : EventOp)
  | halt (code : Nat)
  | illegal (opcode : Nat)
  deriving DecidableEq, Repr, Inhabited

/-- An error in a mangle cell while a PRESS runs: by how much, in units of the accumulator, the long accumulator of the
cell in a row and column of the grid or quadrant leaves the right sum for a vector of the order; in the transposed
direction, the product of one lane element (05 R148, R151). A wrong product, a wrong stored weight and a wrong operand
hop show as their net effect. -/
structure CellError where
  vec : Nat
  row : Nat
  col : Nat
  lane : Nat := 0
  delta : Int
  deriving DecidableEq, Repr, Inhabited

/-- An error in one half of paired logic (14 R390): the result by its number in emission order; the stage, which is the
cell along the chain, or past the last cell the output rounding, or the leaf of a merge adder; the half; and the bits. -/
structure PairError where
  result : Nat
  stage : Nat := 0
  second : Bool := false
  mask : Nat
  deriving DecidableEq, Repr, Inhabited

/-- An error in a vector lane or in the shadow circuit of its group, in a vector step counted from the start of the
order (06 R180). -/
structure LaneError where
  step : Nat
  lane : Nat
  inShadow : Bool := false
  mask : Nat
  deriving DecidableEq, Repr, Inhabited

/-- What strikes a bench order while it runs, each a physical error: in the mangle's cells (05 R151), in paired logic (14
R390), in a vector lane or its shadow (06 R180), in the outputs of the sort unit by position (14 R391), and in the
coded memories of the bench (14 R392): the counts of corrected errors of the shelf and of the others; and double-bit
errors by shelf segment, by till entry, by row of a fused kernel with the row-file entry, by seam, row and segment of a
seam queue, and in the scale queue. -/
structure Upset where
  cells : List CellError := []
  pair : Option PairError := none
  lane : Option LaneError := none
  sortErrs : List (Nat × BitVec 64) := []
  shelfCe : Nat := 0
  otherCe : Nat := 0
  shelfUe : List Nat := []
  tillUe : List Nat := []
  rowUe : List (Nat × Nat) := []
  seamUe : List (Nat × Nat × Nat) := []
  scaleUe : Bool := false
  deriving DecidableEq, Repr, Inhabited

/-- A frame: the 16-byte header of R338 and R340 and the payload. `zeros` gathers every header bit that
must be zero; `dHi` and `sHi` are bits [23:18] of the words at 0x06 and 0x09; `c`, `d` and `ef` are the
bytes at 0x0C, 0x0D and the half-word at 0x0E. -/
structure Frame where
  typ : Nat := 0
  vc : Nat := 0
  cls : Bool := false
  rev : Bool := false
  part : Nat := 0
  last : Bool := false
  plen : Nat := 0
  shr : Bool := false
  stain : Nat := 0
  zeros : Nat := 0
  epoch : BitVec 16 := 0
  dst : Nat := 0
  dHi : Nat := 0
  src : Nat := 0
  sHi : Nat := 0
  c : Nat := 0
  d : Nat := 0
  ef : Nat := 0
  payload : List Byte := []
  deriving DecidableEq, Repr, Inhabited

/-- How a frame reaches the crossing: on a port with its LSEQ (12 R331), or from this module itself
(07 R229: a peer word may name a bench on this module). -/
inductive Via where
  | port (n : PortId) (lseq : Nat)
  | home
  deriving DecidableEq, Repr, Inhabited

/-- What befalls a frame's work at this module: the tries in which the two halves of the adder that it uses differ (14 R390),
and, for a MEM_REQ, that the memory-request timer of one of its lines fires (11 R319; 12 R356). -/
structure FrameEvents where
  disagree : Nat := 0
  timeout : Bool := false
  deriving DecidableEq, Repr, Inhabited

/-- A control block (12 R330): two credit returns, each (VC, CLASS, SHR, cells). -/
structure ControlBlock where
  ackValid : Bool := false
  replay : Bool := false
  probeDone : Bool := false
  ack : Nat := 0
  replayFrom : Nat := 0
  creditA : Nat × Bool × Bool × Nat := (0, false, false, 0)
  creditB : Nat × Bool × Bool × Nat := (0, false, false, 0)
  deriving DecidableEq, Repr, Inhabited

/-- An identity block (12 R333). -/
structure IdentBlock where
  port : Nat := 0
  role : Nat := 0
  hwType : Nat := 0
  coord : Nat := 0
  dimX : Nat := 0
  dimY : Nat := 0
  dimZ : Nat := 0
  dir : Nat := 0
  deriving DecidableEq, Repr, Inhabited

/-- Where a management datagram comes from and its REQ_ID: the source address, and the coordinates of
the module it was relayed for (15 R431, R434, R437). -/
structure MsgSrc where
  addr : BitVec 128 := 0
  reqId : Nat := 0
  relay : Option Nat := none
  deriving DecidableEq, Repr, Inhabited

/-- Errors in the 72 symbols of a line as a stack returns it (11 R313): a symbol, of which 0 to 63 are the data bytes and 64
to 71 the check bytes, and the bits that differ in it. -/
abbrev SymbolErrors := List (Nat × Byte)

/-- An error in a line that a tile cache holds (11 R317). -/
inductive CacheError where
  | none
  | single
  | double
  deriving DecidableEq, Repr, Inhabited

/-- An atomic operation by its ATOP code, width in bytes and sign (11 R308; 12 R355). `fp` asks for the FP32 minimum or
maximum of R308, for which no requester of R309 has a code. -/
structure AtomicOp where
  atop : Nat := 0
  width : Nat := 0
  signed : Bool := false
  fp : Bool := false
  opnd : BitVec 64 := 0
  exp : BitVec 64 := 0
  deriving DecidableEq, Repr, Inhabited

/-- Who sends a line request to a home (11 R296, R300). -/
inductive Requester where
  | bench (b : BenchId)
  | clerk (c : CoreId)
  | crossing (p : PartId)
  | hub
  deriving DecidableEq, Repr, Inhabited

/-- What a line request asks (11 R296, R308, R312): the write of 64 bytes gives one Bool a byte that
it writes. -/
inductive LineOp where
  | read
  | write (data : List Byte) (mask : List Bool) (stain : Bool)
  | atomic (a : AtomicOp)
  deriving DecidableEq, Repr, Inhabited

/-- What befalls a line request as its home performs it: the tries in which the two halves of the home's adder differ (14
R390), and an error in the line that the home's cache holds (11 R317). -/
structure LineEvents where
  disagree : Nat := 0
  err : CacheError := .none
  deriving DecidableEq, Repr, Inhabited

/-- A line request that waits at its home. -/
structure LineRequest where
  sender : Requester := .hub
  pa : Nat := 0
  op : LineOp := .read
  deriving DecidableEq, Repr, Inhabited

/-- How far a zero fill has come: every line before offset `upto` of its stack (11 R323). -/
structure FillStep where
  stack : StackId := 0
  upto : Nat := 0
  deriving DecidableEq, Repr, Inhabited

/-- How far the copy into CH16 has come: every line of the channel before `upto`; and the lines that the replaced channel
could not return (11 R321). -/
structure CopyStep where
  stack : StackId := 0
  upto : Nat := 0
  lost : List Nat := []
  deriving DecidableEq, Repr, Inhabited

/-- A unit of a link stream as it arrives, and whether its codeword was uncorrectable (12 R329). -/
structure LinkUnit where
  bytes : List Byte := []
  uncorrected : Bool := false
  deriving DecidableEq, Repr, Inhabited

/-- A frame and what happens while it is served. -/
structure ServedFrame where
  frame : Frame := {}
  events : FrameEvents := {}
  deriving DecidableEq, Repr, Inhabited

/-- The straps sampled at reset release (18 R485). -/
structure Straps where
  bootSrc : BitVec 2 := 0
  clkMode : BitVec 2 := 0
  deriving DecidableEq, Repr, Inhabited

/-- What a clerk core asks of memory or control space (15 R420 to R422): a load or a store of `size` bytes, or, on
the line of its address in the cores' caches, cbo.flush, cbo.inval, the departure of a clean line, and
fence rw,rw. -/
inductive ClerkOp where
  | load (size : Nat)
  | store (size : Nat) (data : BitVec 64)
  | flush
  | inval
  | evict
  | fence
  deriving DecidableEq, Repr, Inhabited

/-- The clerk-core atomic instructions (11 R309). -/
inductive ClerkAmo where
  | add | min_ | max_ | minu | maxu | swap | and_ | or_ | xor_ | lr | sc
  deriving DecidableEq, Repr, Inhabited

/-- What a self-test of one bench finds (14 R412; 01 R26 to R28): the faulty cells, the physical rows and columns
chosen to exclude, the merge leaves that fail, and the failing shelf rows with the spare row chosen for each; or
another unit that failed. -/
inductive TestOutcome where
  | pass (cells : List (Nat × Nat)) (rows cols leaves : List Nat) (shelf : List (Nat × Nat))
  | fail (unit : Nat)
  deriving DecidableEq, Repr, Inhabited

/-- The measured values of one renewal of the sideband (15 R438, R439). -/
structure Measured where
  mv : Nat := 0
  current : Nat := 0
  stackTemp : List Int := []
  hubJunction : Int := 0
  coolant : Int := 0
  tileRailMv : List Nat := []
  hubRailMv : Nat := 0
  deriving DecidableEq, Repr, Inhabited

/-- One command of the module. -/
inductive Instr where
  /-- FETCH (R209). -/
  | fetch (b : BenchId) (o : MoveOp) (u : Upset)
  /-- STORE (R209). -/
  | store (b : BenchId) (o : MoveOp) (u : Upset)
  /-- COPY_SHELF (R210). -/
  | copyShelf (b : BenchId) (o : CopyOp) (u : Upset)
  /-- COPY_TO_SEAM (R202). -/
  | copyToSeam (b : BenchId) (o : CopyOp) (u : Upset)
  /-- COPY_FROM_SEAM (R202). -/
  | copyFromSeam (b : BenchId) (o : CopyOp) (u : Upset)
  /-- COPY_CONVERT (R210). -/
  | copyConvert (b : BenchId) (o : CopyOp) (u : Upset)
  /-- LOADW (R139). -/
  | loadw (b : BenchId) (o : LoadwOp) (u : Upset)
  /-- LOADW_MASK (R211). -/
  | loadwMask (b : BenchId) (o : MaskOp) (u : Upset)
  /-- PRESS (R212). -/
  | press (b : BenchId) (o : PressOp) (u : Upset)
  /-- PRESS_COMPACTED (R213). -/
  | pressCompacted (b : BenchId) (o : PressOp) (u : Upset)
  /-- COMPACT_COUNT (R157). -/
  | compactCount (b : BenchId) (o : CompactOp) (u : Upset)
  /-- COMPACT_PLAN (R161). -/
  | compactPlan (b : BenchId) (o : CompactOp) (u : Upset)
  /-- COMPACT_STREAM (R164). -/
  | compactStream (b : BenchId) (o : CompactOp) (u : Upset)
  /-- COMPACT_COMPRESS (R176). -/
  | compactCompress (b : BenchId) (o : CompactOp) (u : Upset)
  /-- MERGE (R170). -/
  | merge (b : BenchId) (o : MergeOp) (u : Upset)
  /-- SORT (R217). -/
  | sort (b : BenchId) (o : SortOp) (u : Upset)
  /-- SCAN (R218). -/
  | scan (b : BenchId) (o : ScanOp) (u : Upset)
  /-- VEC (R219). -/
  | vec (b : BenchId) (o : VecOp) (u : Upset)
  /-- VEC_SOFTMAX_FORWARD (R221). -/
  | vecSoftmaxForward (b : BenchId) (o : FusedOp) (u : Upset)
  /-- VEC_SOFTMAX_BACKWARD (R221). -/
  | vecSoftmaxBackward (b : BenchId) (o : FusedOp) (u : Upset)
  /-- VEC_NORM_FORWARD (R221). -/
  | vecNormForward (b : BenchId) (o : FusedOp) (u : Upset)
  /-- VEC_NORM_BACKWARD (R221). -/
  | vecNormBackward (b : BenchId) (o : FusedOp) (u : Upset)
  /-- SIZE (R222). -/
  | size (b : BenchId) (o : SizeOp) (u : Upset)
  /-- QUANT (R223). -/
  | quant (b : BenchId) (o : QuantOp) (u : Upset)
  /-- STAT (R224). -/
  | stat (b : BenchId) (o : StatOp) (u : Upset)
  /-- UPDATE (R225). -/
  | update (b : BenchId) (o : UpdateOp) (u : Upset)
  /-- DIGEST (R227). -/
  | digest (b : BenchId) (o : DigestOp) (u : Upset)
  /-- SIGNAL (R228). -/
  | signal (b : BenchId) (o : SignalOp)
  /-- WAIT (R228). -/
  | wait (b : BenchId) (o : WaitOp)
  /-- FENCE (R228). -/
  | fence (b : BenchId) (scope : Bool)
  /-- SEND (R230). -/
  | send (b : BenchId) (o : MsgOp)
  /-- RECV (R230). -/
  | recv (b : BenchId) (o : MsgOp)
  /-- REDUCE (R231). -/
  | reduce (b : BenchId) (o : ReduceOp)
  /-- EXCHANGE_DISPATCH (R262). -/
  | exchangeDispatch (b : BenchId) (o : ExchangeOp)
  /-- EXCHANGE_RETURN (R266). -/
  | exchangeReturn (b : BenchId) (o : ExchangeOp)
  /-- FOLD (R373). -/
  | fold (b : BenchId) (o : FoldOp)
  /-- LOOP (R233). -/
  | loop (b : BenchId) (o : LoopOp)
  /-- JUMP (R233). -/
  | jump (b : BenchId) (disp : Int)
  /-- EVENT (R233). -/
  | event (b : BenchId) (o : EventOp)
  /-- HALT (R233). -/
  | halt (b : BenchId) (code : Nat)
  /-- BENCH_HALTED (R233). -/
  | benchHalted (b : BenchId)
  /-- ORDER_LINE_FETCH (R190). -/
  | orderLineFetch (b : BenchId) (line : Nat)
  /-- ORDER_DECODE (R191). -/
  | orderDecode (b : BenchId) (parity : Bool)
  /-- ORDER_ISSUE (R193). -/
  | orderIssue (b : BenchId)
  /-- ORDER_COMPLETE (R200). -/
  | orderComplete (b : BenchId) (slot : Nat)
  /-- SIGNAL_DELIVER (R201). -/
  | signalDeliver (b : BenchId) (src : Nat)
  /-- DESCRIPTOR_FILL (R241). -/
  | descriptorFill (b : BenchId) (desc : Nat) (parity : Bool)
  /-- TRANSLATION_WALK (R249). -/
  | translationWalk (b : BenchId) (walk : Nat)
  /-- SEAM_ROW_ARRIVE (R202). -/
  | seamRowArrive (p : PartId) (seam : Nat)
  /-- EVENT_RING_INTERRUPT (R425). -/
  | eventRingInterrupt (p : PartId)
  /-- BQ_START (R197). -/
  | bqStart (b : BenchId)
  /-- BQ_STOP (R197). -/
  | bqStop (b : BenchId)
  /-- BQ_CLR_TOKENS (R198). -/
  | bqClrTokens (b : BenchId)
  /-- BQ_SEED_WRITE (R238). -/
  | bqSeedWrite (b : BenchId) (seed : BitVec 64)
  /-- INVAL_ALL (R249). -/
  | invalAll (b : BenchId)
  /-- INVAL_VA (R249). -/
  | invalVa (b : BenchId) (va : Nat)
  /-- PL_LOAD (R96). -/
  | plLoad
  /-- PL_UNLOAD (R100). -/
  | plUnload (p : PartId)
  /-- PL_UNLOAD_SNAPSHOT (R101). -/
  | plUnloadSnapshot (p : PartId)
  /-- PL_RELEASE (R101). -/
  | plRelease (p : PartId)
  /-- LOAD_VALIDATE_DONE (R92). -/
  | loadValidateDone
  /-- LOAD_DRAIN_DONE (R96). -/
  | loadDrainDone
  /-- LOAD_DRAIN_TIMEOUT (R97). -/
  | loadDrainTimeout
  /-- LOAD_MEMORY_WAIT_EXPIRY (R96). -/
  | loadMemoryWaitExpiry
  /-- RINSE_COMPLETE (R98). -/
  | rinseComplete (p : PartId)
  /-- ST_CTL_WRITE (R295). -/
  | stCtlWrite (k : StackId) (v : BitVec 64)
  /-- ZERO_GO (R323). -/
  | zeroGo (k : StackId)
  /-- ZERO_FILL_DONE (R323). -/
  | zeroFillDone (c : FillStep)
  /-- TC_AMO_GO (R311). -/
  | tcAmoGo (t : TileId) (c : CoreId) (v : BitVec 64) (disagree : Nat)
  /-- CH_RETIRE_BENCH (R430). -/
  | chRetireBench (a c : Nat)
  /-- CH_RETIRE_CHANNEL (R430). -/
  | chRetireChannel (a c : Nat)
  /-- CH_RETIRE_PORT (R430). -/
  | chRetirePort (a c : Nat)
  /-- CH_RETIRE_LANE (R430). -/
  | chRetireLane (a c : Nat)
  /-- CH_RETIRE_CLERK (R430). -/
  | chRetireClerk (a c : Nat)
  /-- CH_BEAT (R423). -/
  | chBeat (c : CoreId)
  /-- CLERK_HEARTBEAT_TIMEOUT (R423). -/
  | clerkHeartbeatTimeout (c : CoreId)
  /-- CLERK_CACHE_UE (R423). -/
  | clerkCacheUe (c : CoreId)
  /-- CLERK_ACCESS (R34). -/
  | clerkAccess (c : CoreId) (pa : Nat) (op : ClerkOp)
  /-- CLERK_AMO (R309). -/
  | clerkAmo (c : CoreId) (pa : Nat) (op : ClerkAmo) (width : Nat) (opnd : BitVec 64)
  /-- START_CTL_STAGE (R462). -/
  | startCtlStage (n : Nat)
  /-- START_CTL_DONE (R460). -/
  | startCtlDone
  /-- LEDGER_CLEAR (R460). -/
  | ledgerClear
  /-- LC_NONCE (R474). -/
  | lcNonce (confirm : BitVec 32)
  /-- LC_FIELD (R474). -/
  | lcField (confirm : BitVec 32)
  /-- LC_RETURN (R475). -/
  | lcReturn (confirm : BitVec 32)
  /-- LC_VOID (R474). -/
  | lcVoid (confirm : BitVec 32)
  /-- FL_READ (R479). -/
  | flRead (count : Nat)
  /-- FL_PROGRAM (R466). -/
  | flProgram (count : Nat)
  /-- FL_ERASE (R466). -/
  | flErase (count : Nat)
  /-- FL_COMMIT (R470). -/
  | flCommit (count : Nat)
  /-- FLASH_COMMAND_DONE (R479). -/
  | flashCommandDone (flashOk : Bool)
  /-- RAIL_SET_WRITE (R447). -/
  | railSetWrite (t : TileId) (v : BitVec 64)
  /-- PORT_CTL_DISABLE (R336). -/
  | portCtlDisable (n : PortId) (on : Bool)
  /-- RECAL_NOW (R332). -/
  | recalNow (n : PortId)
  /-- ER_TAIL_WRITE (R425). -/
  | erTailWrite (p : PartId) (v : BitVec 32)
  /-- BI_TEST_GO (R411). -/
  | biTestGo (b : BenchId) (extra : Bool)
  /-- SELF_TEST_DONE (R412). -/
  | selfTestDone (b : BenchId) (r : TestOutcome)
  /-- CONTROL_SPACE_MISUSE (R12). -/
  | controlSpaceMisuse (addr width : Nat) (write : Bool)
  /-- CONTROL_SPACE_UNASSIGNED (R38). -/
  | controlSpaceUnassigned (addr : Nat) (write : Bool)
  /-- REGISTER_WRITE (R13). -/
  | registerWrite (addr : Nat) (v : BitVec 64)
  /-- SEAM_STALL_EXPIRY (R62). -/
  | seamStallExpiry (p : PartId) (seam : Nat)
  /-- TOKEN_WAIT_EXPIRY (R62). -/
  | tokenWaitExpiry (b : BenchId) (slot : Nat)
  /-- MEMORY_REQUEST_EXPIRY (R319). -/
  | memoryRequestExpiry (p : PartId) (i : Nat)
  /-- CROSSING_CREDIT_EXPIRY (R64). -/
  | crossingCreditExpiry (n : PortId) (pair : Fin 8)
  /-- MGMT_COMMAND_EXPIRY (R433). -/
  | mgmtCommandExpiry (i : Nat)
  /-- BOOT_STAGE_EXPIRY (R461). -/
  | bootStageExpiry
  /-- START_COMPLETION_EXPIRY (R461). -/
  | startCompletionExpiry
  /-- STEP_RATE_WINDOW (R56). -/
  | stepRateWindow (steps : List Nat) (hub : Nat)
  /-- BOOST_LIMIT (R52). -/
  | boostLimit (t : TileId)
  /-- BOOST_PERMIT (R52). -/
  | boostPermit (t : TileId)
  /-- REF_LOSS (R61). -/
  | refLoss
  /-- REF_RETURN (R61). -/
  | refReturn
  /-- POWER_ON_RESET (R441). -/
  | powerOnReset (mv : Nat)
  /-- MOD_RESET (R456). -/
  | modReset (lowUs : Nat) (acts : Bool)
  /-- RESET_RELEASE (R457). -/
  | resetRelease (straps : Straps) (core : CoreId)
  /-- SUPPLY_CAP (R442). -/
  | supplyCap (mv : Nat)
  /-- SUPPLY_CAP_DEEPEN (R442). -/
  | supplyCapDeepen (mv : Nat)
  /-- DIP_END (R442). -/
  | dipEnd (mv : Nat)
  /-- HOLD_ENTER (R443). -/
  | holdEnter (mv : Nat)
  /-- HOLD_EXIT (R444). -/
  | holdExit (mv : Nat)
  /-- SUPPLY_CAP_LIFT (R442). -/
  | supplyCapLift (mv : Nat)
  /-- SUPPLY_LOSS_STOP (R445). -/
  | supplyLossStop
  /-- OVERVOLTAGE_STOP (R440). -/
  | overvoltageStop
  /-- RAIL_SETTLE (R447). -/
  | railSettle (t : TileId)
  /-- STACK_HEAT_ENTER (R306). -/
  | stackHeatEnter (k : StackId) (temp : Int)
  /-- STACK_HEAT_LEAVE (R306). -/
  | stackHeatLeave (k : StackId) (temp : Int)
  /-- JUNCTION_SAMPLE (R448). -/
  | junctionSample (t : TileId) (temp : Int)
  /-- TILE_THERMAL_STOP (R450). -/
  | tileThermalStop (t : TileId) (stack : Option StackId) (temp : Int)
  /-- MODULE_THERMAL_STOP (R449). -/
  | moduleThermalStop (stack : Option StackId) (temp : Int)
  /-- COOLANT_HOT_SET (R451). -/
  | coolantHotSet (temp : Int)
  /-- COOLANT_HOT_CLEAR (R451). -/
  | coolantHotClear (temp : Int)
  /-- LINE_REQUEST_ARRIVE (R312). -/
  | lineRequestArrive (r : Requester) (pa : Nat) (op : LineOp) (e : LineEvents)
  /-- MEMORY_RESPONSE (R315). -/
  | memoryResponse (k : StackId) (line : Nat) (errs : SymbolErrors)
  /-- REGULATOR_SERVE (R301). -/
  | regulatorServe (target : Nat) (waiting : List LineRequest) (e : LineEvents)
  /-- SCRUB_READ (R318). -/
  | scrubRead (k : StackId) (errs : SymbolErrors)
  /-- CHANNEL_CE_THRESHOLD (R320). -/
  | channelCeThreshold (k : StackId) (ch : Nat)
  /-- CHANNEL_NO_RESPONSE (R320). -/
  | channelNoResponse (k : StackId) (ch : Nat)
  /-- SPARE_COPY_DONE (R321). -/
  | spareCopyDone (c : CopyStep)
  /-- PORT_TRAIN_START (R333). -/
  | portTrainStart (n : PortId)
  /-- IDENTITY_BLOCK (R333). -/
  | identityBlock (n : PortId) (blk : IdentBlock)
  /-- PORT_TRAIN_DONE (R334). -/
  | portTrainDone (n : PortId)
  /-- PORT_TRAIN_TIMEOUT (R336). -/
  | portTrainTimeout (n : PortId)
  /-- PORT_TRAIN_RETRY (R333). -/
  | portTrainRetry (n : PortId)
  /-- PROBATION_DONE (R335). -/
  | probationDone (n : PortId)
  /-- LANE_FEC_THRESHOLD (R332). -/
  | laneFecThreshold (n : PortId) (lane : Nat)
  /-- LANE_LOCK_LOSS (R332). -/
  | laneLockLoss (n : PortId) (lane : Nat)
  /-- LANE_RECAL_PERIOD (R332). -/
  | laneRecalPeriod (n : PortId)
  /-- LANE_SWAP_DONE (R332). -/
  | laneSwapDone (n : PortId)
  /-- PORT_UNCORRECTABLE_BURST (R336). -/
  | portUncorrectableBurst (n : PortId) (codewords : Nat)
  /-- PORT_FAR_END_SILENT (R336). -/
  | portFarEndSilent (n : PortId)
  /-- LINK_UNIT_DISCARD (R329). -/
  | linkUnitDiscard (n : PortId) (u : LinkUnit)
  /-- CONTROL_BLOCK (R330). -/
  | controlBlock (n : PortId) (blk : ControlBlock)
  /-- TAKEOVER_REQUEST (R337). -/
  | takeoverRequest (n : PortId) (failed : PortId) (lseq : Nat)
  /-- TAKEOVER_ANSWER (R337). -/
  | takeoverAnswer (n : PortId) (lseq : Nat)
  /-- TAKEOVER_TIMEOUT (R337). -/
  | takeoverTimeout (n : PortId)
  /-- FRAME_TRANSIT (R345). -/
  | frameTransit (via : Via) (f : Frame)
  /-- MSG_FRAME (R351). -/
  | msgFrame (via : Via) (f : Frame)
  /-- EX_HDR_FRAME (R264). -/
  | exHdrFrame (via : Via) (f : Frame)
  /-- EX_DATA_FRAME (R264). -/
  | exDataFrame (via : Via) (f : Frame)
  /-- FOLD_DATA_FRAME (R377). -/
  | foldDataFrame (via : Via) (f : Frame)
  /-- RED_FRAME (R358). -/
  | redFrame (via : Via) (f : Frame) (disagree : Nat)
  /-- MEM_REQ_FRAME (R356). -/
  | memReqFrame (via : Via) (f : ServedFrame)
  /-- MEM_RESP_FRAME (R378). -/
  | memRespFrame (via : Via) (f : Frame)
  /-- MGMT_FRAME (R437). -/
  | mgmtFrame (via : Via) (f : Frame)
  /-- PROBE_FRAME (R335). -/
  | probeFrame (via : Via) (f : Frame)
  /-- HELLO (R432). -/
  | hello
  /-- SET_SLOT (R432). -/
  | setSlot (m : MsgSrc) (slot : List Byte)
  /-- MEASURE (R436). -/
  | measure (m : MsgSrc) (nonce : List Byte)
  /-- STATUS (R433). -/
  | status (m : MsgSrc)
  /-- SENSORS (R439). -/
  | sensors (m : MsgSrc)
  /-- RETIRE (R430). -/
  | retire (m : MsgSrc) (cls a c : Nat)
  /-- TICKET_ACK (R436). -/
  | ticketAck (m : MsgSrc) (seq : Nat)
  /-- TICKET_RESEND (R436). -/
  | ticketResend
  /-- TALLY (R404). -/
  | tally (m : MsgSrc) (part step : Nat) (tally : List Byte)
  /-- TALLY_TIMEOUT (R404). -/
  | tallyTimeout (p : PartId)
  /-- FAULT_NOTICE (R401). -/
  | faultNotice (m : MsgSrc) (part epoch cause cls : Nat)
  /-- EPOCH_READY (R408). -/
  | epochReady (m : MsgSrc) (part epoch loc : Nat)
  /-- PEER_ACK (R434). -/
  | peerAck (m : MsgSrc) (typ part n : Nat)
  /-- PEER_RESEND (R434). -/
  | peerResend
  /-- STAGE_WRITE (R470). -/
  | stageWrite (m : MsgSrc) (offset : Nat) (data : List Byte)
  /-- STAGE_COMMIT (R470). -/
  | stageCommit (m : MsgSrc) (length : Nat) (sha : List Byte)
  /-- BOOT_DATA (R464). -/
  | bootData (m : MsgSrc) (offset : Nat) (data : List Byte)
  /-- BOOT_REQ_RESEND (R464). -/
  | bootReqResend
  /-- ARBITER_START (R395). -/
  | arbiterStart (b : BenchId)
  /-- ARBITER_COPY_DONE (R396). -/
  | arbiterCopyDone (b : BenchId)
  /-- ARBITER_VERDICT (R397). -/
  | arbiterVerdict (b : BenchId) (u : Upset)
  /-- ARBITER_TIMEOUT (R397). -/
  | arbiterTimeout (b : BenchId)
  /-- BOOT_IMAGE_VERIFY (R469). -/
  | bootImageVerify
  /-- UPDATE_COPY_DONE (R471). -/
  | updateCopyDone
  /-- START_SELFTEST_DONE (R463). -/
  | startSelftestDone (results : List TestOutcome)
  /-- SEAL_KEY_READY (R476). -/
  | sealKeyReady
  /-- RETURN_RINSE_DONE (R475). -/
  | returnRinseDone
  /-- SMBUS_READ_WORD (R438). -/
  | smbusReadWord (addr cmd : Nat)
  /-- SENSOR_RENEW (R438). -/
  | sensorRenew (v : Measured)
  /-- TRST_N (R488). -/
  | trstN
  /-- DIP_START (R442). -/
  | dipStart (mv : Nat)
  /-- SURGE_START (R440). -/
  | surgeStart (mv : Nat)
  /-- SURGE_END (R440). -/
  | surgeEnd (mv : Nat)
  /-- MANAGEMENT_PORT_UP (R432). -/
  | managementPortUp
  /-- MANAGEMENT_PORT_DOWN (R437). -/
  | managementPortDown
  /-- UNKNOWN_TYPE (R433). -/
  | unknownType (m : MsgSrc) (data : List Byte)
  /-- MANGLE_POWER_GATE (R146). -/
  | manglePowerGate (b : BenchId) (rows cols : BitVec 32)
  /-- HUB_SELF_TEST_DONE (R463). -/
  | hubSelfTestDone (pass sfdp : Bool) (sizeMib : Nat)
  /-- CLERK_CORES_HALT (R474). -/
  | clerkCoresHalt
  /-- ARBITER_RINSE_DONE (R417). -/
  | arbiterRinseDone (b : BenchId)
  /-- CE_WINDOW_RESTART (R320). -/
  | ceWindowRestart (k : StackId)
  /-- TCK (R488). -/
  | tck (rising tms tdi : Bool)
  deriving DecidableEq, Repr, Inhabited

end Sys2Proof
end

