-- ==== Sys2Proof/Config.lean ====
section
/-! DEFINITION. What an implementation fixes and the spec does not, and the free values: constants without a
body, so that nothing can be proved of what they are. Where a fresh value is drawn each time, the constant
takes `State.freeCtr`, which the step advances. -/

namespace Sys2Proof.Config

/-- The Ethernet address and the IPv6 interface identifier drawn at a start (15 R428). -/
opaque macAddr : Nat → BitVec 48

/-- The interface identifier drawn at a start (15 R428). -/
opaque interfaceId : Nat → BitVec 64

/-- The IPv6 prefix that stateless autoconfiguration forms global addresses with (15 R428: the network gives it). -/
opaque networkPrefix : Nat → BitVec 64

/-- The address of a datagram whose other end the frames of a relay do not name (15 R437). -/
opaque relayAddress : Nat → BitVec 128

/-- What a sideband sensor reads before its first renewal (15 R438). -/
opaque sensorBefore : Nat → BitVec 16

/-- Byte `i` of a life-cycle nonce (17 R474). -/
opaque nonceByte : Nat → Nat → Byte

/-- Byte `i` of the modulus of the per-start key (17 R476). -/
opaque keyByte : Nat → Nat → Byte

/-- Byte `i` of the signature of a report under the per-start key (15 R436). -/
opaque signatureByte : Nat → List Byte → Nat → Byte

/-- Byte `i` of the ROM's SHA-512 of a key: 0 production, 1 development, 2 return (17 R469, R475). -/
opaque romKeyHash : Nat → Nat → Byte

/-- Quindan's JEP106 manufacturer code (18 R488). -/
opaque jep106 : BitVec 11

/-- Which way of a full set a tile cache gives up (11 R297: never changes a result). -/
opaque cacheVictim : Nat → Nat → Nat

/-- Which entry a full translation cache gives up (08 R249). -/
opaque tlbVictim : Nat → Nat

/-- The bytes of a line that the decoder found uncorrectable, "the data bytes as read" (11 R315). -/
opaque badLineByte : Nat → Nat → Byte

/-- The kind of instruction that a code of the test access port selects (18 R488: the BSDL file gives it):
0 IDCODE, 1 SAMPLE or PRELOAD, 2 pin control, 3 a debug chain, else BYPASS. -/
opaque tapKind : Nat → Nat

/-- The tile whose internal debug chain a code reaches; none for a chain of the hub (17 R475, 18 R489). -/
opaque tapTile : Nat → Option (Fin 4)

/-- Whether power-on reset has ended, between its start and reset release (17 R457, 18 R486). -/
opaque powerOnResetEnded : Nat → Bool

/-- How many bits the instruction register of the test access port has, less 2. -/
opaque tapIrLength : Nat

/-- How many bits the data register of a kind has, less 1 (boundary scan, debug chains). -/
opaque tapDrLength : Nat → Nat

/-- What a data register of a kind captures, by bit (18 R488, R489). -/
opaque tapCapture : Nat → Nat → Nat → Bool

/-- A 32-bit value the spec leaves undefined, fresh each time. -/
opaque freeWord : Nat → BitVec 32

/-- A flash byte that a failed flash command leaves (17 R479: flash error). -/
opaque flashErrorByte : Nat → Nat → Byte

/-- The token count for which COMPACT in plan mode lays out the runs, by what the plan is formed from (06 R162: the order
names no count; R169: benches with the same list and fields form the same plan). -/
opaque planTokens : List Nat → Nat

/-- Byte `i` of the gradient vectors and scales of a transposed compacted PRESS, by vector (06 R168 gives no place for
its gradient operands). -/
opaque transposedGrad : Nat → Nat → Nat → Byte

/-- Which output a held order and its arbiter run differ in first, where they differ in none (14 R399). -/
opaque noDifference : Nat → BitVec 32

/-- The eight check bytes of a line's data bytes (11 R313: the rule gives neither the field nor the generator). -/
opaque checkBytes : List Byte → List Byte

/-- What the decoder reads in a word that lies more than six symbols from the code and from its stained image (11 R313, R314):
nothing, or, clean or stained, the symbols that it takes for errors. -/
opaque rsReading : List Byte → Option (Bool × List Byte)

/-- Which descriptor BD_FAULT names for a strict out-of-bounds route, which goes through none (09 R262; 08 R255). -/
opaque routeDesc : Nat → BitVec 16

/-- Whether the writes that an order made before its fault took place (08 R244: not defined). -/
opaque writesBeforeFault : Nat → Bool

/-- Whether a line of a faulted or unanswered order was written, or arrived (08 R244; 11 R319: not stated). -/
opaque lineDone : Nat → Bool

/-- How many steps an event took where the spec counts steps and the model keeps no step clock (05 R152;
07 R238). -/
opaque stepsTaken : Nat → Nat

/-- Whether a READ that another module's gather pulls here completes a served block (13 R388: the request names lines, not
blocks). -/
opaque pullServes : Nat → Bool

/-- Whether a FOLD is copying blocks into its staging lines at the time a register is read (13 R388): the copying takes place
within the FOLD's own command. -/
opaque stagingNow : Nat → Nat → Bool

/-- A byte of the slots that a cancelled FOLD leaves undefined (13 R381). -/
opaque foldByte : Nat → Nat → Byte

/-- A byte that SORT leaves in its scratch rows, or in ranges that overlap as 07 R217 does not allow. -/
opaque scratchByte : Nat → Nat → Byte

end Sys2Proof.Config
end

