-- ==== Sys2Proof/Machine/Numerics.lean ====
section
/-! DEFINITION. The bit-exact arithmetic of chapter 04: formats, the one rounding `roundTo` of R112,
exact sums and products, the conversions of R117 and R493, the stochastic draws of R118, and the
correctly rounded functions of R121. Every later meaning that computes with numbers calls these. -/

namespace Sys2Proof


/-- The flags of two parts of one order together (04 R116: sticky). -/
def fOr (a b : Flags) : Flags :=
  ⟨a.nanIn || b.nanIn, a.invalid || b.invalid, a.overflow || b.overflow⟩

def fNone : Flags := {}
def fNanIn : Flags := { nanIn := true }
def fInvalid : Flags := { invalid := true }
def fOverflow : Flags := { overflow := true }

/-- `bitlen` of R112: the index of the top set bit plus 1. -/
def bitlen (n : Nat) : Nat := if n = 0 then 0 else n.log2 + 1

/-- Two's-complement reading of the low `w` bits. -/
def sext (w n : Nat) : Int :=
  let m := n % 2 ^ w
  if m < 2 ^ (w - 1) then (m : Int) else (m : Int) - (2 : Int) ^ w

/-- The low `w` bits of a signed number. -/
def trunc (w : Nat) (i : Int) : Nat := (i % (2 : Int) ^ w).toNat

/-- One row of the table of R105: total bits, exponent bits, bias, p, emin, the exponent and the
p-bit significand of maxf, and whether the format has infinities and NaN codes. -/
structure FloatSpec where
  bits : Nat
  ebits : Nat
  bias : Nat
  p : Nat
  emin : Int
  emax : Int
  nmax : Nat
  hasInf : Bool
  nanCode : Option Nat
  deriving DecidableEq, Repr

def sFP32 : FloatSpec := ⟨32, 8, 127, 24, -126, 127, 2 ^ 24 - 1, true, some 0x7FC00000⟩
def sFP48 : FloatSpec := ⟨48, 8, 127, 40, -126, 127, 2 ^ 40 - 1, true, some 0x7FC000000000⟩
def sBF16 : FloatSpec := ⟨16, 8, 127, 8, -126, 127, 2 ^ 8 - 1, true, some 0x7FC0⟩
def sFP16 : FloatSpec := ⟨16, 5, 15, 11, -14, 15, 2 ^ 11 - 1, true, some 0x7E00⟩
def sE5M2 : FloatSpec := ⟨8, 5, 15, 3, -14, 15, 7, true, some 0x7E⟩
def sE4M3 : FloatSpec := ⟨8, 4, 7, 4, -6, 8, 14, false, some 0x7F⟩
def sE3M2 : FloatSpec := ⟨6, 3, 3, 3, -2, 4, 7, false, none⟩
def sE2M3 : FloatSpec := ⟨6, 2, 1, 4, 0, 2, 15, false, none⟩
def sE2M1 : FloatSpec := ⟨4, 2, 1, 2, 0, 2, 3, false, none⟩

/-- The floating-point row of a format code, none for the integers (04 R105). -/
def Fmt.spec : Fmt → Option FloatSpec
  | .fp32 => some sFP32
  | .bf16 => some sBF16
  | .fp16 => some sFP16
  | .e4m3 => some sE4M3
  | .e5m2 => some sE5M2
  | .fp48 => some sFP48
  | .mxE4m3 => some sE4M3
  | .mxE5m2 => some sE5M2
  | .mxE3m2 => some sE3M2
  | .mxE2m3 => some sE2M3
  | .mxE2m1 => some sE2M1
  | .int8 => none
  | .int32 => none
  | .int64 => none

/-- Bits of one element (04 R105, R108). -/
def Fmt.width : Fmt → Nat
  | .fp32 => 32
  | .bf16 => 16
  | .fp16 => 16
  | .e4m3 => 8
  | .e5m2 => 8
  | .fp48 => 48
  | .mxE4m3 => 8
  | .mxE5m2 => 8
  | .mxE3m2 => 6
  | .mxE2m3 => 6
  | .mxE2m1 => 4
  | .int8 => 8
  | .int32 => 32
  | .int64 => 64

/-- The MX element formats (04 R106). -/
def Fmt.isMx : Fmt → Bool
  | .mxE4m3 => true
  | .mxE5m2 => true
  | .mxE3m2 => true
  | .mxE2m3 => true
  | .mxE2m1 => true
  | _ => false

def Fmt.isInt : Fmt → Bool
  | .int8 => true
  | .int32 => true
  | .int64 => true
  | _ => false

/-- The format of a code of R206; none for a reserved code. -/
def Fmt.ofCode : Nat → Option Fmt
  | 0 => some .fp32
  | 1 => some .bf16
  | 2 => some .fp16
  | 3 => some .e4m3
  | 4 => some .e5m2
  | 5 => some .fp48
  | 6 => some .mxE4m3
  | 7 => some .mxE5m2
  | 8 => some .mxE3m2
  | 9 => some .mxE2m3
  | 10 => some .mxE2m1
  | 11 => some .int8
  | 12 => some .int32
  | 13 => some .int64
  | _ => none

/-- The code of a format (07 R206). -/
def Fmt.code : Fmt → Nat
  | .fp32 => 0
  | .bf16 => 1
  | .fp16 => 2
  | .e4m3 => 3
  | .e5m2 => 4
  | .fp48 => 5
  | .mxE4m3 => 6
  | .mxE5m2 => 7
  | .mxE3m2 => 8
  | .mxE2m3 => 9
  | .mxE2m1 => 10
  | .int8 => 11
  | .int32 => 12
  | .int64 => 13

/-- Reads the bits of a floating-point format as an exact value (04 R105). E4M3 has one NaN code per
sign and no infinity; the MX elements below 8 bits have neither. -/
def FloatSpec.decode (f : FloatSpec) (n : Nat) : Val :=
  let fb := f.p - 1
  let neg := n / 2 ^ (f.bits - 1) % 2 = 1
  let e := n / 2 ^ fb % 2 ^ f.ebits
  let fr := n % 2 ^ fb
  let top := 2 ^ f.ebits - 1
  if f.hasInf && e = top then (if fr = 0 then .inf neg else .nan)
  else if !f.hasInf && f.nanCode.isSome && n % 2 ^ (f.bits - 1) = 2 ^ (f.bits - 1) - 1 then .nan
  else if e = 0 then .fin neg fr (f.emin - (fb : Int))
  else .fin neg (2 ^ fb + fr) ((e : Int) - (f.bias : Int) - (fb : Int))

/-- Reads one element of any format as an exact value (04 R105, R108). The MX formats are read
without their block scale. -/
def Fmt.val (f : Fmt) (n : Nat) : Val :=
  match f.spec with
  | some s => s.decode n
  | none => let i := sext f.width n; .fin (i < 0) i.natAbs 0

/-- The E8M0 scale 2^(code - 127); none for the NaN code 0xFF (04 R105). -/
def scaleExp (code : Nat) : Option Int :=
  if code = 255 then none else some ((code : Int) - 127)

/-- An exact value scaled by a power of two: exact (04 R109). -/
def Val.shift (v : Val) (k : Int) : Val :=
  match v with
  | .fin s m e => .fin s m (e + k)
  | w => w

def Val.neg (v : Val) : Val :=
  match v with
  | .fin s m e => .fin (!s) m e
  | .inf s => .inf (!s)
  | .nan => .nan

def Val.abs (v : Val) : Val :=
  match v with
  | .fin _ m e => .fin false m e
  | .inf _ => .inf false
  | .nan => .nan

def Val.isNan : Val → Bool
  | .nan => true
  | _ => false

def Val.isInf : Val → Bool
  | .inf _ => true
  | _ => false

def Val.isZero : Val → Bool
  | .fin _ m _ => m = 0
  | _ => false

def Val.isNeg : Val → Bool
  | .fin s _ _ => s
  | .inf s => s
  | .nan => false

def Val.zero : Val := .fin false 0 0

def Val.one : Val := .fin false 1 0

/-- The code of a zero, an infinity or a NaN, and of a finite maximum, in a format. -/
def FloatSpec.zeroCode (f : FloatSpec) (neg : Bool) : Nat := if neg then 2 ^ (f.bits - 1) else 0

def FloatSpec.infCode (f : FloatSpec) (neg : Bool) : Nat :=
  f.zeroCode neg + (2 ^ f.ebits - 1) * 2 ^ (f.p - 1)

def FloatSpec.maxCode (f : FloatSpec) (neg : Bool) : Nat :=
  f.zeroCode neg + ((f.emax + (f.bias : Int)).toNat * 2 ^ (f.p - 1)) + (f.nmax - 2 ^ (f.p - 1))

def FloatSpec.nan (f : FloatSpec) : Nat := f.nanCode.getD 0

/-- How a finite value beyond maxf is written (04 R117). -/
inductive Over where
  | byFormat
  | saturate
  deriving DecidableEq, Repr

def FloatSpec.overCode (f : FloatSpec) (o : Over) (neg : Bool) : Nat :=
  if f.hasInf && o = .byFormat then f.infCode neg else f.maxCode neg

/-- `round_to` of R112: the bits of (-1)^neg × mag × 2^ex in format `f`, to nearest with ties to even
or, with a draw, stochastically, and whether a finite value went beyond maxf. -/
def roundTo (f : FloatSpec) (o : Over) (neg : Bool) (mag : Nat) (ex : Int) (draw : Option Nat) :
    Nat × Bool :=
  if mag = 0 then (f.zeroCode neg, false)
  else
    let e : Int := max (ex + (bitlen mag : Int) - 1) f.emin
    let sh : Int := (e - (f.p : Int) + 1) - ex
    let n : Nat :=
      if sh ≤ 0 then mag <<< (-sh).toNat
      else
        let k := sh.toNat
        let n := mag >>> k
        let rem := mag - (n <<< k)
        let half := 1 <<< (k - 1)
        let up : Bool :=
          match draw with
          | none => decide (rem > half) || (decide (rem = half) && decide (n % 2 = 1))
          | some d => decide (((rem <<< 32) >>> k) + d ≥ 2 ^ 32)
        n + (if up then 1 else 0)
    let n' : Nat := if n = 2 ^ f.p then 2 ^ (f.p - 1) else n
    let e' : Int := if n = 2 ^ f.p then e + 1 else e
    if e' > f.emax || (e' = f.emax && n' > f.nmax) then (f.overCode o neg, true)
    else if n' < 2 ^ (f.p - 1) then (f.zeroCode neg + n', false)
    else (f.zeroCode neg + (e' + (f.bias : Int)).toNat * 2 ^ (f.p - 1) + (n' - 2 ^ (f.p - 1)), false)

/-- The conversion of an exact value into a format, with the flags of R493 (04 R117). -/
def FloatSpec.conv (f : FloatSpec) (o : Over) (v : Val) (draw : Option Nat) : Nat × Flags :=
  match v with
  | .nan => (f.nan, fNanIn)
  | .inf s => if f.hasInf && o = .byFormat then (f.infCode s, fNone) else (f.nan, fInvalid)
  | .fin s m e =>
    let (b, ov) := roundTo f o s m e draw
    (b, if ov then fOverflow else fNone)

/-- Round to the nearest integer, ties to even, or stochastically (04 R108). -/
def roundInt (neg : Bool) (mag : Nat) (ex : Int) (draw : Option Nat) : Int :=
  let n : Nat :=
    if ex ≥ 0 then mag <<< ex.toNat
    else
      let k := (-ex).toNat
      let n := mag >>> k
      let rem := mag - (n <<< k)
      let half := 1 <<< (k - 1)
      let up : Bool :=
        match draw with
        | none => decide (rem > half) || (decide (rem = half) && decide (n % 2 = 1))
        | some d => decide (((rem <<< 32) >>> k) + d ≥ 2 ^ 32)
      n + (if up then 1 else 0)
  if neg then -(n : Int) else (n : Int)

/-- The conversion of an exact value into a `w`-bit integer (04 R108, R117, R493): saturated, zero
for NaN. -/
def convInt (w : Nat) (v : Val) (draw : Option Nat) : Nat × Flags :=
  let hi : Int := (2 : Int) ^ (w - 1) - 1
  let lo : Int := -((2 : Int) ^ (w - 1))
  match v with
  | .nan => (0, fNanIn)
  | .inf s => (trunc w (if s then lo else hi), fNone)
  | .fin s m e =>
    let i := roundInt s m e draw
    if i > hi then (trunc w hi, fOverflow)
    else if i < lo then (trunc w lo, fOverflow)
    else (trunc w i, fNone)

/-- The conversion of an exact value into any format (04 R117, R108, R493). -/
def Fmt.conv (f : Fmt) (v : Val) (draw : Option Nat) : Nat × Flags :=
  match f.spec with
  | some s => s.conv (if f.isMx then .saturate else .byFormat) v draw
  | none => convInt f.width v draw

/-- rne_FP32 of an exact value. -/
def rne32 (v : Val) : Nat × Flags := sFP32.conv .byFormat v none

/-- rne_FP48 of an exact value. -/
def rne48 (v : Val) : Nat × Flags := sFP48.conv .byFormat v none

/-- rne_BF16 of an exact value. -/
def rneBf16 (v : Val) : Nat × Flags := sBF16.conv .byFormat v none

def val32 (n : Nat) : Val := sFP32.decode n

def val48 (n : Nat) : Val := sFP48.decode n

/-- A NaN that an operation made itself is INVALID, one it read is NAN_IN (04 R116); rounding a NaN
adds neither again. -/
def rnd (f : FloatSpec) (v : Val) (fl : Flags) (draw : Option Nat := none) : Nat × Flags :=
  match v with
  | .nan => (f.nan, fl)
  | w => let (b, g) := f.conv .byFormat w draw; (b, fOr fl g)

/-- The magnitude of a finite value as an integer in units of 2^`b`, for `b` at or below its
exponent. -/
def Val.units (v : Val) (b : Int) : Int :=
  match v with
  | .fin s m e => let u : Int := ((m <<< (e - b).toNat : Nat) : Int); if s then -u else u
  | _ => 0

def Val.expo : Val → Option Int
  | .fin _ m e => if m = 0 then none else some e
  | _ => none

/-- The least exponent among nonzero finite values. -/
def minExpo : List Val → Option Int
  | [] => none
  | v :: vs =>
    match v.expo, minExpo vs with
    | some a, some b => some (min a b)
    | some a, none => some a
    | none, r => r

/-- A finite value from a signed integer count of 2^`b`; `allNegZero` gives the sign of an exact zero
(04 R107). -/
def Val.ofUnits (i : Int) (b : Int) (negZero : Bool) : Val :=
  if i = 0 then .fin negZero 0 0 else .fin (i < 0) i.natAbs b

/-- The exact sum of a list (04 R107, R113): NaN when any term is NaN (NAN_IN) or infinities of both
signs meet (INVALID), an infinity when one is present, else the exact sum. -/
def exactSum (vs : List Val) : Val × Flags :=
  if vs.any Val.isNan then (.nan, fNanIn)
  else
    let pi := vs.any (· == Val.inf false)
    let ni := vs.any (· == Val.inf true)
    if pi && ni then (.nan, fInvalid)
    else if pi then (.inf false, fNone)
    else if ni then (.inf true, fNone)
    else
      match minExpo vs with
      | none => (.fin (!vs.isEmpty && vs.all Val.isNeg) 0 0, fNone)
      | some b => (Val.ofUnits (vs.foldl (fun a v => a + v.units b) 0) b false, fNone)

/-- The exact sum of two values. -/
def vAdd (a b : Val) : Val × Flags := exactSum [a, b]

/-- The exact difference. -/
def vSub (a b : Val) : Val × Flags := exactSum [a, b.neg]

/-- The exact product (04 R113, R116): 0 × ∞ is a NaN and INVALID. -/
def vMul (a b : Val) : Val × Flags :=
  match a, b with
  | .nan, _ => (.nan, fNanIn)
  | _, .nan => (.nan, fNanIn)
  | .inf s, .inf t => (.inf (s != t), fNone)
  | .inf s, .fin t m _ => if m = 0 then (.nan, fInvalid) else (.inf (s != t), fNone)
  | .fin t m _, .inf s => if m = 0 then (.nan, fInvalid) else (.inf (s != t), fNone)
  | .fin s m e, .fin t n g => (.fin (s != t) (m * n) (e + g), fNone)

/-- The quotient m / n × 2^ex as a value that rounds as the exact quotient does: at least 160 bits and
a sticky bit below them, so neither a tie nor the 32 bits of R112's `d` can be misread. -/
def stickyDiv (neg : Bool) (m n : Nat) (ex : Int) : Val :=
  if m = 0 then .fin neg 0 0
  else
    let k := 700 + bitlen n - min 500 (bitlen m)
    let q := (m <<< k) / n
    let r := (m <<< k) % n
    .fin neg (2 * q + (if r = 0 then 0 else 1)) (ex - (k : Int) - 1)

/-- The quotient of two values with the special cases of IEEE 754-2019 (04 R116, R121): 0/0 and ∞/∞
are INVALID, x/0 is ∞ of the sign. -/
def vDiv (a b : Val) : Val × Flags :=
  match a, b with
  | .nan, _ => (.nan, fNanIn)
  | _, .nan => (.nan, fNanIn)
  | .inf _, .inf _ => (.nan, fInvalid)
  | .inf s, .fin t _ _ => (.inf (s != t), fNone)
  | .fin s _ _, .inf t => (.fin (s != t) 0 0, fNone)
  | .fin s m e, .fin t n g =>
    if n = 0 then (if m = 0 then (.nan, fInvalid) else (.inf (s != t), fNone))
    else (stickyDiv (s != t) m n (e - g), fNone)

/-- Digit-by-digit integer square root: `k` bits of the root of `n`, starting from `r`. -/
def isqrtGo : Nat → Nat → Nat → Nat
  | 0, _, r => r
  | k + 1, n, r =>
    let t := r + 2 ^ k
    if t * t ≤ n then isqrtGo k n t else isqrtGo k n r

/-- The integer square root. -/
def isqrt (n : Nat) : Nat := isqrtGo (bitlen n / 2 + 1) n 0

/-- A square root that rounds as the exact root does: at least 160 bits and a sticky bit. -/
def stickySqrt (m : Nat) (ex : Int) : Val :=
  if m = 0 then .fin false 0 0
  else
    let m1 := if ex % 2 = 0 then m else 2 * m
    let e1 := if ex % 2 = 0 then ex else ex - 1
    let k := 170
    let y := m1 <<< (2 * k)
    let r := isqrt y
    .fin false (2 * r + (if r * r = y then 0 else 1)) (e1 / 2 - (k : Int) - 1)

/-- SQRT (04 R121; IEEE 754-2019: the root of a negative number is INVALID, of -0 it is -0). -/
def vSqrt (a : Val) : Val × Flags :=
  match a with
  | .nan => (.nan, fNanIn)
  | .inf false => (.inf false, fNone)
  | .inf true => (.nan, fInvalid)
  | .fin s m e =>
    if m = 0 then (.fin s 0 0, fNone) else if s then (.nan, fInvalid) else (stickySqrt m e, fNone)

/-- RSQRT (04 R121: RSQRT(±0) = ±∞). The root of the reciprocal, floored with a sticky bit. -/
def vRsqrt (a : Val) : Val × Flags :=
  match a with
  | .nan => (.nan, fNanIn)
  | .inf false => (.fin false 0 0, fNone)
  | .inf true => (.nan, fInvalid)
  | .fin s m e =>
    if m = 0 then (.inf s, fNone)
    else if s then (.nan, fInvalid)
    else
      let m1 := if e % 2 = 0 then m else 2 * m
      let e1 := if e % 2 = 0 then e else e - 1
      let k := 170 + bitlen m1
      let y := (1 <<< (2 * k)) / m1
      let r := isqrt y
      (.fin false (2 * r + (if r * r * m1 = 1 <<< (2 * k) then 0 else 1)) (-(e1 / 2) - (k : Int) - 1),
        fNone)

/-- RECIP (04 R121). -/
def vRecip (a : Val) : Val × Flags := vDiv Val.one a

/-- a < b on exact values; infinities compare by sign, NaN never. -/
def vLt (a b : Val) : Bool :=
  match a, b with
  | .nan, _ => false
  | _, .nan => false
  | .inf s, .inf t => s && !t
  | .inf s, _ => s
  | _, .inf t => !t
  | x, y =>
    match minExpo [x, y] with
    | none => false
    | some b => x.units b < y.units b

/-- MIN (04 R121: exact; NaN if either is NaN; MIN(-0, +0) is -0). -/
def vMin (a b : Val) : Val × Flags :=
  if a.isNan || b.isNan then (.nan, fNanIn)
  else if vLt a b then (a, fNone)
  else if vLt b a then (b, fNone)
  else (if a.isNeg then a else b, fNone)

/-- MAX (04 R121: MAX(-0, +0) is +0). -/
def vMax (a b : Val) : Val × Flags :=
  if a.isNan || b.isNan then (.nan, fNanIn)
  else if vLt a b then (b, fNone)
  else if vLt b a then (a, fNone)
  else (if a.isNeg then b else a, fNone)

/-- floor(log2 |v|) of a nonzero finite value. -/
def vLog2Floor (v : Val) : Int :=
  match v with
  | .fin _ m e => e + (bitlen m : Int) - 1
  | _ => 0

/-! The transcendental functions of R121. Each is computed in fixed point with `w` fraction bits as an
integer whose error is far below 2^(w/2), and rounded only when both ends of that interval round to the
same bits; else the precision doubles. -/

/-- x × y in fixed point. -/
def fxMul (w : Nat) (x y : Int) : Int := (x * y) / (2 : Int) ^ w

/-- Sum of the series whose term follows from the one before: `next k t`. -/
def series (next : Nat → Int → Int) (out : Nat → Int → Int) : Nat → Nat → Int → Int → Int
  | 0, _, _, acc => acc
  | fuel + 1, k, t, acc => series next out fuel (k + 1) (next k t) (acc + out k t)

/-- 2 × atanh(z) in fixed point, |z| at most 1/3. -/
def fxAtanh2 (w : Nat) (z : Int) : Int :=
  let z2 := fxMul w z z
  2 * series (fun _ t => fxMul w t z2) (fun k t => t / (2 * (k : Int) + 1)) (w / 3 + 2) 0 z 0

/-- ln 2 in fixed point: 2 atanh(1/3). -/
def fxLn2 (w : Nat) : Int := fxAtanh2 w ((2 : Int) ^ w / 3)

/-- atan(1/n) in fixed point. -/
def fxAtanInv (w n : Nat) : Int :=
  let z := (2 : Int) ^ w / (n : Int)
  let n2 := ((n * n : Nat) : Int)
  series (fun _ t => -(t / n2)) (fun k t => t / (2 * (k : Int) + 1)) (w / 4 + 2) 0 z 0

/-- π by Machin's formula. -/
def fxPi (w : Nat) : Int := 16 * fxAtanInv w 5 - 4 * fxAtanInv w 239

/-- exp(r) in fixed point, |r| at most 1. -/
def fxExpSmall (w : Nat) (r : Int) : Int :=
  series (fun k t => fxMul w t r / ((k : Int) + 1)) (fun _ t => t) (w / 2 + 8) 0 ((2 : Int) ^ w) 0

/-- A finite value in fixed point with `w` fraction bits, floored. -/
def toFx (w : Nat) (neg : Bool) (m : Nat) (e : Int) : Int :=
  let k := e + (w : Int)
  let u : Int := if k ≥ 0 then ((m <<< k.toNat : Nat) : Int) else ((m >>> (-k).toNat : Nat) : Int)
  if neg then -u else u

/-- exp of a fixed-point number: a fixed-point mantissa in about [1, 2) and a power of two. -/
def fxExp (w : Nat) (x : Int) : Int × Int :=
  let l := fxLn2 w
  let k := x / l
  (fxExpSmall w (x - k * l), k)

/-- ln of m × 2^e in fixed point, m nonzero. -/
def fxLn (w : Nat) (m : Nat) (e : Int) : Int :=
  let b := bitlen m
  let one : Int := (2 : Int) ^ w
  let x : Int := toFx w false m (1 - (b : Int))
  let z := ((x - one) * one) / (x + one)
  fxAtanh2 w z + (e + (b : Int) - 1) * fxLn2 w

/-- erf of a fixed-point number, |x| below 8. -/
def fxErf (w : Nat) (x : Int) : Int :=
  let x2 := fxMul w x x
  let s := series (fun k t => -(fxMul w t x2 / ((k : Int) + 1))) (fun k t => t / (2 * (k : Int) + 1))
    (w / 2 + 300) 0 x 0
  let rootPi : Int := ((isqrt ((fxPi w).toNat <<< w) : Nat) : Int)
  (2 * s * (2 : Int) ^ w) / rootPi

/-- An interval of fixed-point numbers as two values of one exponent. -/
def fxVal (i : Int) (w : Nat) (k : Int) : Val := Val.ofUnits i (k - (w : Int)) false

/-- Doubles the precision until both ends of the interval round to the same FP32 bits. The last
precision tried is far past any FP32 argument's closeness to a rounding boundary. -/
def ziv (f : Nat → Int × Int) : Nat → Nat → Nat × Flags
  | 0, w =>
    let (i, k) := f w
    rne32 (fxVal i w k)
  | fuel + 1, w =>
    let (i, k) := f w
    let d : Int := (2 : Int) ^ (w / 2)
    let lo := rne32 (fxVal (i - d) w k)
    let hi := rne32 (fxVal (i + d) w k)
    if lo.1 = hi.1 then hi else ziv f fuel (2 * w)

/-- A value too large, or nonzero and too small, for any FP32. -/
def hugeVal (neg : Bool) : Val := .fin neg 1 4000
def tinyVal (neg : Bool) : Val := .fin neg 1 (-4000)
/-- Just below 1. -/
def almostOne (neg : Bool) : Val := .fin neg (2 ^ 200 - 1) (-200)

/-- |v| is at least 2^k. -/
def bigAbs (m : Nat) (e : Int) (k : Int) : Bool := m ≠ 0 && e + (bitlen m : Int) - 1 ≥ k

/-- EXP, correctly rounded (04 R121). -/
def crExp (v : Val) : Nat × Flags :=
  match v with
  | .nan => (sFP32.nan, fNanIn)
  | .inf s => if s then (0, fNone) else (sFP32.infCode false, fNone)
  | .fin s m e =>
    if m = 0 then rne32 Val.one
    else if bigAbs m e 10 then rne32 (if s then tinyVal false else hugeVal false)
    else ziv (fun w => fxExp w (toFx w s m e)) 3 512

/-- EXP2, correctly rounded; an integer argument is exact. -/
def crExp2 (v : Val) : Nat × Flags :=
  match v with
  | .nan => (sFP32.nan, fNanIn)
  | .inf s => if s then (0, fNone) else (sFP32.infCode false, fNone)
  | .fin s m e =>
    if m = 0 then rne32 Val.one
    else if bigAbs m e 10 then rne32 (if s then tinyVal false else hugeVal false)
    else if e ≥ 0 || m % 2 ^ (-e).toNat = 0 then
      rne32 (.fin false 1 (let i := toFx 0 false m e; if s then -i else i))
    else ziv (fun w =>
      let x := toFx w s m e
      let k := x / (2 : Int) ^ w
      (fxExpSmall w (fxMul w (x - k * (2 : Int) ^ w) (fxLn2 w)), k)) 3 512

/-- LOG, correctly rounded; LOG(±0) is -∞, of a negative INVALID. -/
def crLog (v : Val) : Nat × Flags :=
  match v with
  | .nan => (sFP32.nan, fNanIn)
  | .inf s => if s then (sFP32.nan, fInvalid) else (sFP32.infCode false, fNone)
  | .fin s m e =>
    if m = 0 then (sFP32.infCode true, fNone)
    else if s then (sFP32.nan, fInvalid)
    else if e ≤ 0 && m = 2 ^ (-e).toNat then (0, fNone)
    else ziv (fun w => (fxLn w m e, 0)) 3 512

/-- LOG2, correctly rounded; a power of two is exact. -/
def crLog2 (v : Val) : Nat × Flags :=
  match v with
  | .nan => (sFP32.nan, fNanIn)
  | .inf s => if s then (sFP32.nan, fInvalid) else (sFP32.infCode false, fNone)
  | .fin s m e =>
    if m = 0 then (sFP32.infCode true, fNone)
    else if s then (sFP32.nan, fInvalid)
    else if m = 2 ^ m.log2 then
      let i : Int := e + (m.log2 : Int)
      rne32 (.fin (i < 0) i.natAbs 0)
    else ziv (fun w => ((fxLn w m e * (2 : Int) ^ w) / fxLn2 w, 0)) 3 512

/-- TANH, correctly rounded. -/
def crTanh (v : Val) : Nat × Flags :=
  match v with
  | .nan => (sFP32.nan, fNanIn)
  | .inf s => rne32 (.fin s 1 0)
  | .fin s m e =>
    if m = 0 then (sFP32.zeroCode s, fNone)
    else if bigAbs m e 6 then rne32 (almostOne s)
    else ziv (fun w =>
      let (y, k) := fxExp w (2 * toFx w s m e)
      let one : Int := (2 : Int) ^ w
      let y' : Int := if k ≥ 0 then y * (2 : Int) ^ k.toNat else y / (2 : Int) ^ (-k).toNat
      (((y' - one) * one) / (y' + one), 0)) 3 512

/-- SIGMOID 1 / (1 + exp(-x)), correctly rounded. -/
def crSigmoid (v : Val) : Nat × Flags :=
  match v with
  | .nan => (sFP32.nan, fNanIn)
  | .inf s => if s then (0, fNone) else rne32 Val.one
  | .fin s m e =>
    if m = 0 then rne32 (.fin false 1 (-1))
    else if bigAbs m e 10 then rne32 (if s then tinyVal false else almostOne false)
    else if !s then ziv (fun w =>
      let (y, k) := fxExp w (toFx w true m e)
      let one : Int := (2 : Int) ^ w
      let y' : Int := if k ≥ 0 then y * (2 : Int) ^ k.toNat else y / (2 : Int) ^ (-k).toNat
      ((one * one) / (one + y'), 0)) 3 512
    else ziv (fun w =>
      let (y, k) := fxExp w (toFx w true m e)
      let one : Int := (2 : Int) ^ w
      let y' : Int := if k ≥ 0 then y * (2 : Int) ^ k.toNat else y / (2 : Int) ^ (-k).toNat
      -- e^x / (1 + e^x), with the power of two kept apart
      ((y * one) / (one + y'), k)) 3 512

/-- ERF, correctly rounded. -/
def crErf (v : Val) : Nat × Flags :=
  match v with
  | .nan => (sFP32.nan, fNanIn)
  | .inf s => rne32 (.fin s 1 0)
  | .fin s m e =>
    if m = 0 then (sFP32.zeroCode s, fNone)
    else if bigAbs m e 3 then rne32 (almostOne s)
    else ziv (fun w => (fxErf w (toFx w s m e), 0)) 3 512

/-- Draw number `n` of R118. -/
def draw (seed : BitVec 64) (n : Nat) : Nat :=
  let z : BitVec 64 := seed + (BitVec.ofNat 64 (n + 1)) * 0x9E3779B97F4A7C15#64
  let z := (z ^^^ (z >>> 30)) * 0xBF58476D1CE4E5B9#64
  let z := (z ^^^ (z >>> 27)) * 0x94D049BB133111EB#64
  let z := z ^^^ (z >>> 31)
  z.toNat / 2 ^ 32

/-- A correctly rounded square root and reciprocal root in FP32 (04 R121, R122, R124). -/
def crSqrt (v : Val) : Nat × Flags := let (r, f) := vSqrt v; rnd sFP32 r f
def crRsqrt (v : Val) : Nat × Flags := let (r, f) := vRsqrt v; rnd sFP32 r f

/-- ulp(w) of a master weight as an exponent of two (04, before R124). -/
def ulpExp (v : Val) : Int :=
  match v with
  | .fin _ m e => if m = 0 then -149 else max (e + (bitlen m : Int) - 1) (-126) - 23
  | _ => -149

/-- The amax, element range exponent of an MX element format (04 R123). -/
def Fmt.mxEmax : Fmt → Int
  | .mxE4m3 => 8
  | .mxE5m2 => 15
  | .mxE3m2 => 4
  | _ => 2

end Sys2Proof
end

