-- ==== Sys2Proof/Machine/State.lean ====
section
/-! DEFINITION. The whole state of the module as plain data, every structure with its reset values as
field defaults, the reasons a step can stop, and `State.reset`. The list of every field with its width,
rule and reset value stands in INVENTORY.md. -/

namespace Sys2Proof.Machine

open Sys2Proof

/-- Why the machine would stop. No meaning of this model raises a fault: every failure the spec
describes (an order fault, a refused command, an access fault, a stopped partition) is a next state. The
one reason stands for an effect outside the model and is safe. -/
inductive Fault where
  /-- Raised by no meaning. Safe: the machine would stop where the hardware may go on. -/
  | outsideModel
  deriving DecidableEq, Repr, Inhabited

/-- Why a command has no meaning here. -/
inductive Refusal where
  /-- Raised by `exec` for a command whose meaning is not written, by its mnemonic. Safe. -/
  | notModelled (mnemonic : String)
  deriving DecidableEq, Repr, Inhabited

/-- What a bench is assigned to, the states of BENCH_STATE (01 R40): 0b11, 0b00, 0b01 with the
partition, logical index and SHAPE (four quadrants) of its bench record, 0b10 with the partition. -/
inductive Assign where
  | retired
  | free
  | assigned (p : PartId) (logical : Nat) (quad : Bool)
  | held (p : PartId)
  deriving DecidableEq, Repr, Inhabited

/-- Whether a bench program runs (07 R238 STATE; held and faulted follow from other fields). -/
inductive SeqState where
  | idle
  | running
  | halted
  deriving DecidableEq, Repr, Inhabited

/-- Why a bench is held (14 R418 HOLD). -/
inductive HoldKind where
  | none
  | examiner
  | paired
  | shadow
  | sortCheck
  deriving DecidableEq, Repr, Inhabited

/-- A seam record (03 R86). -/
structure SeamRec where
  id : Nat := 0
  src : Nat := 0
  srcOut : Nat := 0
  dst : Nat := 0
  dstIn : Nat := 0
  deriving DecidableEq, Repr, Inhabited

/-- A partition header record (03 R82). -/
structure PartHdr where
  epoch : BitVec 16 := 0
  quiesce : Nat := 0
  stainPolicy : Nat := 0
  strictPolicy : Nat := 0
  drainMs : Nat := 0
  tSeamMs : Nat := 0
  tTokenMs : Nat := 0
  tMem : Nat := 0
  tCreditMs : Nat := 0
  tallyInterval : Nat := 0
  splitThreshold : Nat := 0
  addrBook : Nat := 0
  deriving DecidableEq, Repr, Inhabited

/-- A bench record (03 R84). -/
structure BenchRec where
  tile : Nat := 0
  phys : Nat := 0
  logical : Nat := 0
  shape : Nat := 0
  deriving DecidableEq, Repr, Inhabited

/-- A regulator record (03 R87). -/
structure RegRec where
  target : Nat := 0
  rate : Nat := 0
  depth : Nat := 0
  deriving DecidableEq, Repr, Inhabited

/-- A reduction-tree record (03 R88). -/
structure TreeRec where
  id : Nat := 0
  modes : Nat := 0
  parent : Nat := 0
  children : List Nat := []
  replicas : Nat := 0
  deriving DecidableEq, Repr, Inhabited

/-- The module section's record (03 R79): dimensions, coordinates, the port and the detour of each
direction, and each port's ROLE with its PEER coordinates. -/
structure ModSection where
  dim : List Nat := [1, 1, 1]
  coord : List Nat := [0, 0, 0]
  portDir : List Nat := []
  detour : List Nat := []
  ports : List (Nat × List Nat) := []
  deriving DecidableEq, Repr, Inhabited

/-- The sections of one partition in an accepted stream (03 R77). -/
structure PartImage where
  part : Nat := 0
  hdr : PartHdr := {}
  benches : List BenchRec := []
  seams : List SeamRec := []
  regs : List RegRec := []
  trees : List TreeRec := []
  fill : List (BitVec 32) := []
  caps : List Nat := []
  reserves : List (Nat × Nat) := []
  benchesAt : Nat × Nat := (0, 0)
  deriving DecidableEq, Repr, Inhabited

/-- A pattern stream that passed validation (03 R75 to R78), with the SHA-512 of its bytes. -/
structure PatImage where
  kind : Nat := 0
  modSec : Option ModSection := none
  parts : List PartImage := []
  digest : List Byte := []
  deriving DecidableEq, Repr, Inhabited

/-- Where the pattern loader stands in a command (03 R96, R100). -/
inductive LoadPhase where
  | idle
  | validate
  | drain
  | memWait
  | rinse
  deriving DecidableEq, Repr, Inhabited

/-- An outstanding memory request (02 R62; 07 R190): who waits, for which address, since when. -/
structure MemWait where
  bench : Nat := 0
  pa : Nat := 0
  since : Nat := 0
  deriving DecidableEq, Repr, Inhabited

/-- A value of a ticket's DETAIL map (15 R435). -/
inductive Detail where
  | num (n : Nat)
  | arr (ns : List Nat)
  deriving DecidableEq, Repr, Inhabited

/-- A ticket in the store (15 R435), as measured when it was raised. -/
structure Ticket where
  seq : Nat := 0
  cls : Nat := 0
  index : Nat := 0
  event : Nat := 0
  operands : Option (List Byte) := none
  railMv : Nat := 0
  temp : Int := 0
  stepRate : Nat := 0
  time : Nat := 0
  part : Option (Nat × Nat) := none
  detail : List (Nat × Detail) := []
  fwMeas : List Byte := []
  patMeas : List (Nat × Nat × List Byte) := []
  slot : List Byte := []
  sentAt : Nat := 0
  deriving DecidableEq, Repr, Inhabited

/-- A management command that waits to be served, and when it came (15 R433). -/
structure MgmtCmd where
  cmd : Instr := .hello
  since : Nat := 0
  deriving DecidableEq, Repr, Inhabited

/-- A message to a member that awaits its PEER_ACK (15 R434): TYPE, partition, step or epoch, body, the
times of the first and the last sending. -/
structure PeerMsg where
  dest : BitVec 128 := 0
  typ : Nat := 0
  part : Nat := 0
  n : Nat := 0
  body : List Byte := []
  first : Nat := 0
  lastSent : Nat := 0
  deriving DecidableEq, Repr, Inhabited

/-- A message that has left by the management port (15 R431): destination and CBOR bytes. -/
structure MgmtOut where
  dest : BitVec 128 := 0
  body : List Byte := []
  deriving DecidableEq, Repr, Inhabited

/-- The life-cycle states (17 R473). -/
inductive LifeCycle where
  | maker
  | field
  | return_
  | void_
  deriving DecidableEq, Repr, Inhabited

/-- A flash command that runs (17 R479): OP, the 4 KiB units, the flash offset and the buffer. -/
structure FlashJob where
  op : Nat := 0
  count : Nat := 0
  offset : Nat := 0
  buf : Nat := 0
  deriving DecidableEq, Repr, Inhabited

/-- The supply cap in force (16 R442). -/
inductive SupplyCap where
  | none
  | v70
  | v60
  deriving DecidableEq, Repr, Inhabited

/-- The power of the module: unpowered (16 R441), in reset with the time from which R457's 1 ms counts,
or released (17 R457). -/
inductive PowerState where
  | unpowered
  | inReset
  | running
  deriving DecidableEq, Repr, Inhabited

/-- The sixteen states of the test access port (18 R488: IEEE 1149.1). -/
inductive TapState where
  | testLogicReset | runTestIdle
  | selectDr | captureDr | shiftDr | exit1Dr | pauseDr | exit2Dr | updateDr
  | selectIr | captureIr | shiftIr | exit1Ir | pauseIr | exit2Ir | updateIr
  deriving DecidableEq, Repr, Inhabited

/-- The kinds of test access port instruction (18 R488, R489). -/
inductive TapInstr where
  | idcode
  | bypass
  | samplePreload
  | pinControl
  | debugChain (tile : Option (Fin 4))
  deriving DecidableEq, Repr, Inhabited

/-- The exception a clerk core takes (01 R34; 11 R309). -/
inductive ClerkExc where
  | loadAccess
  | storeAccess
  | loadMisaligned
  | storeMisaligned
  deriving DecidableEq, Repr, Inhabited

/-- A dispatch descriptor (09 R259). -/
structure DispDesc where
  mode : Nat := 0
  k : Nat := 0
  cap : Nat := 0
  strict : Bool := false
  segEn : Bool := false
  layout : Nat := 0
  locals_ : Nat := 0
  tokens : Nat := 0
  routes : Nat := 0
  experts : Nat := 0
  rcvLimit : Nat := 0
  routeRow : Nat := 0
  histRow : Nat := 0
  offRow : Nat := 0
  mapRow : Nat := 0
  ovfRow : Nat := 0
  rcvRow : Nat := 0
  segRow : Nat := 0
  deriving DecidableEq, Repr, Inhabited

/-- A block of the link stream that a port sends (12 R329, R330, R333, R337). -/
inductive LinkBlock where
  | control (c : ControlBlock)
  | identity (c : IdentBlock)
  | takeoverRequest (failed lseq : Nat)
  | takeoverAnswer (lseq : Nat)
  deriving DecidableEq, Repr, Inhabited

/-- What one neighbour or origin has delivered of one stage of a reduction (12 R358 to R361): the sender's or the origin's coordinates, the stage, the next FIDX, the payload bytes so far with a stain bit for
each 64 of them, and whether LAST has come. -/
structure RedStream where
  from_ : Nat := 0
  stage : Nat := 0
  fidx : Nat := 0
  data : List Byte := []
  stain : List Bool := []
  lastSeen : Bool := false
  deriving DecidableEq, Repr, Inhabited

/-- One open loop level of the sequencer (07 R207, R233). -/
structure LoopLevel where
  first : Nat := 0
  body : Nat := 0
  count : Nat := 0
  iter : Nat := 0
  rs : Int := 0
  es : Int := 0
  deriving DecidableEq, Repr, Inhabited

/-- One order-queue entry: an order and its virtual address (07 R190). -/
structure QEntry where
  va : Nat := 0
  word : BitVec 128 := 0
  deriving DecidableEq, Repr, Inhabited

/-- A decoded order that waits in its stream (07 R191, R192). -/
structure DecOrder where
  hdr : OrderHeader := default
  body : Order := default
  va : Nat := 0
  seq : Nat := 0
  drawBase : BitVec 64 := 0
  staticFault : Option Nat := none
  deriving DecidableEq, Repr, Inhabited

/-- What a checker of a bench compared: its kind, line or lane, which result, the original value, the checker's, and the operands of the result (05 R149; 06 R180; 14 R390, R391). -/
structure Compare where
  kind : HoldKind := .none
  code : Nat := 0
  index : Nat := 0
  orig : List Nat := []
  chk : List Nat := []
  ops : List Byte := []
  right : List Nat := []
  deriving DecidableEq, Repr, Inhabited

/-- A mask register (05 R144). -/
structure MaskReg where
  rows : BitVec 32 := 0
  cols : BitVec 32 := 0
  tail : BitVec 8 := 0
  deriving DecidableEq, Repr, Inhabited

/-- A stream-mode COMPACT that waits for its PRESS (06 R164, R165; 07 R213). -/
structure StreamCtx where
  sid : Nat := 0
  seq : Nat := 0
  afmt : Fmt := .fp32
  wfmt : Fmt := .fp32
  fill : Nat := 0
  desc : Nat := 0
  listRow : Nat := 0
  auxRow : Nat := 0
  since : Nat := 0
  deriving DecidableEq, Repr, Inhabited

/-- An issued order that holds a unit slot until it completes (07 R195). -/
structure InFlight where
  dec : DecOrder := default
  ran : Bool := false
  flags : Flags := {}
  oob : List (Nat × Nat) := []
  since : Nat := 0
  started : Bool := false
  got : Nat := 0
  outRows : List (Nat × Nat) := []
  outTill : List (Nat × Nat) := []
  checks : List Compare := []
  outs : List Nat := []
  mask : Option MaskReg := none
  took : Option StreamCtx := none
  deriving DecidableEq, Repr, Inhabited

/-- A token withheld by a hold, kept in completion order (05 R150; 14 R397). -/
structure Withheld where
  ctr : Nat := 0
  bench : Nat := 0
  value : Nat := 1
  deriving DecidableEq, Repr, Inhabited

/-- One weight tile of a mangle or of a quadrant (05 R131, R141). -/
structure WTile where
  fmt : Option Fmt := none
  two8 : Bool := false
  data : List Byte := []
  scales : List Byte := []
  stained : Bool := false
  row : Option Nat := none
  deriving DecidableEq, Repr, Inhabited

/-- A layer slot of the statistics unit: exact sums U and W (04 R125; 06 R182). -/
structure LayerSlot where
  u : Val := .fin false 0 0
  w : Val := .fin false 0 0
  count : Nat := 0
  deriving DecidableEq, Repr, Inhabited

/-- An open SHA-512 state of the digest unit (06 R183; 07 R227). -/
structure ShaState where
  h : List (BitVec 64) := []
  buf : List Byte := []
  len : Nat := 0
  deriving DecidableEq, Repr, Inhabited

/-- A leaf entry of the translation cache (08 R246, R249). -/
structure TlbEntry where
  va : Nat := 0
  big : Bool := false
  pa : Nat := 0
  write : Bool := false
  orders : Bool := false
  deriving DecidableEq, Repr, Inhabited

/-- A walk in progress (08 R249). -/
structure Walk where
  va : Nat := 0
  level : Nat := 0
  table : Nat := 0
  since : Nat := 0
  deriving DecidableEq, Repr, Inhabited

/-- An entry of the walk cache: a level-0 or level-1 table pointer (08 R249). -/
structure WalkEntry where
  va : Nat := 0
  level : Nat := 0
  table : Nat := 0
  deriving DecidableEq, Repr, Inhabited

/-- An issued RECV: the frames it awaits (07 R230; 12 R351). -/
structure RecvCtx where
  source : BitVec 32 := 0
  tag : Nat := 0
  row : Nat := 0
  total : Nat := 0
  got : Nat := 0
  seq : Nat := 0
  since : Nat := 0
  deriving DecidableEq, Repr, Inhabited

/-- The receive state of one peer of an EXCHANGE (09 R264). -/
structure ExPeer where
  counts : Option (List Nat) := none
  hdrAcc : List Nat := []
  got : Nat := 0
  fidx : Nat := 0
  done : Bool := false
  deriving DecidableEq, Repr, Inhabited

/-- An issued EXCHANGE (09 R262 to R266). -/
structure ExCtx where
  ex : ExchangeOp := default
  ret : Bool := false
  desc : DispDesc := default
  peers : List (BitVec 32) := []
  kept : List (List (Nat × Nat)) := []
  keptCounts : List (List Nat) := []
  rx : List ExPeer := []
  order : List Nat := []
  started : Bool := false
  since : Nat := 0
  seq : Nat := 0
  deriving DecidableEq, Repr, Inhabited

/-- The blocks that a FOLD receives from one peer (13 R376). -/
structure FoldPeer where
  peer : BitVec 32 := 0
  slots : List Nat := []
  data : List Byte := []
  stain : List Bool := []
  fidx : Nat := 0
  done : Bool := false
  deriving DecidableEq, Repr, Inhabited

/-- A MEM_REQ READ of a gather FOLD (13 R378). -/
structure FoldPull where
  reqId : Nat := 0
  blk : Nat := 0
  off : Nat := 0
  lines : Nat := 0
  va : Nat := 0
  home : Nat := 0
  deriving DecidableEq, Repr, Inhabited

/-- An issued FOLD (13 R373 to R378). -/
structure FoldCtx where
  fold : FoldOp := default
  src : List Byte := []
  dst : List Byte := []
  rx : List FoldPeer := []
  pulls : List FoldPull := []
  todo : List FoldPull := []
  slots : List (Nat × Nat) := []
  parts : List (Nat × Nat × List Byte × List Bool) := []
  oob : List (Nat × Nat) := []
  staged : Nat := 0
  touched : List (Nat × Nat) := []
  since : Nat := 0
  seq : Nat := 0
  deriving DecidableEq, Repr, Inhabited

/-- A REDUCE contribution in progress at this module (12 R358 to R361). -/
structure RedCtx where
  tree : Nat := 0
  bench : Nat := 0
  seqNo : Nat := 0
  mode : Nat := 0
  w64 : Bool := false
  n : Nat := 0
  local_ : List Nat := []
  stain : List Bool := []
  bf16 : Bool := false
  dst : Nat := 0
  rdesc : Nat := 0
  streams : List RedStream := []
  sentMax : Nat := 0
  sentUp : Nat := 0
  sentDown : Nat := 0
  flags : Flags := {}
  oob : List (Nat × Nat) := []
  emax : List Int := []
  results : List Nat := []
  resStain : List Bool := []
  since : Nat := 0
  seq : Nat := 0
  deriving DecidableEq, Repr, Inhabited

/-- One physical bench T t.B bb: sequencer, mangle, darner, shelf and their registers (01 R25). -/
structure Bench where
  asg : Assign := .retired
  rinsing : Option (Fin 8) := none
  snapshot : Bool := false
  exclRows : List Nat := []
  exclCols : List Nat := []
  leavesOut : List Nat := []
  shelfSpares : List (Nat × Nat) := []
  shelf : Mem := []
  shelfStain : List Nat := []
  seqState : SeqState := .idle
  stopped : Bool := false
  haltCode : Option (Nat × Nat) := none
  pc : Nat := 0
  fetchPc : Nat := 0
  dtab : Nat := 0
  dcount : Nat := 0
  seed : BitVec 64 := 0
  draw : BitVec 64 := 0
  bqFlags : Flags := {}
  forceExact : Bool := false
  fault : Option (Nat × Nat × Bool) := none
  faultPc : Nat := 0
  issuedCount : Nat := 0
  headWait : Nat := 0
  tokens : List (BitVec 32) := (List.replicate 64 0)
  queue : List QEntry := []
  lineReqs : List (Nat × Nat) := []
  loops : List LoopLevel := []
  fStream : List DecOrder := []
  bStream : List DecOrder := []
  nextSeq : Nat := 0
  inflight : List InFlight := []
  withheld : List Withheld := []
  sigIn : List (Nat × Nat × Nat) := []
  dcache : List (Nat × List Byte) := []
  ownerLines : List (Nat × Nat × List Byte) := []
  tlb : List TlbEntry := []
  wcache : List WalkEntry := []
  walks : List Walk := []
  invalWaits : List Nat := []
  oobBase : Nat := 0
  oobTotal : Nat := 0
  oobLast : Option Nat := none
  countLost : Bool := false
  bdFault : Option (Nat × Nat × Bool) := none
  bdFaultVa : Nat := 0
  tcMiss : Nat := 0
  bdLines : Nat := 0
  tiles : List WTile := (List.replicate 8 {})
  masks : List MaskReg := (List.replicate 8 {})
  decMasks : List MaskReg := (List.replicate 8 {})
  till : List (Nat × BitVec 48) := []
  tillStain : List Nat := []
  examEn : Bool := true
  pairedEn : Bool := true
  examCount : Nat := 0
  examFirst : Option (Nat × Bool × Nat) := none
  gatedRows : BitVec 32 := 0
  gatedCols : BitVec 32 := 0
  mgVectors : Nat := 0
  mgBusySteps : Nat := 0
  rowFile : List (Nat × BitVec 32) := []
  rowMarks : List Nat := []
  accGamma : List Val := []
  accBeta : List Val := []
  scaleQueue : List Byte := []
  scaleMark : Bool := false
  slots : List LayerSlot := (List.replicate 8 {})
  sha : Option ShaState := none
  sizing : Option (BitVec 32) := none
  shadowStep : Nat := 0
  dnFault : Option (Nat × Nat) := none
  dnWhere : Nat × Nat × Nat × Nat := (0, 0, 0, 0)
  dnFaultStands : Bool := false
  dnKeep : Nat := 0
  shadowEn : Bool := true
  shadowCount : Nat := 0
  shadowFirst : Option (Nat × Nat) := none
  splitRows : Nat := 0
  pairsOut : Nat := 0
  vecSteps : Nat := 0
  streams : List StreamCtx := []
  rxStore : List (Option (Fin 8) × Frame) := []
  broken : List (Nat × Nat × Nat × Nat) := []
  recvs : List RecvCtx := []
  exchanges : List ExCtx := []
  exOverflow : Nat := 0
  exOob : Nat := 0
  exFault : Option (Nat × Nat) := none
  folds : List FoldCtx := []
  poolWaits : List (Nat × Nat) := []
  fdOut : Nat := 0
  fdIn : Nat := 0
  fdFault : Option (Nat × Nat) := none
  hold : HoldKind := .none
  holdSince : Nat := 0
  heldOrder : Option InFlight := none
  heldLine : Nat := 0
  checkerOff : HoldKind := .none
  arbitrating : Bool := false
  arbiter : Bool := false
  closingRinse : Bool := false
  testing : Bool := false
  unchecked : Bool := false
  testPending : Option Bool := none
  testExtra : Bool := false
  testResult : BitVec 2 := 0
  failUnit : BitVec 3 := 0
  sram : List Nat := [0, 0, 0, 0]
  verdicts : List Nat := [0, 0, 0, 0]
  lastOperandFault : Option Nat := none
  deriving DecidableEq, Repr, Inhabited

/-- A row in a seam queue with its eight stain bits (07 R202; 11 R314). -/
structure SeamRow where
  bytes : List Byte := []
  stain : List Bool := []
  deriving DecidableEq, Repr, Inhabited

/-- A seam of a loaded partition and its queue of 64 rows (03 R86; 07 R202). -/
structure SeamState where
  rcd : SeamRec := default
  rows : List SeamRow := []
  onTheWay : List SeamRow := []
  senders : List Nat := []
  since : Nat := 0
  deriving DecidableEq, Repr, Inhabited

/-- One partition J j: the sections of its loaded pattern and its run state (03 R71, R82 to R91). -/
structure Partition where
  loaded : Bool := false
  rinsing : Bool := false
  snapshot : Bool := false
  stopped : Bool := false
  epoch : BitVec 16 := 0
  hdr : PartHdr := default
  benches : List BenchRec := []
  seams : List SeamState := []
  regs : List RegRec := []
  trees : List TreeRec := []
  fill : List (BitVec 32) := []
  caps : List Nat := []
  reserves : List (Fin 4 × Fin 34) := []
  digest : List Byte := []
  ownMoved : Bool := true
  updated : Bool := false
  redSeq : List (Nat × Nat × Nat) := []
  reds : List RedCtx := []
  redFrames : List (Option (Fin 8) × Frame × Nat) := []
  brokenReds : List (Nat × Nat × Nat × Nat) := []
  pendReqs : List MemWait := []
  stateLost : Bool := false
  stepRuns : List Nat := []
  faultClass : Nat := 0
  frozenSince : Option Nat := none
  quiescing : Bool := false
  keptSeams : List SeamState := []
  deriving DecidableEq, Repr, Inhabited

/-- The pattern loader (03 R96, R104). -/
structure Loader where
  src : Nat := 0
  len : Nat := 0
  busy : Bool := false
  result : BitVec 3 := 0
  drainTimeout : Bool := false
  code : Nat := 0
  sect : Nat := 0
  offset : Nat := 0
  phase : LoadPhase := .idle
  cmdAt : Nat := 0
  phaseAt : Nat := 0
  image : Option PatImage := none
  cmdSrc : Nat := 0
  cmdLen : Nat := 0
  target : Option (Fin 8) := none
  lastTime : Nat := 0
  geometry : Option ModSection := none
  staged : Option ModSection := none
  stagedFor : List (Fin 8) := []
  toRinse : List (Fin 8) := []
  deriving DecidableEq, Repr, Inhabited

/-- The regulator of one target: lvl, round-robin position and since_unp (11 R301). -/
structure Bucket where
  lvl : List Nat := (List.replicate 8 0)
  rr : Nat := 0
  sinceUnp : Nat := 0
  last : Option (Option (Fin 8)) := none
  deriving DecidableEq, Repr, Inhabited

/-- One stack controller: T t.S s, H0 or H1 (11 R325). -/
structure Stack where
  mode : BitVec 2 := 1
  lock : Bool := false
  temp : Int := 0
  row : Nat := 0
  hotAt : List Nat := [0, 0, 0]
  selfRefresh : Bool := false
  ceThresh : Nat := 1000
  ue : Nat := 0
  ueAddr : Option Nat := none
  scrubH : Nat := 24
  scrubPos : Nat := 0
  zeroBase : Nat := 0
  zeroLen : Nat := 0
  zeroBusy : Bool := false
  zeroRun : Nat × Nat := (0, 0)
  zeroAt : Nat := 0
  spareState : BitVec 2 := 0
  replaced : Nat := 0
  pointer : Nat := 0
  degraded : Bool := false
  degradedCh : List Nat := []
  stainReads : Nat := 0
  readLines : Nat := 0
  writeLines : Nat := 0
  ce : List Nat := (List.replicate 17 0)
  ceWin : List Nat := (List.replicate 17 0)
  ceWinAt : Nat := 0
  bucket : Bucket := {}
  deriving DecidableEq, Repr, Inhabited

/-- A line held by a tile cache (11 R297). -/
structure CacheLine where
  addr : Nat := 0
  data : List Byte := []
  dirty : Bool := false
  stain : Bool := false
  writer : Option (Fin 8) := none
  way : Nat := 0
  deriving DecidableEq, Repr, Inhabited

/-- A clerk-core atomic window (11 R311). -/
structure AmoWin where
  addr : Nat := 0
  opnd : BitVec 64 := 0
  exp : BitVec 64 := 0
  old : BitVec 64 := 0
  stat : BitVec 4 := 0
  deriving DecidableEq, Repr, Inhabited

/-- The tile cache of one tile (11 R297, R326; 13 R375). -/
structure TileCache where
  lines : List CacheLine := []
  stageLines : List (Nat × Fin 34) := []
  hits : Nat := 0
  misses : Nat := 0
  atomics : Nat := 0
  forwarded : Nat := 0
  errCorr : Nat := 0
  errDouble : Nat := 0
  amo : List AmoWin := (List.replicate 32 {})
  deriving DecidableEq, Repr, Inhabited

/-- The link stream that a port sends (12 R328, R329): its bytes in 257-bit blocks, dealt to the logical lanes, and the RS(544,514) codewords of each lane. -/
structure LinkStream where
  pending : List Byte := []
  lane : Nat := 0
  blocks : List (List (BitVec 257)) := (List.replicate 8 [])
  codewords : List (Nat × List (BitVec 10)) := []
  deriving DecidableEq, Repr, Inhabited

/-- One Dalxel port P n (12 R327 to R337, R368). -/
structure Port where
  state : BitVec 3 := 0
  idleLane : Option Nat := (some 8)
  cause : Nat := 0
  lostLast : Nat := 0
  disable : Bool := false
  retired : Bool := false
  peer : Option (Nat × Nat × Nat × Nat) := none
  fecCorr : Nat := 0
  fecUnc : Nat := 0
  replays : Nat := 0
  crcFail : Nat := 0
  probeBits : Nat := 0
  prbs : BitVec 31 := 0x7FFFFFFF#31
  txCount : Nat := 0
  rxCount : Nat := 0
  everTrained : Bool := false
  identOk : Bool := false
  trainAt : Nat := 0
  lanes : List Nat := [0, 1, 2, 3, 4, 5, 6, 7]
  failedLanes : List Nat := []
  calAt : List Nat := (List.replicate 9 0)
  swapping : Option (Nat × Bool) := none
  txq : List (Option (Fin 8 × Nat × Bool × Nat) × Frame) := []
  unacked : List (Nat × Frame) := []
  txSeq : Nat := 0
  rxSeq : Nat := 0
  replayAsked : Bool := false
  crShared : Nat := 16112
  crRes : List Nat := (List.replicate 8 34)
  owe : List (Nat × Bool × Nat) := []
  creditSince : List Nat := (List.replicate 8 0)
  myProbeDone : Bool := false
  peerProbeDone : Bool := false
  returned : List Bool := (List.replicate 8 true)
  transitBack : Bool := true
  takeover : Option (Nat × Nat) := none
  held : List (Nat × Frame) := []
  downAt : Nat := 0
  lastAccepted : Nat := 0xFFFF
  txBucket : Bucket := {}
  sinceCtl : Nat := 0
  ackDue : Bool := false
  rxBucket : Bucket := {}
  recalAt : Nat := 0
  recalWant : Bool := false
  resend : Option Nat := none
  stream : LinkStream := {}
  deriving DecidableEq, Repr, Inhabited

/-- The crossing outside its ports (12 R368). -/
structure Crossing where
  recal : Nat := 60
  dropFormat : Nat := 0
  dropRoute : Nat := 0
  dropNoPart : Nat := 0
  dropTree : Nat := 0
  older : Nat := 0
  newer : Nat := 0
  lost : Nat := 0
  transit : Nat := 0
  adderFails : List Nat := []
  degraded : Bool := false
  home : List Frame := []
  heldFrames : List (Option (Fin 8) × Frame × FrameEvents) := []
  mgmtRx : List (Nat × List Byte) := []
  deriving DecidableEq, Repr, Inhabited

/-- A start of a clerk core in M-mode (15 R423; 17 R463, R465). -/
structure CoreStart where
  core : Nat := 0
  pc : Nat := 0
  a0 : Nat := 0
  deriving DecidableEq, Repr, Inhabited

/-- The counting house (15 R428 to R437). -/
structure House where
  mac : BitVec 48 := 0
  iid : BitVec 64 := 0
  netPrefix : Option (BitVec 64) := none
  link : Bool := false
  slot : Option (List Byte) := none
  mgr : Option (BitVec 128) := none
  tickets : List Ticket := []
  nextSeq : Nat := 0
  lost : Nat := 0
  lostUntold : Nat := 0
  sent : Nat := 0
  retireStatus : BitVec 2 := 0
  active : BitVec 32 := 0
  failed : BitVec 32 := 0
  spares : List Nat := [28, 29, 30, 31]
  replacedBy : List (Nat × Nat) := []
  wdog : Nat := 0
  entry : Nat := 0
  beats : List Nat := (List.replicate 32 0)
  coreStarts : List CoreStart := []
  noReply : Nat := 0
  commands : List MgmtCmd := []
  helloAt : Nat := 0
  peerOut : List PeerMsg := []
  bootReqs : List (Nat × Nat × Nat) := []
  bootNext : Nat := 0
  bootTotal : Option Nat := none
  reserve : List (Nat × Nat × Nat) := []
  deriving DecidableEq, Repr, Inhabited

/-- An arbiter run (14 R395, R396). -/
structure ArbRun where
  held : Nat := 0
  arb : Nat := 0
  kind : HoldKind := .none
  part : Fin 8 := 0
  epoch : BitVec 16 := 0
  copied : Bool := false
  at_ : Nat := 0
  order : InFlight := default
  line : Nat := 0
  quad : Bool := false
  seed : BitVec 64 := 0
  deriving DecidableEq, Repr, Inhabited

/-- The integrity registers and holdings of one partition (14 R402 to R408, R419). -/
structure PartInteg where
  step : BitVec 64 := 0
  stepSet : Bool := false
  runStep : Option Nat := none
  groupTable : Nat := 0
  groupCount : Nat := 0
  tallyStep : Nat := 0
  verdict : BitVec 3 := 0
  present : Nat := 0
  barrierEpoch : BitVec 16 := 0
  ready : List (BitVec 128 × Nat) := []
  barrierDone : Bool := false
  applied : Bool := false
  tval : List Byte := (List.replicate 16 0)
  agreed : Nat := 0
  groupMin : Nat := 0
  contribs : List (Nat × Nat × List Byte) := []
  tallies : List (BitVec 128 × Nat × List Byte) := []
  formedAt : Nat := 0
  deriving DecidableEq, Repr, Inhabited

/-- The module-wide integrity registers (14 R419). -/
structure Integ where
  timeoutMs : Nat := 1000
  arbEn : Bool := true
  lastArb : Option (Nat × Nat × Nat × Nat × Nat × Nat) := none
  extraTable : Nat := 0
  extraCount : Nat := 0
  runs : List ArbRun := []
  deriving DecidableEq, Repr, Inhabited

/-- The event ring of one partition (15 R424 to R426). -/
structure EventRing where
  base : Nat := 0
  size : Nat := 0
  head : BitVec 32 := 0
  tail : BitVec 32 := 0
  hart : Nat := 0
  level : Nat := 0
  thresh : Nat := 0
  lost : Nat := 0
  oldest : Nat := 0
  told : Bool := false
  deriving DecidableEq, Repr, Inhabited

/-- What survives a loss of power: ledger, life-cycle state, anti-rollback count and boot flash (01 R22). -/
structure NonVol where
  ledger : Nat := 0
  life : LifeCycle := .maker
  nextLife : Option LifeCycle := none
  arbCount : Nat := 0
  flash : Mem := []
  deriving DecidableEq, Repr, Inhabited

/-- The start and life-cycle registers (17 R479) and the flash command (17 R466). -/
structure Start where
  bootSrc : BitVec 2 := 0
  stage : Nat := 0
  recovery : Bool := false
  done : Bool := false
  selftestDone : Bool := false
  failed : Bool := false
  clearPending : Bool := false
  doneAt : Nat := 0
  stageAt : Nat := 0
  imageRuns : Bool := false
  imageSvn : Nat := 0
  devKey : Bool := false
  fwMeas : List Byte := (List.replicate 64 0)
  debugOpen : Bool := false
  debugTiles : List Bool := [false, false, false, false]
  nonce : Option (List Byte) := none
  lcAuth : Nat := 0
  lcResult : BitVec 3 := 0
  haltAt : Option Nat := none
  flAddr : Nat := 0
  flBuf : Nat := 0
  flBusy : Option FlashJob := none
  flResult : BitVec 3 := 0
  flSizeMib : Nat := 0
  sfdpOk : Bool := false
  copying : Bool := false
  keyReady : Bool := false
  key : List Byte := []
  deriving DecidableEq, Repr, Inhabited

/-- The supply monitor and the tile rails (16). -/
structure Supply where
  mv : Nat := 0
  current : Nat := 0
  minMv : Nat := 0x10000
  dips : Nat := 0
  caps : Nat := 0
  holds : Nat := 0
  surges : Nat := 0
  dipSince : Option Nat := none
  dipLow : Nat := 0xFFFF
  dipActed : Bool := false
  cap : SupplyCap := .none
  capDue : Bool := false
  lowAt : Nat := 0
  hold : Bool := false
  holdSince : Nat := 0
  surgeSince : Option Nat := none
  railSet : List Nat := [750, 750, 750, 750]
  railNow : List Nat := [0, 0, 0, 0]
  railFrom : List Nat := [0, 0, 0, 0]
  moving : List Bool := [false, false, false, false]
  movedInWindow : List Bool := [false, false, false, false]
  heldInWindow : Bool := false
  jcap : List Nat := [900, 900, 900, 900]
  jCool : List Nat := [0, 0, 0, 0]
  jHot : List Nat := [0, 0, 0, 0]
  junction : List Int := [0, 0, 0, 0]
  jMax : List Int := [-32768, -32768, -32768, -32768]
  boostSince : List (Option Nat) := [none, none, none, none]
  boostPast : List (List (Nat × Nat)) := [[], [], [], []]
  denied : List Bool := [false, false, false, false]
  hubJunction : Int := 0
  coolant : Int := 0
  coolantHot : Bool := false
  deriving DecidableEq, Repr, Inhabited

/-- The module-time block (02 R57 to R61, R70). -/
structure ModTime where
  now : BitVec 64 := 0
  fifth : Nat := 0
  clkMode : BitVec 2 := 0
  holdover : Bool := false
  refLoss : Nat := 0
  wtMgmt : Nat := 1000
  stepCount : List Nat := [0, 0, 0, 0]
  stepRate : List Nat := [0, 0, 0, 0]
  shortfall : List Bool := [false, false, false, false]
  shortRun : List Nat := [0, 0, 0, 0]
  goodRun : List Nat := [0, 0, 0, 0]
  stepMin : List Nat := [65535, 65535, 65535, 65535]
  hubCount : Nat := 0
  hubRate : Nat := 0
  deriving DecidableEq, Repr, Inhabited

/-- The IEEE 1149.1 test access port (18 R488, R489). -/
structure Tap where
  state : TapState := .testLogicReset
  ir : TapInstr := .idcode
  irShift : List Bool := []
  dr : List Bool := []
  tdo : Option Bool := none
  deriving DecidableEq, Repr, Inhabited

/-- A line of a tile stack in the clerk cores' caches (15 R420, R421): one Bool a byte that a store has written. -/
structure ClerkLine where
  addr : Nat := 0
  data : List Byte := []
  dirty : List Bool := []
  deriving DecidableEq, Repr, Inhabited

/-- What the last access through a clerk core or the sideband returned. -/
structure BusReply where
  data : BitVec 64 := 0
  exc : Option ClerkExc := none
  deriving DecidableEq, Repr, Inhabited

/-- The whole module and the queue of commands that wait. -/
structure State where
  pending : List Instr := []
  freeCtr : Nat := 0
  power : PowerState := .unpowered
  porDone : Bool := false
  resetPin : Bool := false
  tileOn : List Bool := [false, false, false, false]
  nv : NonVol := {}
  time : ModTime := {}
  supply : Supply := {}
  start : Start := {}
  benches : List Bench := (List.replicate 136 {})
  parts : List Partition := (List.replicate 8 {})
  loader : Loader := {}
  stackSet : List Stack := (List.replicate 14 {})
  cells : Mem := []
  lineStain : List Nat := []
  caches : List TileCache := (List.replicate 4 {})
  cx : Crossing := {}
  ports : List Port := (List.replicate 8 {})
  house : House := {}
  integ : Integ := {}
  pint : List PartInteg := (List.replicate 8 {})
  rings : List EventRing := (List.replicate 8 {})
  failRoute : Nat × Nat × Nat := (0, 0, 0)
  irqs : List (Nat × Nat) := []
  sensors : List (Nat × BitVec 16) := []
  clerkLines : List ClerkLine := []
  clerkFlush : List (Nat × ClerkLine) := []
  tap : Tap := {}
  bus : BusReply := {}
  smbus : Option (BitVec 16 × BitVec 8) := none
  mgmtOut : List MgmtOut := []
  linkOut : List (Fin 8 × LinkBlock) := []
  framesOut : List (Fin 8 × Nat × Frame) := []
  deriving DecidableEq, Repr, Inhabited

/-- The module at reset release (00 R15, 17 R457) with both straps sampled as 0: module time runs from 0,
every register holds its "After start" value, the ledger counts this start (17 R459), and stage 0 runs on
C00. -/
def State.reset : State :=
  { power := .running, porDone := true, nv := { ledger := 1 }, house := { active := 1 } }

end Sys2Proof.Machine
end

