-- ==== Sys2Proof/Machine/Ops.lean ====
section
/-! DEFINITION. The named operations over the state: bytes and byte memories, the accessors of every unit,
the physical address map, the stacks behind their tile caches, and module time. -/

namespace Sys2Proof.Machine

open Sys2Proof

/-! Bytes -/

/-- The number that bytes spell, lowest first (00 R6). -/
def leNat : List Byte → Nat
  | [] => 0
  | b :: bs => b.toNat + 256 * leNat bs

/-- `n` bytes of a number, lowest first (00 R6). -/
def leBytes : Nat → Nat → List Byte
  | 0, _ => []
  | n + 1, v => BitVec.ofNat 8 v :: leBytes n (v / 256)

/-- The number that bytes spell, highest first (15 R431: CBOR; 17 R468: moduli). -/
def beNat (bs : List Byte) : Nat := bs.foldl (fun a b => a * 256 + b.toNat) 0

/-- `n` bytes of a number, highest first. -/
def beBytes (n v : Nat) : List Byte := (leBytes n v).reverse

/-- `n` bytes from position `i`, zero past the end. -/
def sliceAt (bs : List Byte) (i n : Nat) : List Byte :=
  let x := (bs.drop i).take n
  x ++ List.replicate (n - x.length) 0

/-- The little-endian number of `n` bytes at `i`. -/
def leAt (bs : List Byte) (i n : Nat) : Nat := leNat ((bs.drop i).take n)

def byteAt (bs : List Byte) (i : Nat) : Nat := (bs.getD i 0).toNat

/-- Bits [hi:lo] of a number. -/
def bits (n hi lo : Nat) : Nat := n / 2 ^ lo % 2 ^ (hi + 1 - lo)

def bit (n i : Nat) : Bool := n / 2 ^ i % 2 = 1

def b2n (b : Bool) : Nat := if b then 1 else 0

/-- Rounds up to a multiple of `m`. -/
def roundUp (n m : Nat) : Nat := (n + m - 1) / m * m

def ceilDiv (n m : Nat) : Nat := (n + m - 1) / m

/-- A count that saturates at `w` bits. -/
def satAdd (w n k : Nat) : Nat := min (n + k) (2 ^ w - 1)

/-- A count that wraps at `w` bits. -/
def wrapAdd (w n k : Nat) : Nat := (n + k) % 2 ^ w

/-- The place of `i` in `xs` changed by `f`; nothing where there is no such place. -/
def modAt {α : Type} (xs : List α) (i : Nat) (f : α → α) : List α := xs.modify i f

/-- Removes the element at `i`. -/
def removeAt {α : Type} (xs : List α) (i : Nat) : List α := xs.eraseIdx i

/-! Byte memories: (address, byte) pairs, addresses strictly rising, none equal to the default. -/

/-- The byte at `a`; `d` where none is listed. -/
def memGet (d : Byte) : Mem → Nat → Byte
  | [], _ => d
  | (x, v) :: m, a => if x = a then v else memGet d m a

/-- Writes the byte at `a`, keeping the canonical form for the default `d`. -/
def memSet (d : Byte) : Mem → Nat → Byte → Mem
  | [], a, v => if v = d then [] else [(a, v)]
  | (x, w) :: m, a, v =>
    if a < x then (if v = d then (x, w) :: m else (a, v) :: (x, w) :: m)
    else if a = x then (if v = d then m else (a, v) :: m)
    else (x, w) :: memSet d m a v

def memRead (d : Byte) (m : Mem) (a n : Nat) : List Byte := (List.range n).map fun i => memGet d m (a + i)

def memWrite (d : Byte) (m : Mem) (a : Nat) : List Byte → Mem
  | [] => m
  | b :: bs => memWrite d (memSet d m a b) (a + 1) bs

/-- Every byte of a range at the default again. -/
def memClear (m : Mem) (a n : Nat) : Mem := m.filter fun c => c.1 < a || a + n ≤ c.1

/-- The canonical form for the default `d`: addresses strictly rising, no entry equal to `d`. -/
def Memory.wf (d : Byte) : Mem → Bool
  | [] => true
  | [c] => c.2 != d
  | c :: c' :: m => c.1 < c'.1 && c.2 != d && Memory.wf d (c' :: m)

/-- A set of numbers as a strictly rising list. -/
def setInsert : List Nat → Nat → List Nat
  | [], a => [a]
  | x :: xs, a => if a < x then a :: x :: xs else if a = x then x :: xs else x :: setInsert xs a

def setErase (xs : List Nat) (a : Nat) : List Nat := xs.filter (· ≠ a)

def setPut (xs : List Nat) (a : Nat) (on : Bool) : List Nat := if on then setInsert xs a else setErase xs a

/-! Accessors -/

def State.bench (s : State) (b : BenchId) : Bench := s.benches.getD b.idx {}

def State.setBench (s : State) (b : BenchId) (x : Bench) : State := { s with benches := s.benches.set b.idx x }

def State.modBench (s : State) (b : BenchId) (f : Bench → Bench) : State :=
  { s with benches := s.benches.modify b.idx f }

def State.part (s : State) (p : PartId) : Partition := s.parts.getD p.val {}

def State.modPart (s : State) (p : PartId) (f : Partition → Partition) : State :=
  { s with parts := s.parts.modify p.val f }

def State.stack (s : State) (k : StackId) : Stack := s.stackSet.getD k.val {}

def State.modStack (s : State) (k : StackId) (f : Stack → Stack) : State :=
  { s with stackSet := s.stackSet.modify k.val f }

def State.cache (s : State) (t : TileId) : TileCache := s.caches.getD t.val {}

def State.modCache (s : State) (t : TileId) (f : TileCache → TileCache) : State :=
  { s with caches := s.caches.modify t.val f }

def State.port (s : State) (n : PortId) : Port := s.ports.getD n.val {}

def State.modPort (s : State) (n : PortId) (f : Port → Port) : State :=
  { s with ports := s.ports.modify n.val f }

def State.integOf (s : State) (p : PartId) : PartInteg := s.pint.getD p.val {}

def State.modInteg (s : State) (p : PartId) (f : PartInteg → PartInteg) : State :=
  { s with pint := s.pint.modify p.val f }

def State.ring (s : State) (p : PartId) : EventRing := s.rings.getD p.val {}

def State.modRing (s : State) (p : PartId) (f : EventRing → EventRing) : State :=
  { s with rings := s.rings.modify p.val f }

/-- Module time in nanoseconds (02 R57). -/
def State.now (s : State) : Nat := s.time.now.toNat

/-- One edge of the source of module time (02 R58, R59, R61): 6.4 ns of the external 156.25 MHz, carried exactly in
fifths, or 10 ns. Time stands still until reset release. -/
def State.edge (s : State) : State :=
  let t := s.time
  if s.power ≠ .running then s
  else if t.clkMode = 0 && !t.holdover then
    let carry := 5 ≤ t.fifth + 2
    { s with time := { t with now := t.now + (if carry then 7 else 6), fifth := if carry then t.fifth + 2 - 5 else t.fifth + 2 } }
  else { s with time := { t with now := t.now + 10 } }

/-- The next free value is drawn. -/
def State.tick (s : State) : State := { s with freeCtr := s.freeCtr + 1 }

/-- Outside hold: clerk cores issue (16 R443), and arbiter runs and self-tests go on (14 R417). -/
def State.clerkTime (s : State) : Bool := s.power = .running && !s.supply.hold

def State.tileIsOn (s : State) (t : Nat) : Bool := s.tileOn.getD t false

/-- The bench of a flat number. -/
def benchOfIdx (i : Nat) : Option BenchId :=
  if h : i / 34 < 4 then some ⟨⟨i / 34, h⟩, ⟨i % 34, Nat.mod_lt _ (by decide)⟩⟩ else none

def allBenches : List BenchId := (List.range 136).filterMap benchOfIdx

def allParts : List PartId := [0, 1, 2, 3, 4, 5, 6, 7]

def allPorts : List PortId := [0, 1, 2, 3, 4, 5, 6, 7]

def allTiles : List TileId := [0, 1, 2, 3]

def allStacks : List StackId := [0, 1, 2, 3, 4, 5, 6, 7, 8, 9, 10, 11, 12, 13]

/-- The partition that a bench serves. -/
def Bench.partOf (x : Bench) : Option PartId :=
  match x.asg with
  | .assigned p _ _ => some p
  | _ => none

/-- The partition that a bench serves or is held for. -/
def Bench.ownerOf (x : Bench) : Option PartId :=
  match x.asg with
  | .assigned p _ _ => some p
  | .held p => some p
  | _ => none

def Bench.logical (x : Bench) : Nat :=
  match x.asg with
  | .assigned _ l _ => l
  | _ => 0

def Bench.quad (x : Bench) : Bool :=
  match x.asg with
  | .assigned _ _ q => q
  | _ => false

/-- The bench that is logical bench `l` of partition `p` (03 R74). -/
def State.benchOfLogical (s : State) (p : PartId) (l : Nat) : Option BenchId :=
  allBenches.find? fun b => match (s.bench b).asg with
    | .assigned q m _ => q = p && m = l
    | _ => false

/-- The benches of a partition. -/
def State.benchesOf (s : State) (p : PartId) : List BenchId := allBenches.filter fun b => (s.bench b).partOf = some p

/-- Changes every bench of a list. -/
def State.modBenches (s : State) (bs : List BenchId) (f : Bench → Bench) : State :=
  bs.foldl (fun s b => s.modBench b f) s

/-! The physical address map (01 R33) -/

/-- Bytes of one stack's window and of its populated part. -/
def stackWindow : Nat := 0x2000000000
def stackBytes : Nat := 80000000000

/-- The stack and the window offset of a physical address; none for an unmapped or unpopulated one. -/
def stackOf (pa : Nat) : Option (StackId × Nat) :=
  let k := pa / stackWindow
  let o := pa % stackWindow
  if h : k < 14 then (if o < stackBytes then some (⟨k, h⟩, o) else none) else none

/-- The tile whose cache is the home of a stack's lines (01 R35); none for H0 and H1. -/
def homeTile (k : StackId) : Option TileId :=
  if h : k.val / 3 < 4 then (if k.val < 12 then some ⟨k.val / 3, h⟩ else none) else none

/-- Whether an address lies in H0 or H1. -/
def inHub (pa : Nat) : Bool :=
  match stackOf pa with
  | some (k, _) => 12 ≤ k.val
  | none => false

/-- The channel of a window offset and the address within it (11 R294). -/
def channelOf (mode : Nat) (o : Nat) : Nat × Nat :=
  if mode = 1 then
    (((bits o 11 8) ^^^ (bits o 15 12) ^^^ (bits o 19 16) ^^^ (bits o 23 20)), (o / 2 ^ 12) * 256 + o % 256)
  else if mode = 2 then (bits o 12 9, (o / 2 ^ 13) * 512 + o % 512)
  else (bits o 11 8, (o / 2 ^ 12) * 256 + o % 256)

/-- Where a stack keeps the byte of an offset: by stack, channel index and channel address. -/
def cellKey (k : StackId) (mode o : Nat) : Nat :=
  let c := channelOf mode o
  (k.val * 16 + c.1) * 2 ^ 33 + c.2

/-! The regulator's choice (11 R301) -/

/-- The next partition in round-robin order that satisfies a test. -/
def nextAfter (rr : Nat) (f : PartId → Bool) : Option PartId :=
  ((List.range 8).map fun i => (Fin.ofNat 8 (rr + i) : PartId)).find? f

/-- Chooses a unit: `rate` and `depth` give each partition's record, `waits` says who has a request. The answer
is the bucket afterwards and whom it served; none when nobody waits. -/
def Bucket.serve (b : Bucket) (rec : PartId → Option RegRec) (waits : PartId → Bool) (unpart : Bool) :
    Bucket × Option (Option PartId) :=
  let lvl (p : PartId) : Nat := b.lvl.getD p.val 0
  let fill (b : Bucket) : Bucket := { b with
    lvl := b.lvl.zipIdx.map fun l => match rec (Fin.ofNat 8 l.2) with
      | some r => min (l.1 + r.rate) (r.depth * 1024)
      | none => l.1 }
  let unp : Bucket × Option (Option PartId) := (fill { b with sinceUnp := 0, last := some none }, some none)
  let take (p : PartId) (draw : Nat) : Bucket × Option (Option PartId) :=
    (fill { b with
      lvl := b.lvl.modify p.val (· - draw), rr := (p.val + 1) % 8, sinceUnp := min (b.sinceUnp + 1) 63, last := some (some p) },
     some (some p))
  if unpart && 63 ≤ b.sinceUnp then unp
  else
    match nextAfter b.rr fun p => waits p && (rec p).isSome && 1024 ≤ lvl p with
    | some p => take p 1024
    | none =>
      if unpart then unp
      else match nextAfter b.rr waits with
        | some p => take p 0
        | none => (b, none)

/-! Stacks behind tile caches. `MemSys` is the part of the state that a memory access can change. -/

/-- The memory system: the stacks with their contents and marks, the tile caches, the counter of free
values, which tiles are powered, and the regulator records in force. -/
structure MemSys where
  stackSet : List Stack := []
  cells : Mem := []
  lineStain : List Nat := []
  caches : List TileCache := []
  freeCtr : Nat := 0
  tileOn : List Bool := []
  /-- The regulator records of the loaded partitions (03 R87). -/
  regs : List (List RegRec) := []
  deriving DecidableEq, Repr, Inhabited

def State.mem (s : State) : MemSys :=
  ⟨s.stackSet, s.cells, s.lineStain, s.caches, s.freeCtr, s.tileOn, s.parts.map fun (x : Partition) => if x.loaded then x.regs else []⟩

/-- On whose behalf a request reaches a home: the tile that it comes from, 4 for the crossing, and the partition that it acts
for; neither for the clerk cores, the counting house and the loader (11 R300, R326). -/
structure Origin where
  tile : Option Nat := none
  part : Option PartId := none
  deriving DecidableEq, Repr, Inhabited

/-- A request of the hub. -/
def Origin.hub : Origin := {}

/-- A request of a partition through the crossing. -/
def Origin.crossing (p : PartId) : Origin := { tile := some 4, part := some p }

/-- On whose behalf a sender asks (11 R300, R326). -/
def State.originOf (s : State) : Requester → Origin
  | .bench b => { tile := some b.tile.val, part := (s.bench b).partOf }
  | .crossing p => Origin.crossing p
  | .clerk _ | .hub => Origin.hub

def State.setMem (s : State) (m : MemSys) : State :=
  { s with stackSet := m.stackSet, cells := m.cells, lineStain := m.lineStain, caches := m.caches, freeCtr := m.freeCtr }

def MemSys.stackAt (m : MemSys) (k : StackId) : Stack := m.stackSet.getD k.val {}

def MemSys.modStack (m : MemSys) (k : StackId) (f : Stack → Stack) : MemSys :=
  { m with stackSet := m.stackSet.modify k.val f }

def MemSys.cacheAt (m : MemSys) (t : TileId) : TileCache := m.caches.getD t.val {}

def MemSys.modCache (m : MemSys) (t : TileId) (f : TileCache → TileCache) : MemSys :=
  { m with caches := m.caches.modify t.val f }

/-- Reads the line at a window offset from the stack: its bytes and its mark (11 R314, R315). -/
def MemSys.stackRead (m : MemSys) (k : StackId) (o : Nat) : List Byte × Bool × MemSys :=
  let key := cellKey k (m.stackAt k).mode.toNat o
  let st := m.lineStain.contains key
  (memRead 0 m.cells key 64, st,
    m.modStack k fun x => { x with
      readLines := wrapAdd 64 x.readLines 1, stainReads := wrapAdd 64 x.stainReads (b2n st) })

/-- Writes the line at a window offset to the stack, with its mark. -/
def MemSys.stackWrite (m : MemSys) (k : StackId) (o : Nat) (data : List Byte) (stain : Bool) : MemSys :=
  let key := cellKey k (m.stackAt k).mode.toNat o
  let m := { m with cells := memWrite 0 m.cells key (sliceAt data 0 64), lineStain := setPut m.lineStain key stain }
  m.modStack k fun x => { x with writeLines := wrapAdd 64 x.writeLines 1 }

/-- The line of a physical address, wherever it is: its stack and window offset, 64-byte-aligned. -/
def lineBase (pa : Nat) : Nat := pa / 64 * 64

/-- The set of a line (11 R297). -/
def cacheSet (pa : Nat) : Nat := pa / 64 % 65536

def TileCache.find (c : TileCache) (pa : Nat) : Option CacheLine := c.lines.find? fun l => l.addr = lineBase pa

/-- Puts a line in the place of the one with its address. -/
def TileCache.put (c : TileCache) (l : CacheLine) : TileCache :=
  { c with lines := c.lines.map fun x => if x.addr = l.addr then { l with way := x.way } else x }

def TileCache.drop (c : TileCache) (pa : Nat) : TileCache :=
  { c with lines := c.lines.filter fun x => x.addr ≠ lineBase pa }

/-- Writes a dirty line back to its stack (11 R297). -/
def MemSys.writeBack (m : MemSys) (l : CacheLine) : MemSys :=
  if l.dirty then
    match stackOf l.addr with
    | some (k, o) => m.stackWrite k o l.data l.stain
    | none => m
  else m

/-- Whether a staging line holds a way of a set (13 R375). -/
def TileCache.staged (c : TileCache) (set way : Nat) : Bool := c.stageLines.any fun e => e.1 % 65536 = set && 8 + e.1 / 65536 = way

/-- The line in a way of a set leaves the cache, written back when dirty. -/
def MemSys.evict (m : MemSys) (t : TileId) (set way : Nat) : MemSys :=
  match (m.cacheAt t).lines.find? fun x => cacheSet x.addr = set && x.way = way with
  | some v => (m.writeBack v).modCache t fun c => c.drop v.addr
  | none => m

/-- Allocates a line in a tile cache: a free way of its set that no staging line holds, else the way of a victim
that the part chooses (11 R297; 13 R375), which is written back when dirty. -/
def MemSys.allocate (m : MemSys) (t : TileId) (l : CacheLine) : MemSys :=
  let c := m.cacheAt t
  let set := cacheSet l.addr
  let inSet := c.lines.filter fun x => cacheSet x.addr = set
  let ways := (List.range 16).filter fun w => !c.staged set w
  match ways.find? fun w => inSet.all fun x => x.way ≠ w with
  | some w => m.modCache t fun c => { c with lines := c.lines ++ [{ l with way := w }] }
  | none =>
    let w := ways.getD (Config.cacheVictim m.freeCtr l.addr % max 1 ways.length) 0
    let m := MemSys.evict { m with freeCtr := m.freeCtr + 1 } t set w
    m.modCache t fun c => { c with lines := c.lines ++ [{ l with way := w }] }

/-- Whether an address can be accessed: mapped, populated, and its home tile powered (01 R34; 16 R450). -/
inductive Reach where
  | ok (k : StackId) (o : Nat)
  | unmapped
  | homeOff
  deriving DecidableEq, Repr

def MemSys.reach (m : MemSys) (pa : Nat) : Reach :=
  match stackOf pa with
  | none => .unmapped
  | some (k, o) =>
    match homeTile k with
    | none => .ok k o
    | some t => if m.tileOn.getD t.val false then .ok k o else .homeOff

/-- A request draws its unit at its stack, where it finds no other waiting (11 R300, R301). -/
def MemSys.draw (m : MemSys) (k : StackId) (v : Origin) : MemSys :=
  let rec_ (p : PartId) : Option RegRec := (m.regs.getD p.val []).find? fun r => r.target = k.val
  m.modStack k fun x => { x with bucket := (x.bucket.serve rec_ (fun p => v.part = some p) v.part.isNone).1 }

/-- Counts a request at its home: a hit or a miss, and whether it came from another tile or, as number 4, from
the crossing (11 R326). A request of the hub comes from neither. -/
def MemSys.countHome (m : MemSys) (t : TileId) (hit : Bool) (v : Origin) : MemSys :=
  m.modCache t fun c => { c with
    hits := wrapAdd 64 c.hits (b2n hit), misses := wrapAdd 64 c.misses (b2n (!hit)),
    forwarded := wrapAdd 64 c.forwarded (match v.tile with | some f => b2n (f ≠ t.val) | none => 0) }

/-- Brings a line into its home tile cache and gives it (11 R296, R297). -/
def MemSys.fetchLine (m : MemSys) (t : TileId) (k : StackId) (o pa : Nat) (v : Origin) : CacheLine × MemSys :=
  match (m.cacheAt t).find pa with
  | some l => (l, m.countHome t true v)
  | none =>
    let (d, st, m) := (m.countHome t false v).stackRead k (o / 64 * 64)
    let l : CacheLine := { addr := lineBase pa, data := d, stain := st }
    (l, m.allocate t l)

/-- Reads the line of a physical address through its home: bytes and stain (11 R296). -/
def MemSys.readLine (m : MemSys) (pa : Nat) (v : Origin) : Option (List Byte × Bool × MemSys) :=
  match m.reach pa with
  | .ok k o =>
    let m := m.draw k v
    match homeTile k with
    | none => some (m.stackRead k (o / 64 * 64))
    | some t => let (l, m) := m.fetchLine t k o pa v; some (l.data, l.stain, m)
  | _ => none

/-- The bytes of `new` where the mask says so, else those of `old`. -/
def mergeBytes : List Byte → List Byte → List Bool → List Byte
  | o :: os, n :: ns, b :: bs => (if b then n else o) :: mergeBytes os ns bs
  | os, _, _ => os

/-- Writes bytes of the line of a physical address at its home (11 R297, R316): a whole line stores its own
stain, a part of a line keeps a stain that stands and adds its own. -/
def MemSys.writeLine (m : MemSys) (pa : Nat) (data : List Byte) (mask : List Bool) (stain : Bool) (v : Origin) : Option MemSys :=
  match m.reach pa with
  | .ok k o =>
    let m := m.draw k v
    let whole := mask.all id && mask.length = 64
    match homeTile k with
    | none =>
      if whole then some (m.stackWrite k (o / 64 * 64) data stain)
      else
        let (d, st, m) := m.stackRead k (o / 64 * 64)
        some (m.stackWrite k (o / 64 * 64) (mergeBytes d data mask) (st || stain))
    | some t =>
      if whole then
        let l : CacheLine := { addr := lineBase pa, data := data, dirty := true, stain := stain, writer := v.part }
        match (m.cacheAt t).find pa with
        | some _ => some ((m.countHome t true v).modCache t fun c => c.put l)
        | none => some ((m.countHome t false v).allocate t l)
      else
        let (l, m) := m.fetchLine t k o pa v
        let l' : CacheLine := { l with
          data := mergeBytes l.data data mask, dirty := true, stain := l.stain || stain, writer := v.part }
        some (m.modCache t fun c => c.put l')
  | _ => none

/-- Reads bytes within one line. -/
def MemSys.readIn (m : MemSys) (pa n : Nat) (v : Origin) : Option (List Byte × Bool × MemSys) :=
  match m.readLine pa v with
  | some (d, st, m) => some (sliceAt d (pa % 64) n, st, m)
  | none => none

/-- Writes bytes within one line. -/
def MemSys.writeIn (m : MemSys) (pa : Nat) (data : List Byte) (stain : Bool) (v : Origin) : Option MemSys :=
  let i := pa % 64
  let pad := List.replicate i (0 : Byte) ++ data
  let mask := List.replicate i false ++ List.replicate data.length true
  m.writeLine pa (sliceAt pad 0 64) ((mask ++ List.replicate (64 - mask.length) false).take 64) stain v

/-- Reads `n` bytes from a physical address over as many lines as they take, each line once; none when a
line cannot be reached. -/
def MemSys.readLines (m : MemSys) (v : Origin) : Nat → Nat → Option (List Byte × Bool × MemSys)
  | 0, _ => some ([], false, m)
  | n + 1, pa =>
    match m.readLine pa v with
    | none => none
    | some (d, st, m) =>
      match MemSys.readLines m v n (pa + 64) with
      | none => none
      | some (d', st', m) => some (d ++ d', st || st', m)

/-- Reads `n` bytes from a 64-byte-aligned physical address. -/
def MemSys.readBytes (m : MemSys) (pa n : Nat) (v : Origin) : Option (List Byte × Bool × MemSys) :=
  match m.readLines v (ceilDiv n 64) pa with
  | some (d, st, m) => some (d.take n, st, m)
  | none => none

/-- Writes bytes to a 64-byte-aligned physical address, `n` lines; a last line in part. -/
def MemSys.writeLines (m : MemSys) (stain : Bool) (v : Origin) :
    Nat → Nat → List Byte → Option MemSys
  | 0, _, _ => some m
  | n + 1, pa, data =>
    match m.writeIn pa (data.take 64) stain v with
    | none => none
    | some m => MemSys.writeLines m stain v n (pa + 64) (data.drop 64)

def MemSys.writeBytes (m : MemSys) (pa : Nat) (data : List Byte) (stain : Bool) (v : Origin) : Option MemSys :=
  m.writeLines stain v (ceilDiv data.length 64) pa data

/-- Writes bytes from any physical address on. -/
def MemSys.writeFrom (m : MemSys) (pa : Nat) (data : List Byte) (stain : Bool) (v : Origin) : Option MemSys :=
  let k := min data.length (64 - pa % 64)
  if k = 0 then some m
  else match m.writeIn pa (data.take k) stain v with
    | none => none
    | some m => m.writeBytes (pa + k) (data.drop k) stain v

/-- Bytes within one line change where the line stands, with no request made: what an event leaves undefined. -/
def MemSys.poke (m : MemSys) (pa : Nat) (bs : List Byte) : MemSys :=
  let put (old : List Byte) : List Byte := old.take (pa % 64) ++ bs ++ old.drop (pa % 64 + bs.length)
  match m.reach pa with
  | .ok k o =>
    match (homeTile k).bind fun t => ((m.cacheAt t).find pa).map fun l => (t, l) with
    | some (t, l) => m.modCache t fun c => c.put { l with data := put l.data, dirty := true }
    | none => { m with cells := memWrite 0 m.cells (cellKey k (m.stackAt k).mode.toNat (o / 64 * 64) + pa % 64) bs }
  | _ => m

/-! Atomics (11 R308) -/

/-- The value that an atomic stores (11 R308; 04 R115, R121). -/
def atomicValue (a : AtomicOp) (old : Nat) : Nat :=
  let w := 8 * a.width
  let x := a.opnd.toNat % 2 ^ w
  if a.fp then (rnd sFP32 (if a.atop = 3 then vMin (val32 old) (val32 x) else vMax (val32 old) (val32 x)).1 {}).1
  else
  let le : Bool := if a.signed then sext w old ≤ sext w x else old ≤ x
  match a.atop with
  | 1 => (old + x) % 2 ^ w
  | 2 => (rnd sFP32 (vAdd (val32 old) (val32 x)).1 {}).1
  | 3 => if le then old else x
  | 4 => if le then x else old
  | 5 => x
  | 6 => if old = a.exp.toNat % 2 ^ w then x else old
  | _ => old

/-- An ATOP and width that R355 lists; FP32 add has width 4 only (11 R311), and so have FP32 minimum and maximum. -/
def atomicOk (a : AtomicOp) : Bool :=
  (a.width = 4 || a.width = 8) && 1 ≤ a.atop && a.atop ≤ 6 && (a.atop ≠ 2 || a.width = 4) &&
  (!a.fp || ((a.atop = 3 || a.atop = 4) && a.width = 4))

/-- An error in a line that a tile cache holds, where it holds it (11 R317): a single-bit one is corrected and counted; a
double-bit one invalidates a clean line, and leaves a dirty one stained and written back so. The answer says whether a dirty
line was struck, and who wrote it last. -/
def MemSys.cacheError (m : MemSys) (t : TileId) (pa : Nat) (e : CacheError) : Option (Option PartId) × MemSys :=
  match e, (m.cacheAt t).find pa with
  | .single, some _ => (none, m.modCache t fun c => { c with errCorr := satAdd 32 c.errCorr 1 })
  | .double, some l =>
    let m := m.modCache t fun c => { c with errDouble := satAdd 16 c.errDouble 1 }
    if l.dirty then
      let l := { l with stain := true }
      (some l.writer, (m.writeBack l).modCache t fun c => c.put { l with dirty := false })
    else (none, m.modCache t fun c => c.drop pa)
  | _, _ => (none, m)

/-- Performs an atomic at the home of a tile-stack address: the old value, whether the line was stained
(and so left unchanged), and whether both halves of the adder disagreed twice, which stores the line
stained (11 R311, R312; 14 R390). -/
def MemSys.atomicAt (m : MemSys) (t : TileId) (k : StackId) (o pa : Nat) (a : AtomicOp) (disagree : Nat)
    (v : Origin) : Nat × Bool × Bool × MemSys :=
  let (l, m) := (m.draw k v).fetchLine t k o pa v
  let old := leAt l.data (pa % 64) a.width
  if l.stain then (old, true, false, m)
  else
    let twice := disagree ≥ 2 && a.atop = 2
    let new := leBytes a.width (atomicValue a old)
    let d := l.data.take (pa % 64) ++ new ++ l.data.drop (pa % 64 + a.width)
    let l' : CacheLine := { l with data := if twice then l.data else d, dirty := true, stain := twice, writer := v.part }
    (old, false, twice, (m.modCache t fun c => { c.put l' with atomics := wrapAdd 64 c.atomics (b2n (!twice)) }))

/-! Time -/

/-- Milliseconds and microseconds in nanoseconds. -/
def ms (n : Nat) : Nat := n * 1000000
def us (n : Nat) : Nat := n * 1000
def sec (n : Nat) : Nat := n * 1000000000

/-- Whether `d` nanoseconds have passed since a stamp. -/
def State.passed (s : State) (since d : Nat) : Bool := since + d ≤ s.now

end Sys2Proof.Machine
end

