-- ==== Sys2Proof/Machine/Crypto.lean ====
section
/-! DEFINITION. Digests, checks and signatures over bytes: CRC-32C (03 R78), SHA-512, the RSASSA-PSS
verification of 17 R468, and the deterministic CBOR encoding of 15 R431. -/

namespace Sys2Proof.Machine

open Sys2Proof

/-- `f` applied `n` times. -/
def iterN {α : Type} (f : α → α) : Nat → α → α
  | 0, a => a
  | n + 1, a => iterN f n (f a)

/-- One bit of the reflected CRC-32C. -/
def crcBit (c : Nat) : Nat := if c % 2 = 1 then (c / 2) ^^^ 0x82F63B78 else c / 2

def crcByte (c : Nat) (b : Byte) : Nat := iterN crcBit 8 (c ^^^ b.toNat)

/-- CRC-32C with the parameters of 03 R78. -/
def crc32c (bs : List Byte) : Nat := (bs.foldl crcByte 0xFFFFFFFF) ^^^ 0xFFFFFFFF

/-! SHA-512 (FIPS 180-4). The constants are the first 64 bits of the fractional parts of the cube roots of
the first 80 primes and of the square roots of the first 8. -/

/-- Digit-by-digit integer cube root. -/
def icbrtGo : Nat → Nat → Nat → Nat
  | 0, _, r => r
  | k + 1, n, r =>
    let t := r + 2 ^ k
    if t * t * t ≤ n then icbrtGo k n t else icbrtGo k n r

def shaPrimes : List Nat :=
  [2, 3, 5, 7, 11, 13, 17, 19, 23, 29, 31, 37, 41, 43, 47, 53, 59, 61, 67, 71] ++
  [73, 79, 83, 89, 97, 101, 103, 107, 109, 113, 127, 131, 137, 139, 149, 151, 157, 163, 167, 173] ++
  [179, 181, 191, 193, 197, 199, 211, 223, 227, 229, 233, 239, 241, 251, 257, 263, 269, 271, 277, 281] ++
  [283, 293, 307, 311, 313, 317, 331, 337, 347, 349, 353, 359, 367, 373, 379, 383, 389, 397, 401, 409]

def shaK : List (BitVec 64) := shaPrimes.map fun p => BitVec.ofNat 64 (icbrtGo 68 (p * 2 ^ 192) 0)

def shaInit : List (BitVec 64) :=
  (shaPrimes.take 8).map fun p => BitVec.ofNat 64 (isqrtGo 69 (p * 2 ^ 128) 0)

def shaBig0 (x : BitVec 64) : BitVec 64 := x.rotateRight 28 ^^^ x.rotateRight 34 ^^^ x.rotateRight 39
def shaBig1 (x : BitVec 64) : BitVec 64 := x.rotateRight 14 ^^^ x.rotateRight 18 ^^^ x.rotateRight 41
def shaSml0 (x : BitVec 64) : BitVec 64 := x.rotateRight 1 ^^^ x.rotateRight 8 ^^^ (x >>> 7)
def shaSml1 (x : BitVec 64) : BitVec 64 := x.rotateRight 19 ^^^ x.rotateRight 61 ^^^ (x >>> 6)

/-- The message schedule, newest word first. -/
def shaSchedule : Nat → List (BitVec 64) → List (BitVec 64)
  | 0, w => w
  | n + 1, w =>
    shaSchedule n ((shaSml1 (w.getD 1 0) + w.getD 6 0 + shaSml0 (w.getD 14 0) + w.getD 15 0) :: w)

/-- The eight working variables. -/
structure ShaWork where
  a : BitVec 64
  b : BitVec 64
  c : BitVec 64
  d : BitVec 64
  e : BitVec 64
  f : BitVec 64
  g : BitVec 64
  h : BitVec 64

def shaRound (v : ShaWork) (kw : BitVec 64 × BitVec 64) : ShaWork :=
  let ch := (v.e &&& v.f) ^^^ (~~~v.e &&& v.g)
  let mj := (v.a &&& v.b) ^^^ (v.a &&& v.c) ^^^ (v.b &&& v.c)
  let t1 := v.h + shaBig1 v.e + ch + kw.1 + kw.2
  let t2 := shaBig0 v.a + mj
  ⟨t1 + t2, v.a, v.b, v.c, v.d + t1, v.e, v.f, v.g⟩

/-- One 128-byte block. -/
def shaBlock (h : List (BitVec 64)) (blk : List Byte) : List (BitVec 64) :=
  let w := (List.range 16).map fun i => BitVec.ofNat 64 (beNat (sliceAt blk (8 * i) 8))
  let ws := (shaSchedule 64 w.reverse).reverse
  let v := (shaK.zip ws).foldl shaRound
    ⟨h.getD 0 0, h.getD 1 0, h.getD 2 0, h.getD 3 0, h.getD 4 0, h.getD 5 0, h.getD 6 0, h.getD 7 0⟩
  List.zipWith (· + ·) h [v.a, v.b, v.c, v.d, v.e, v.f, v.g, v.h]

/-- All whole blocks of a byte string; `n` bounds them. -/
def shaBlocks : Nat → List (BitVec 64) → List Byte → List (BitVec 64)
  | 0, h, _ => h
  | n + 1, h, bs => if bs.length < 128 then h else shaBlocks n (shaBlock h (bs.take 128)) (bs.drop 128)

/-- A SHA-512 state takes more bytes (06 R183). -/
def ShaState.absorb (s : ShaState) (bs : List Byte) : ShaState :=
  let all := s.buf ++ bs
  let n := all.length / 128
  { h := shaBlocks n s.h all, buf := all.drop (128 * n), len := s.len + bs.length }

def shaStart : ShaState := { h := shaInit, buf := [], len := 0 }

/-- Pads and finishes: the 64-byte digest. -/
def ShaState.finish (s : ShaState) : List Byte :=
  let r := (s.buf.length + 17) % 128
  let pad := List.replicate ((128 - r) % 128) (0 : Byte)
  let all := s.buf ++ [0x80] ++ pad ++ beBytes 16 (8 * s.len)
  (shaBlocks (all.length / 128) s.h all).flatMap fun x => beBytes 8 x.toNat

/-- SHA-512 of a byte string. -/
def sha512 (bs : List Byte) : List Byte := (shaStart.absorb bs).finish

/-! RSASSA-PSS with SHA-512, MGF1 with SHA-512 and a 64-byte salt (RFC 8017; 17 R468) -/

/-- b^65537 mod n. -/
def rsaPublic (b n : Nat) : Nat := (iterN (fun x => x * x % n) 16 (b % n)) * b % n

def mgf1 (seed : List Byte) (n : Nat) : List Byte :=
  ((List.range (ceilDiv n 64)).flatMap fun i => sha512 (seed ++ beBytes 4 i)).take n

/-- Whether a 512-byte signature over `msg` verifies under a 512-byte big-endian modulus. -/
def pssVerify (modulus sig msg : List Byte) : Bool :=
  let n := beNat modulus
  let s := beNat sig
  if n = 0 || s ≥ n then false
  else
    let em := beBytes 512 (rsaPublic s n)
    let masked := em.take 447
    let h := (em.drop 447).take 64
    let db := List.zipWith (· ^^^ ·) masked (mgf1 h 447)
    let db := (db.getD 0 0 &&& 0x7F) :: db.drop 1
    byteAt em 511 = 0xBC && byteAt masked 0 < 128 &&
    (db.take 382).all (· == 0) && byteAt db 382 = 1 &&
    h == sha512 (List.replicate 8 0 ++ sha512 msg ++ db.drop 383)

/-! CBOR, deterministic encoding (15 R431, R436; RFC 8949) -/

/-- The head of an item: its major type and argument. -/
def cborHead (major n : Nat) : List Byte :=
  let m := major * 32
  if n < 24 then [BitVec.ofNat 8 (m + n)]
  else if n < 2 ^ 8 then BitVec.ofNat 8 (m + 24) :: beBytes 1 n
  else if n < 2 ^ 16 then BitVec.ofNat 8 (m + 25) :: beBytes 2 n
  else if n < 2 ^ 32 then BitVec.ofNat 8 (m + 26) :: beBytes 4 n
  else BitVec.ofNat 8 (m + 27) :: beBytes 8 n

def cborUint (n : Nat) : List Byte := cborHead 0 n

def cborInt (i : Int) : List Byte := if i < 0 then cborHead 1 (-i - 1).toNat else cborHead 0 i.toNat

def cborBytes (b : List Byte) : List Byte := cborHead 2 b.length ++ b

def cborText (b : List Byte) : List Byte := cborHead 3 b.length ++ b

def cborArray (xs : List (List Byte)) : List Byte := cborHead 4 xs.length ++ xs.flatten

/-- A map with unsigned keys, given in increasing key order. -/
def cborMap (xs : List (Nat × List Byte)) : List Byte :=
  cborHead 5 xs.length ++ xs.flatMap fun kv => cborUint kv.1 ++ kv.2

end Sys2Proof.Machine
end

