-- ==== Sys2Proof/Machine/House.lean ====
section
/-! DEFINITION. What the counting house and the platform do for every other unit: tickets (15 R435, R436),
messages on the management port or by relay (15 R431, R437), event records and their interrupts (15 R424,
R425), member tables and fault notices (14 R401, R419), and the stop of a partition (07 R236). -/

namespace Sys2Proof.Machine

open Sys2Proof

/-! Geometry (03 R79) -/

/-- Coordinates as a peer word holds them: X in [5:0], Y in [11:6], Z in [17:12] (07 R229). -/
def coordWord (xs : List Nat) : Nat := xs.getD 0 0 + 64 * xs.getD 1 0 + 4096 * xs.getD 2 0

def coordList (w : Nat) : List Nat := [bits w 5 0, bits w 11 6, bits w 17 12]

/-- Whether coordinates lie below the dimensions (07 R229). -/
def coordOk (g : ModSection) (w : Nat) : Bool :=
  bits w 5 0 < g.dim.getD 0 1 && bits w 11 6 < g.dim.getD 1 1 && bits w 17 12 < g.dim.getD 2 1

/-- The module section in force, or the one-module default before any. -/
def State.geo (s : State) : ModSection := s.loader.geometry.getD {}

/-- This module's coordinates. -/
def State.coord (s : State) : Nat := coordWord s.geo.coord

/-- The coordinates one step away in direction `d`. -/
def neighbour (g : ModSection) (d : Nat) : Nat :=
  let i := d / 2
  let n := max 1 (g.dim.getD i 1)
  let c := g.coord.getD i 0
  let c' := if d % 2 = 0 then (c + 1) % n else (c + n - 1) % n
  coordWord (g.coord.set i c')

/-- The direction that a port serves (03 R79). -/
def dirOfPort (g : ModSection) (n : Nat) : Option Nat := (List.range 6).find? fun d => g.portDir.getD d 0x0F = n

/-- A port's ROLE; unused where no module section names it (03 R79). -/
def roleOf (g : ModSection) (n : Nat) : Nat := (g.ports.getD n (4, [])).1

/-- STATE code of a serving port (12 R334). -/
def Port.serving (x : Port) : Bool := x.state == 5

/-! Messages -/

/-- Messages leave by a neighbour while the management port is down, and during a start from a Dalxel
neighbour (15 R437; 17 R464). -/
def State.byRelay (s : State) : Bool :=
  !s.house.link || (s.start.bootSrc == 2 && 1 ≤ s.start.stage && !s.start.done && !s.start.failed && !s.start.recovery)

/-- The lowest-numbered serving direction port (15 R437). -/
def State.relayPort (s : State) : Option PortId :=
  allPorts.find? fun n => (s.port n).serving && (dirOfPort s.geo n.val).isSome

/-- CH_STATUS RELAY: messages leave through a neighbour. -/
def State.relays (s : State) : Bool := s.byRelay && s.relayPort.isSome

/-- A message cut into MGMT frames of 256 bytes, the last padded to whole 16-byte units (15 R437). -/
def mgmtFrames (dst src : Nat) (body : List Byte) : Nat → List Frame
  | 0 => []
  | n + 1 =>
    let piece := body.take 256
    let units := ceilDiv piece.length 16
    let last := body.length ≤ 256
    { typ := 0x30, vc := 3, last := last, plen := units, dst := dst, src := src, payload := sliceAt piece 0 (16 * units) } ::
      (if last then [] else mgmtFrames dst src (body.drop 256) n)

/-- The number of the (VC, CLASS) pair (R343). -/
def frPair (f : Frame) : Nat := 2 * (f.vc % 4) + b2n f.cls

/-- A frame joins the queue of a port; the credit timer of its pair starts when it is the first (02 R62). `via` is
the port and the cells of the receive buffer that a transit frame holds until it leaves (R343). -/
def State.enqueue (s : State) (n : Nat) (f : Frame) (via : Option (PortId × Nat × Bool × Nat) := none) : State :=
  let now := s.now
  { s with ports := s.ports.modify n fun x => { x with
      creditSince := if x.txq.any fun g => frPair g.2 = frPair f then x.creditSince else x.creditSince.set (frPair f) now
      txq := x.txq ++ [(via, f)] } }

/-- Sends a message: on the management port, or by relay to the neighbour (15 R431, R437). -/
def State.sendMsg (s : State) (dest : BitVec 128) (body : List Byte) : State :=
  if s.byRelay then
    match s.relayPort with
    | some n =>
      let dst := neighbour s.geo ((dirOfPort s.geo n.val).getD 0)
      let fs := mgmtFrames dst s.coord body (body.length / 256 + 1)
      fs.foldl (fun s f => s.enqueue n.val f) s
    | none => s
  else { s with mgmtOut := s.mgmtOut ++ [{ dest := dest, body := body }] }

/-! Tickets -/

/-- PAT_MEAS: partition, epoch and digest of each loaded partition (15 R435; 03 R72). -/
def State.patMeas (s : State) : List (Nat × Nat × List Byte) :=
  allParts.filterMap fun p =>
    let x := s.part p
    if x.loaded then some (p.val, x.epoch.toNat, x.digest) else none

def patMeasCbor (xs : List (Nat × Nat × List Byte)) : List Byte :=
  cborArray (xs.map fun x => cborArray [cborUint x.1, cborUint x.2.1, cborBytes x.2.2])

/-- The tile of a ticket's unit; none for a unit of the hub (15 R435). -/
def unitTile (cls index : Nat) : Option Nat :=
  match cls with
  | 0x1 => some index
  | 0x2 => some (index / 64)
  | 0x3 => some (index / 4096 / 64)
  | 0x4 => if index < 12 then some (index / 3) else none
  | 0x5 => if index / 32 < 12 then some (index / 32 / 3) else none
  | 0xA => if 1 ≤ index && index ≤ 4 then some (index - 1) else none
  | _ => none

/-- A DETAIL value (15 R435). -/
def detailCbor : Detail → List Byte
  | .num n => cborUint n
  | .arr ns => cborArray (ns.map cborUint)

/-- The ticket map (15 R435). -/
def ticketCbor (t : Ticket) : List Byte :=
  cborMap (
    [(0, cborUint 1), (1, cborUint 0x5708), (2, cborBytes t.fwMeas), (3, patMeasCbor t.patMeas), (4, cborText t.slot),
     (5, cborUint t.cls), (6, cborUint t.index), (7, cborUint t.event)] ++
    (match t.operands with | some o => [(8, cborBytes o)] | none => []) ++
    [(9, cborUint t.railMv), (10, cborInt t.temp), (11, cborUint t.stepRate), (12, cborUint t.time)] ++
    (match t.part with | some (p, e) => [(13, cborArray [cborUint p, cborUint e])] | none => []) ++
    [(14, cborUint t.seq)] ++
    (if t.detail.isEmpty then [] else [(15, cborMap (t.detail.map fun d => (d.1, detailCbor d.2)))]))

/-- The TICKET message (15 R433). The module's own messages carry REQ_ID 0. -/
def ticketMsg (s : State) (t : Ticket) : List Byte :=
  cborMap [(0, cborUint 0x10), (1, cborUint 0), (3, cborUint s.now), (4, cborUint t.seq), (5, ticketCbor t)]

/-- The lowest unacknowledged SEQ. -/
def House.low (h : House) : Nat :=
  match h.tickets with
  | t :: _ => t.seq
  | [] => h.nextSeq

/-- Sends, in SEQ order, every stored ticket not yet sent that lies within the window of 64; nothing before
SET_SLOT (15 R436). -/
def State.sendTickets (s : State) : State :=
  match s.house.mgr with
  | none => s
  | some mgr =>
    let hi := s.house.low + 64
    let due (t : Ticket) : Bool := s.house.sent ≤ t.seq && t.seq < hi
    let now := s.now
    let s := (s.house.tickets.filter due).foldl (fun s t => s.sendMsg mgr (ticketMsg s t)) s
    { s with house := { s.house with
        sent := max s.house.sent (min hi s.house.nextSeq)
        tickets := s.house.tickets.map fun t => if due t then { t with sentAt := now } else t } }

/-- Stores a ticket under the next SEQ and sends it when the window allows; a full store loses it (15 R436). -/
def State.storeTicket (s : State) (t : Ticket) : State :=
  if 1024 ≤ s.house.tickets.length then
    { s with house := { s.house with
        lost := satAdd 32 s.house.lost 1, lostUntold := satAdd 32 s.house.lostUntold 1 } }
  else
    let t := { t with seq := s.house.nextSeq }
    State.sendTickets { s with house := { s.house with tickets := s.house.tickets ++ [t], nextSeq := s.house.nextSeq + 1 } }

/-- Raises a ticket for a unit: the values of R435 as they stand now; TEMP is `heat` where a rule makes the ticket
carry the temperature that caused a stop (16 R450). -/
def State.raise (s : State) (cls index event : Nat) (part : Option PartId := none)
    (detail : List (Nat × Detail) := []) (operands : Option (List Byte) := none) (heat : Option Int := none) : State :=
  let tile := unitTile cls index
  s.storeTicket {
    cls := cls, index := index, event := event, operands := operands.map (·.take 2048)
    railMv := match tile with | some t => s.supply.railNow.getD t 0 | none => 800
    temp := heat.getD (match tile with | some t => s.supply.junction.getD t 0 | none => s.supply.hubJunction)
    stepRate := if s.supply.hold then 0 else match tile with | some t => s.time.stepRate.getD t 0 | none => s.time.hubRate
    time := s.now, part := part.map fun p => (p.val, (s.part p).epoch.toNat), detail := detail
    fwMeas := s.start.fwMeas, patMeas := s.patMeas, slot := s.house.slot.getD [] }

/-- UNIT_INDEX of a bench: 64 t + b (15 R435). -/
def BenchId.unit (b : BenchId) : Nat := 64 * b.tile.val + b.phys.val

/-- The misuse ticket of 00 R12 and 01 R38 and of every rule that names its event code. DESIGN CHOICE (log 122): it names
class 0, index 0 and no partition, since no rule gives its unit. -/
def State.misuse (s : State) : State := s.raise 0 0 0x0001

/-- The reserved-code ticket of 00 R16. -/
def State.reservedCode (s : State) : State := s.raise 0 0 0x0002

/-! Reads and writes that the hub makes of H0 and H1 -/

/-- Bytes at a physical address as the hub reads them; zeros where the address cannot be reached. -/
def State.hubRead (s : State) (pa n : Nat) : List Byte × State :=
  match s.mem.readBytes (lineBase pa) (pa % 64 + n) Origin.hub with
  | some (d, _, m) => ((d.drop (pa % 64)).take n, s.setMem m)
  | none => (List.replicate n 0, s)

/-- Bytes that the hub writes at a 64-byte-aligned address. -/
def State.hubWrite (s : State) (pa : Nat) (data : List Byte) : State :=
  match s.mem.writeBytes pa data false Origin.hub with
  | some m => s.setMem m
  | none => s

/-! Control space (01 R36, R38) -/

/-- What a clerk core does by a register; it issues nothing in hold (16 R443). -/
def State.byClerk (s : State) (act : State → State) : State := if s.clerkTime then act s else s

/-- An access to the window of a tile: a misuse while the tile is unpowered (01 R38). -/
def State.inTile (s : State) (t : Nat) (act : State → State) : State := if s.tileIsOn t then act s else s.misuse

/-! Interrupts and event rings -/

/-- The core that stands for a failed one (15 R425). -/
def House.standIn (h : House) (c : Nat) : Nat :=
  match h.replacedBy.find? fun r => r.1 = c with
  | some r => r.2
  | none => c

/-- Raises the external interrupt that LEVEL names on a core; level 0 names none (15 R425, R426). -/
def State.interrupt (s : State) (hart level : Nat) : State :=
  if level = 0 then s else { s with irqs := s.irqs ++ [(s.house.standIn hart, level)] }

/-- Records in a ring that have not been consumed (15 R424). -/
def EventRing.unread (r : EventRing) : Nat := (r.head - r.tail).toNat

/-- The event record of 07 R237. -/
def eventBytes (kind part logical phys code flags opcode va : Nat) (data : BitVec 64) (time : Nat) : List Byte :=
  leBytes 1 kind ++ leBytes 1 part ++ leBytes 1 logical ++ leBytes 1 phys ++ leBytes 2 code ++ leBytes 1 flags ++
  leBytes 1 opcode ++ leBytes 8 va ++ leBytes 8 data.toNat ++ leBytes 8 time

/-- Writes a record to a partition's ring, advances HEAD and raises the interrupt at THRESH; a full or
disabled ring drops and counts it (15 R424, R425). -/
def State.ringWrite (s : State) (p : PartId) (rec : List Byte) : State :=
  let r := s.ring p
  if r.base = 0 || r.unread = 2 ^ r.size then
    s.modRing p fun r => { r with lost := satAdd 32 r.lost 1 }
  else
    let pa := r.base + 32 * (r.head.toNat % 2 ^ r.size)
    let s := match s.mem.writeIn pa rec false Origin.hub with
      | some m => s.setMem m
      | none => s
    let wasEmpty := r.unread = 0
    let full : Bool := r.unread + 1 = max 1 r.thresh
    let s := s.modRing p fun r => { r with
      head := r.head + 1, oldest := if wasEmpty then s.now else r.oldest, told := full || (r.told && !wasEmpty) }
    if full then s.interrupt r.hart r.level else s

def Flags.code (f : Flags) : Nat := b2n f.nanIn + 2 * b2n f.invalid + 4 * b2n f.overflow

/-- A bench writes an event record (07 R237); a bench outside a partition has no ring. -/
def State.benchEvent (s : State) (b : BenchId) (kind code : Nat) (flags : Flags) (opcode va : Nat)
    (data : BitVec 64 := 0) : State :=
  let x := s.bench b
  match x.partOf with
  | none => s
  | some p =>
    s.ringWrite p (eventBytes kind p.val x.logical (64 * b.tile.val + b.phys.val) code (Flags.code flags) opcode va data s.now)

/-! Members of a partition's group (14 R419) -/

/-- A member-table entry: address, coordinates, MEMBER, REPLICA. -/
structure Member where
  addr : BitVec 128
  coord : Nat
  isMember : Bool
  isReplica : Bool
  deriving DecidableEq, Repr

def memberOf (e : List Byte) : Member :=
  { addr := BitVec.ofNat 128 (leAt e 0 16), coord := leAt e 16 3 % 2 ^ 18, isMember := bit (byteAt e 19) 0,
    isReplica := bit (byteAt e 19) 1 }

def membersGo : Nat → List Byte → List Member
  | 0, _ => []
  | n + 1, bs => memberOf (bs.take 32) :: membersGo n (bs.drop 32)

/-- The member table that IN_GROUP names, as it stands in H0 or H1. -/
def State.members (s : State) (p : PartId) : List Member :=
  let x := s.integOf p
  membersGo x.groupCount (s.hubRead (64 * x.groupTable) (32 * x.groupCount)).1

/-- Sends a member message to every address and keeps it until its PEER_ACK (15 R434). -/
def State.sendPeers (s : State) (dests : List (BitVec 128)) (typ part n : Nat) (body : List Byte) : State :=
  dests.foldl (fun s d =>
    let s := s.sendMsg d body
    { s with house := { s.house with peerOut := s.house.peerOut ++
        [{ dest := d, typ := typ, part := part, n := n, body := body, first := s.now, lastSent := s.now }] } }) s

/-- The fault notice of 14 R401 to every member: partition, epoch, cause event code and class. -/
def State.faultNotice (s : State) (p : PartId) (cause cls : Nat) : State :=
  let e := (s.part p).epoch.toNat
  s.sendPeers ((s.members p).filterMap fun m => if m.isMember then some m.addr else none) 0x21 p.val e
    (cborMap [(0, cborUint 0x21), (1, cborUint 0), (3, cborUint s.now), (4, cborUint p.val), (5, cborUint e),
      (6, cborUint cause), (7, cborUint cls)])

/-! Stopping a partition (07 R236) -/

/-- Every order in flight of a bench is cancelled and none of its tokens is signalled any more; decoded
orders stay where they are and do not issue (07 R236; 03 R97). -/
def Bench.cancel (x : Bench) : Bench :=
  { x with inflight := [], withheld := [], sigIn := [], recvs := [], exchanges := [], folds := [],
           streams := [], lineReqs := [], walks := [], queue := [], fStream := [], bStream := [], loops := [], poolWaits := [] }

/-- The ranges that the FOLDs of a bench leave undefined as they are cancelled hold free bytes (13 R381). -/
def State.cancelFolds (s : State) (b : BenchId) : State :=
  let rs := (s.bench b).folds.flatMap (·.touched)
  if rs.isEmpty then s
  else
    let n := s.freeCtr
    let m := rs.zipIdx.foldl (fun (m : MemSys) e =>
      m.poke e.1.1 ((List.range e.1.2).map fun i => Config.foldByte n (64 * e.2 + i))) s.mem
    (s.setMem m).tick

/-- The orders in flight of benches are cancelled. -/
def State.cancelBenches (s : State) (bs : List BenchId) : State := (bs.foldl State.cancelFolds s).modBenches bs Bench.cancel

/-- The class of a recovery (14 R407): rollback once an UPDATE of the step has run, or where master state was found stained. -/
def Partition.cls (x : Partition) : Nat := if x.updated || x.stateLost then 1 else 0

/-- Stops a partition (14 R407 gives the class): every bench stops issuing, in-flight orders are cancelled, one partition-fault ticket
is raised with the code and the cause, and, where a rule asks for it, the fault notice is sent. A partition
that is not loaded or already stopped stays as it is. -/
def State.stopPart (s : State) (p : PartId) (code : Nat) (cause : Option Nat) (notice : Option (Nat × Nat)) : State :=
  let x := s.part p
  if !x.loaded || x.stopped then s
  else
    let s := s.modPart p fun x => { x with
      stopped := true, reds := [], pendReqs := [], faultClass := max x.faultClass (match notice with | some (_, k) => k | none => x.cls) }
    let s := s.cancelBenches (s.benchesOf p)
    let s := s.raise 0x9 p.val 0x0020 (some p)
      ([(0, .num code)] ++ (match cause with | some c => [(1, .num c)] | none => []))
    match notice with
    | some (c, k) => s.faultNotice p c k
    | none => s

/-- A partition fault at a bench: BQ_FAULT and BQ_FAULT_PC keep the first, a fault record is written, and
the partition stops with its fault notice (07 R235, R236; 14 R401). KIND is 0x04, or 0x05 for a darner
fault, which stands in DN_FAULT and not in BQ_FAULT. -/
def State.benchFault (s : State) (b : BenchId) (code opcode : Nat) (stream : Bool) (va : Nat) (kind : Nat := 0x04) : State :=
  let x := s.bench b
  match x.partOf with
  | none => s
  | some p =>
    let s := s.modBench b fun x => if kind = 0x05 || x.fault.isSome then x else { x with fault := some (code, opcode, stream), faultPc := va }
    let s := s.benchEvent b kind code {} opcode va
    s.stopPart p code none (some (0x0020, (s.part p).cls))

end Sys2Proof.Machine
end

