-- ==== Sys2Proof/Machine/Operands.lean ====
section
/-! DEFINITION. The operand forms of a bench order: shelf rows with their stain bits (01 R28; 11 R314),
translation through the address book (08 R246 to R249), descriptors (08 R239 to R241), the location of an
element (08 R242), and reads and writes through a descriptor with the bounds and protection checks of 08
R243, R244 and R250. An order works on a `Work`: its bench, the memory system and what it has found. -/

namespace Sys2Proof.Machine

open Sys2Proof

/-- An order fault found while an order runs: its code, what BD_FAULT records (cause, descriptor, write,
address), what DN_FAULT records (darner unit, and where), the record's KIND, and whether it is a stained line in master state
(14 R407). -/
structure OFault where
  code : Nat
  bd : Option (Nat × Nat × Bool × Nat) := none
  dn : Option (Nat × Nat × Nat × Nat × Nat) := none
  kind : Nat := 0x04
  lost : Bool := false
  deriving DecidableEq, Repr

/-- What one order works on. -/
structure Work where
  id : BenchId
  x : Bench
  m : MemSys
  pt : Partition
  geo : ModSection
  /-- Next draw of the order's range (04 R119). -/
  drawNo : Nat := 0
  flags : Flags := {}
  fault : Option OFault := none
  /-- Out-of-bounds events by descriptor (08 R245). -/
  oob : List (Nat × Nat) := []
  /-- Output rows and till entries: first and count (14 R397). -/
  outRows : List (Nat × Nat) := []
  outTill : List (Nat × Nat) := []
  /-- Set for an order whose requests a memory-request timer has ended: each line write happens or not as the part has it
  (11 R319). -/
  cut : Bool := false
  /-- What strikes the order while it runs. -/
  u : Upset := {}
  /-- Module time, the order's number, the stream-mode COMPACTs issued ahead of it (none: no slot holds the order), and
  the mask register that the mangle took for it (07 R211, R213). -/
  now : Nat := 0
  seq : Nat := 0
  ahead : Option (List Nat) := none
  mask : Option MaskReg := none
  /-- What the checkers compared. -/
  checks : List Compare := []
  /-- The outputs of a PRESS, SORT or SCAN in emission order (14 R399). -/
  outs : List Nat := []
  /-- The stream that a compacted PRESS took. -/
  took : Option StreamCtx := none
  /-- The outputs were written as stained before the fault (05 R141). -/
  wrote : Bool := false
  /-- The line last read: its virtual line address, bytes and stain (08 R254). -/
  rbuf : Option (Nat × List Byte × Bool) := none
  /-- The line being written: virtual line address, bytes, byte enables and stain. -/
  wbuf : Option (Nat × List Byte × List Bool × Bool) := none
  deriving DecidableEq, Repr

/-- On whose behalf the order's requests reach a home. -/
def Work.origin (w : Work) : Origin := { tile := some w.id.tile.val, part := w.x.partOf }

def Work.ok (w : Work) : Bool := w.fault.isNone

/-- Records the first fault. -/
def Work.fail (w : Work) (code : Nat) : Work := if w.ok then { w with fault := some { code := code } } else w

def Work.failWhen (w : Work) (c : Bool) (code : Nat) : Work := if c then w.fail code else w

/-- BD_FAULT and BD_FAULT_VA keep the first fault since BD_FAULT was read (08 R255). -/
def Bench.recordBd (x : Bench) (bd : Option (Nat × Nat × Bool × Nat)) : Bench :=
  match bd with
  | some (cause, desc, write, va) => if x.bdFault.isSome then x else { x with bdFault := some (cause, desc, write), bdFaultVa := va }
  | none => x

/-- A bounds, translation or protection fault: BD_FAULT keeps the first (08 R244, R250, R255). -/
def Work.failBd (w : Work) (code cause desc : Nat) (write : Bool) (va : Nat) : Work :=
  if w.ok then
    { w with fault := some { code := code, bd := some (cause, desc, write, va) },
             x := w.x.recordBd (some (cause, desc, write, va)) }
  else w

def Work.addFlags (w : Work) (f : Flags) : Work := { w with flags := fOr w.flags f }

/-- The next draw of the order's range (04 R118, R119). -/
def Work.draw (w : Work) : Nat × Work := (Sys2Proof.draw w.x.seed w.drawNo, { w with drawNo := w.drawNo + 1 })

/-- A checker that is on compares (05 R150; 06 R181; 14 R390, R391). -/
def Work.note (w : Work) (on : Bool) (c : Compare) : Work := if on then { w with checks := w.checks ++ [c] } else w

/-- Whether a checker found a difference. -/
def Compare.fails (c : Compare) : Bool := c.orig ≠ c.chk

/-- Consumption of stained data by an engine (03 R83). -/
def Work.consume (w : Work) (stained : Bool) : Work := w.failWhen stained 0x24

/-! The shelf: 16,384 rows of 512 bytes with 8 stain bits each (01 R28; 11 R314) -/

def rowBytes : Nat := 512
def shelfRows : Nat := 16384

def Bench.shelfRead (x : Bench) (a n : Nat) : List Byte := memRead 0 x.shelf a n

/-- Whether any segment that holds bytes of a range is stained. -/
def Bench.shelfStained (x : Bench) (a n : Nat) : Bool :=
  n ≠ 0 && x.shelfStain.any fun g => a / 64 ≤ g && g ≤ (a + n - 1) / 64

/-- Writes bytes from the start of a segment and gives each segment the mark of its data. -/
def Bench.shelfMark (x : Bench) (seg : Nat) (on : Bool) : Bench := { x with shelfStain := setPut x.shelfStain seg on }

def Bench.shelfWrite (x : Bench) (a : Nat) (bs : List Byte) : Bench := { x with shelf := memWrite 0 x.shelf a bs }

/-- Writes a whole row: 512 bytes and eight stain bits. -/
def Bench.putRow (x : Bench) (row : Nat) (bs : List Byte) (st : List Bool) : Bench :=
  let x := x.shelfWrite (512 * row) (sliceAt bs 0 512)
  (List.range 8).foldl (fun x i => x.shelfMark (8 * row + i) (st.getD i false)) x

def Bench.getRow (x : Bench) (row : Nat) : List Byte := x.shelfRead (512 * row) 512

def Bench.rowStain (x : Bench) (row : Nat) : List Bool := (List.range 8).map fun i => x.shelfStain.contains (8 * row + i)

/-- A stream of bytes written from a row on, rows of 512 bytes, the last row padded with zeros; each
64-byte segment takes its mark from `st`. -/
def Bench.putRows (x : Bench) (st : List Bool) : Nat → Nat → List Byte → Bench
  | 0, _, _ => x
  | n + 1, row, bs => Bench.putRows (x.putRow row (bs.take 512) (st.take 8)) (st.drop 8) n (row + 1) (bs.drop 512)

def Work.putStream (w : Work) (row : Nat) (bs : List Byte) (st : List Bool) : Work :=
  { w with x := w.x.putRows st (ceilDiv bs.length 512) row bs, outRows := w.outRows ++ [(row, ceilDiv bs.length 512)] }

/-- Bytes of consecutive rows and the stain of each of their segments. -/
def Bench.readRows (x : Bench) (row n : Nat) : List Byte := x.shelfRead (512 * row) (512 * n)

/-- The row range check: 0x06 when it passes row 16,383 (07 R207). -/
def Work.rowsOk (w : Work) (row n : Nat) : Work := w.failWhen (row + n > shelfRows) 0x06

/-- Splits into `n` elements of `k` bytes, as numbers. -/
def elems (k : Nat) : Nat → List Byte → List Nat
  | 0, _ => []
  | n + 1, bs => leNat (bs.take k) :: elems k n (bs.drop k)

/-- Reads `n` elements of a format packed from a row, floor(4096 / w) to a row (07 R210), with the stain of
each. -/
def Bench.packed (x : Bench) (w row n : Nat) : List (Nat × Bool) :=
  let per := 4096 / w
  (List.range n).map fun i =>
    let r := row + i / per
    let bo := (i % per) * w
    let a := 512 * r + bo / 8
    let k := (bo % 8 + w + 7) / 8
    (leNat (x.shelfRead a k) / 2 ^ (bo % 8) % 2 ^ w, x.shelfStained a k)

/-- Rows that `n` elements of `w` bits take when packed. -/
def packedRows (w n : Nat) : Nat := ceilDiv n (4096 / w)

/-- Packs the elements of one row, lowest first, `w` bits each. -/
def packBits (w : Nat) : List Nat → Nat
  | [] => 0
  | e :: es => e % 2 ^ w + 2 ^ w * packBits w es

/-- Writes elements packed from a row, zeros past the last of each row; a segment is stained when an element
written into it is. -/
def Bench.putPacked (x : Bench) (w : Nat) : Nat → Nat → List (Nat × Bool) → Bench
  | 0, _, _ => x
  | n + 1, row, es =>
    let per := 4096 / w
    let here := es.take per
    let st := (List.range 8).map fun g =>
      (List.range here.length).any fun i => (here.getD i (0, false)).2 && (i * w) / 512 ≤ g && g ≤ (i * w + w - 1) / 512
    Bench.putPacked (x.putRow row (leBytes 512 (packBits w (here.map (·.1)))) st) w n (row + 1) (es.drop per)

def Work.putPacked (w : Work) (width row : Nat) (es : List (Nat × Bool)) : Work :=
  { w with x := w.x.putPacked width (packedRows width es.length) row es,
           outRows := w.outRows ++ [(row, packedRows width es.length)] }

/-! Translation (08 R246 to R250) -/

/-- What an address-book entry says at a level (08 R246, R247). -/
inductive BookEntry where
  | notMapped
  | refused
  | table (pa : Nat)
  | page (pa : Nat) (write orders : Bool)
  deriving DecidableEq, Repr

/-- Whether a range lies in the populated part of one stack window (08 R247). -/
def inOneStack (pa n : Nat) : Bool :=
  match stackOf pa, stackOf (pa + n - 1) with
  | some (k, _), some (k', _) => k = k'
  | _, _ => false

/-- Reads an entry of the address book at level 0, 1 or 2 (08 R246, R247). -/
def bookEntry (level e : Nat) : BookEntry :=
  if !bit e 0 then .notMapped
  else
    let leaf := bit e 1
    let pa := bits e 47 12 * 4096
    if bits e 11 4 ≠ 0 || bits e 63 48 ≠ 0 then .refused
    else if leaf then
      if level = 0 then .refused
      else
        let size := if level = 1 then 2 ^ 30 else 2 ^ 21
        if pa % size ≠ 0 || !inOneStack pa size then .refused else .page pa (bit e 2) (bit e 3)
    else if level = 2 || bit e 2 || bit e 3 || !inOneStack pa 4096 then .refused
    else .table pa

/-- Why a translation fails: a cause of BD_FAULT, or the home of a table is off (08 R255; 16 R450). -/
inductive WalkFail where
  | cause (c : Nat)
  | homeOff
  deriving DecidableEq, Repr

/-- The index of a virtual address at a level (08). -/
def bookIndex (level va : Nat) : Nat :=
  match level with
  | 0 => bits va 47 39
  | 1 => bits va 38 30
  | _ => bits va 29 21

/-- What a walk gives: the leaf or why it fails, the table pointers it met, and the reads it made (08 R249). -/
structure BookWalk where
  res : Except WalkFail TlbEntry
  tables : List WalkEntry := []
  reads : Nat := 0
  m : MemSys

/-- One walk from a table, at most `fuel` levels (08 R249). -/
def walkBook (va : Nat) (v : Origin) : Nat → Nat → Nat → MemSys → BookWalk
  | 0, _, _, m => { res := .error (.cause 4), m := m }
  | fuel + 1, level, table, m =>
    match m.readIn (table + 8 * bookIndex level va) 8 v with
    | none => { res := .error .homeOff, m := m }
    | some (d, _, m) =>
      match bookEntry level (leNat d) with
      | .notMapped => { res := .error (.cause 2), reads := 1, m := m }
      | .refused => { res := .error (.cause 4), reads := 1, m := m }
      | .table pa =>
        let r := walkBook va v fuel (level + 1) pa m
        { r with tables := { va := va, level := level, table := pa } :: r.tables, reads := r.reads + 1 }
      | .page pa wr od =>
        let size := if level = 1 then 2 ^ 30 else 2 ^ 21
        { res := .ok { va := va / size * size, big := level = 1, pa := pa, write := wr, orders := od }, reads := 1, m := m }

/-- Whether a table pointer in the walk cache serves an address: its entry spans 512 GiB at level 0, 1 GiB at level 1. -/
def WalkEntry.serves (e : WalkEntry) (va : Nat) : Bool :=
  if e.level = 0 then e.va / 2 ^ 39 = va / 2 ^ 39 else e.va / 2 ^ 30 = va / 2 ^ 30

/-- The level and the table from which a walk of a bench starts: below the deepest table pointer that its walk cache holds
for the address, else at the root (08 R249). -/
def Bench.walkFrom (x : Bench) (book va : Nat) : Nat × Nat :=
  match (x.wcache.find? fun e => e.level = 1 && e.serves va) <|> (x.wcache.find? fun e => e.serves va) with
  | some e => (e.level + 1, e.table)
  | none => (0, book)

/-- The walk cache keeps the 16 table pointers met last (08 R249). -/
def Bench.keepTables (x : Bench) (es : List WalkEntry) : Bench :=
  let l := x.wcache ++ es
  { x with wcache := l.drop (l.length - 16) }

def TlbEntry.size (e : TlbEntry) : Nat := if e.big then 2 ^ 30 else 2 ^ 21

def TlbEntry.covers (e : TlbEntry) (va : Nat) : Bool := e.va ≤ va && va < e.va + e.size

/-- Installs a leaf in the 128-entry translation cache (08 R249). -/
def Work.install (w : Work) (e : TlbEntry) : Work :=
  let l := if 128 ≤ w.x.tlb.length then removeAt w.x.tlb (Config.tlbVictim w.m.freeCtr % 128) else w.x.tlb
  { w with x := { w.x with tlb := l ++ [e] },
           m := if 128 ≤ w.x.tlb.length then { w.m with freeCtr := w.m.freeCtr + 1 } else w.m }

/-- The leaf for a virtual address: from the translation cache, else by a walk, counted as a miss with its reads (08 R249,
R255). -/
def Work.leaf (w : Work) (va : Nat) : Except WalkFail TlbEntry × Work :=
  match w.x.tlb.find? fun e => e.covers va with
  | some e => (.ok e, w)
  | none =>
    let (level, table) := w.x.walkFrom w.pt.hdr.addrBook va
    let k := walkBook va w.origin (3 - level) level table w.m
    let x := { w.x with tcMiss := wrapAdd 64 w.x.tcMiss 1, bdLines := wrapAdd 64 w.x.bdLines k.reads }
    let w := { w with m := k.m, x := x.keepTables k.tables }
    match k.res with
    | .ok e => (.ok e, w.install e)
    | .error f => (.error f, w)

/-- Counts a line request of the bench (08 R255). -/
def Work.countLine (w : Work) : Work := { w with x := { w.x with bdLines := wrapAdd 64 w.x.bdLines 1 } }

/-- The physical address of a data access, or the order fault of checks 2 and 3 (08 R250; 16 R450). -/
def Work.dataAddr (w : Work) (desc va : Nat) (write : Bool) : Option Nat × Work :=
  match w.leaf va with
  | (.error (.cause c), w) => (none, w.failBd 0x23 c desc write (lineBase va))
  | (.error .homeOff, w) => (none, w.fail 0x22)
  | (.ok e, w) =>
    if write && !e.write then (none, w.failBd 0x23 3 desc write (lineBase va))
    else (some (e.pa + (va - e.va)), w)

/-- The physical address of an order or descriptor fetch, or order fault 0x08 (08 R250; 16 R450). -/
def Work.fetchAddr (w : Work) (va : Nat) : Option Nat × Work :=
  match w.leaf va with
  | (.error (.cause c), w) => (none, w.failBd 0x08 c 0xFFFF false (lineBase va))
  | (.error .homeOff, w) => (none, w.fail 0x08)
  | (.ok e, w) =>
    if !e.orders then (none, w.failBd 0x08 5 0xFFFF false (lineBase va))
    else (some (e.pa + (va - e.va)), w)

/-- Reads a whole line on the fetch path. -/
def Work.fetchLine (w : Work) (va : Nat) : List Byte × Work :=
  match w.fetchAddr (lineBase va) with
  | (none, w) => ([], w)
  | (some pa, w) =>
    match w.countLine.m.readLine pa w.origin with
    | none => ([], w.fail 0x08)
    | some (d, _, m) => (d, { w.countLine with m := m })

/-! Descriptors (08 R239 to R241) -/

/-- A tensor descriptor as its 64 bytes give it. -/
structure TDesc where
  base : Nat := 0
  fmt : Nat := 0
  rank : Nat := 0
  strict : Bool := false
  idleSkip : Bool := false
  keepLargest : Bool := false
  stainArrive : Bool := false
  fill : Nat := 0
  extent : Nat := 0
  owner : Nat := 0xFFFF
  dim : List Nat := []
  stride : List Int := []
  rsvd : Bool := false
  deriving DecidableEq, Repr

def parseDesc (d : List Byte) : TDesc :=
  let b6 := byteAt d 6
  let b7 := byteAt d 7
  let b8 := byteAt d 8
  { base := leAt d 0 6, fmt := b6 % 16, rank := b6 / 16 % 8, strict := bit b7 0, idleSkip := bit b7 1,
    keepLargest := bit b7 2, stainArrive := bit b7 3, fill := b8 % 16, extent := leAt d 9 5, owner := leAt d 14 2
    dim := (List.range 6).map fun k => leAt d (0x10 + 4 * k) 4
    stride := (List.range 6).map fun k => sext 32 (leAt d (0x28 + 4 * k) 4)
    rsvd := bit b6 7 || b7 / 16 ≠ 0 || b8 / 16 ≠ 0 }

/-- The bytes of one MX block, 4 w; else of one element. -/
def unitBytes (f : Fmt) : Nat := if f.isMx then 4 * f.width else f.width / 8

/-- The rules of 08 R239 and R240 on one descriptor (the rules on its OWNER's descriptor apart). -/
def TDesc.legal (d : TDesc) : Bool :=
  match Fmt.ofCode d.fmt with
  | none => false
  | some f =>
    let dims := d.dim
    let str := d.stride
    let tail := (List.range 6).all fun k => k < d.rank || (dims.getD k 0 = 1 && (d.owner ≠ 0xFFFF || str.getD k 0 = 0))
    let scale := if f.isMx then roundUp d.extent 64 + d.extent / (4 * f.width) else d.extent
    let own := d.owner ≠ 0xFFFF
    let b0 := str.getD 0 0
    let b1 := str.getD 1 0
    1 ≤ d.rank && d.rank ≤ 6 && d.base % unitBytes f = 0 && tail && d.base + scale ≤ 2 ^ 48 &&
    (!f.isMx || (dims.getD 0 0 % 32 = 0 && d.extent % (4 * f.width) = 0 &&
      (own || (str.getD 0 0 = 1 && (List.range 5).all fun k => str.getD (k + 1) 0 % 32 = 0)))) &&
    (!own || (0 ≤ b0 && b0 ≤ 24 && 0 ≤ b1 && b1 ≤ 24 && b0 + b1 ≤ 30 &&
      (2 ^ (b0 + b1).toNat * f.width) % 512 = 0 && (!f.isMx || 5 ≤ b0) &&
      (List.range 4).all fun k => str.getD (k + 2) 0 = 0))

/-- Reads descriptor `i` from the descriptor cache, or fills it by one 64-byte read (08 R241). -/
def Work.rawDesc (w : Work) (i : Nat) : List Byte × Work :=
  if i ≥ w.x.dcount then ([], w.fail 0x07)
  else
    match w.x.dcache.find? fun c => c.1 = i with
    | some c => (c.2, w)
    | none =>
      let (d, w) := w.fetchLine (w.x.dtab + 64 * i)
      if w.ok then
        let l := if 32 ≤ w.x.dcache.length then w.x.dcache.drop 1 else w.x.dcache
        let own := w.x.ownerLines.filter fun c => l.any fun e => e.1 = c.1
        (d, { w with x := { w.x with dcache := l ++ [(i, d)], ownerLines := own } })
      else (d, w)

/-- The checks of a filled descriptor (08 R241): 0x02 for a reserved bit, 0x04 for a reserved FMT code (07 R206), 0x03
for another breach of R239 or R240. -/
def Work.checkDesc (w : Work) (d : TDesc) : Work :=
  ((w.failWhen d.rsvd 0x02).failWhen (Fmt.ofCode d.fmt).isNone 0x04).failWhen (!d.legal) 0x03

/-- Descriptor `i`, checked, and the descriptor of its owner table (08 R240). -/
def Work.desc (w : Work) (i : Nat) : TDesc × Option TDesc × Work :=
  let (raw, w) := w.rawDesc i
  if !w.ok then ({}, none, w)
  else
    let d := parseDesc raw
    let w := w.checkDesc d
    if d.owner = 0xFFFF || !w.ok then (d, none, w)
    else
      let (rawO, w) := w.rawDesc d.owner
      let o := parseDesc rawO
      let w := if w.ok then (w.checkDesc o).failWhen (o.owner ≠ 0xFFFF || o.fmt ≠ 0xD || o.rank ≠ 1) 0x03 else w
      (d, some o, w)

/-- STRICT of the descriptor or of the partition (08 R244; 03 R83). -/
def Work.strict (w : Work) (d : TDesc) : Bool := d.strict || w.pt.hdr.strictPolicy = 1

/-- The fill value of a descriptor: the entry's low bits in the format's width (03 R90; 08 R243). -/
def Work.fillOf (w : Work) (d : TDesc) (width : Nat) : Nat := (w.pt.fill.getD d.fill 0).toNat % 2 ^ width

/-- Adds `n` to the count kept under `i`. -/
def addCount (xs : List (Nat × Nat)) (i n : Nat) : List (Nat × Nat) :=
  match xs with
  | [] => [(i, n)]
  | (j, k) :: xs => if j = i then (i, k + n) :: xs else (j, k) :: addCount xs i n

/-- An out-of-bounds event: counted, recorded, and a fault under STRICT (08 R243 to R245). -/
def Work.oobEvent (w : Work) (i : Nat) (d : TDesc) (write : Bool) (va : Nat) (n : Nat := 1) : Work :=
  if n = 0 || !w.ok then w
  else
    let n := if w.strict d then 1 else n
    let w := { w with
      x := { w.x with oobTotal := wrapAdd 64 w.x.oobTotal n, oobLast := some i }
      oob := addCount w.oob i n }
    if w.strict d then w.failBd 0x23 1 i write va else w

/-! Reads and writes through a descriptor -/

/-- A new line request for one byte of virtual memory. -/
def Work.readNew (w : Work) (desc va : Nat) : Byte × Bool × Work :=
  match w.dataAddr desc va false with
  | (none, w) => (0, false, w)
  | (some pa, w) =>
    match w.countLine.m.readLine pa w.origin with
    | none => (0, false, w.fail 0x22)
    | some (d, st, m) => (d.getD (va % 64) 0, st, { w.countLine with m := m, rbuf := some (lineBase va, d, st) })

/-- Reads one byte of virtual memory; consecutive bytes of one line make one line request (08 R254). -/
def Work.readByte (w : Work) (desc va : Nat) : Byte × Bool × Work :=
  match w.rbuf with
  | some (l, d, st) =>
    if l = lineBase va then (d.getD (va % 64) 0, st, w)
    else Work.readNew { w with rbuf := none } desc va
  | none => Work.readNew w desc va
/-- Reads `n` bytes of virtual memory: bytes, whether any came from a stained line. -/
def Work.readMem (desc : Nat) : Nat → Nat → Work → List Byte × Bool × Work
  | 0, _, w => ([], false, w)
  | n + 1, va, w =>
    let (b, st, w) := w.readByte desc va
    if !w.ok then ([], false, w)
    else
      let (bs, st', w) := Work.readMem desc n (va + 1) w
      (b :: bs, st || st', w)

/-- Sends the line being written to its home (08 R250; 11 R316). -/
def Work.flush (w : Work) (desc : Nat) : Work :=
  match w.wbuf with
  | none => w
  | some (l, d, mask, st) =>
    let w := { w with wbuf := none, rbuf := none }
    match w.dataAddr desc l true with
    | (none, w) => w
    | (some pa, w) =>
      if w.cut && !Config.lineDone w.m.freeCtr then { w.countLine with m := { w.m with freeCtr := w.m.freeCtr + 1 } }
      else match w.countLine.m.writeLine pa d mask st w.origin with
      | none => w.fail 0x22
      | some m => { w.countLine with m := { m with freeCtr := m.freeCtr + b2n w.cut } }

/-- Writes one byte of virtual memory into the line being written. -/
def Work.writeByte (w : Work) (desc va : Nat) (b : Byte) (st : Bool) : Work :=
  let w := match w.wbuf with
    | some (l, _, _, _) => if l = lineBase va then w else w.flush desc
    | none => w
  let (d, mask, st0) := match w.wbuf with
    | some (_, d, mask, st0) => (d, mask, st0)
    | none => (List.replicate 64 0, List.replicate 64 false, false)
  { w with wbuf := some (lineBase va, d.set (va % 64) b, mask.set (va % 64) true, st0 || st) }

def Work.writeMem (desc : Nat) (st : Bool) : List Byte → Nat → Work → Work
  | [], _, w => w
  | b :: bs, va, w => if w.ok then Work.writeMem desc st bs (va + 1) (w.writeByte desc va b st) else w

/-- Where an element lies (08 R242). -/
structure Loc where
  inb : Bool
  addr : Nat := 0
  saddr : Nat := 0
  deriving DecidableEq, Repr

/-- The last step of locate: bounds of the element offset, and the addresses. -/
def locEnd (d : TDesc) (f : Fmt) (e : Int) : Loc :=
  let bo := e * (f.width : Int)
  let addr := (((d.base : Int) + bo / 8) % 2 ^ 48).toNat
  if bo < 0 || bo + (f.width : Int) > 8 * (d.extent : Int) then { inb := false, addr := addr }
  else { inb := true, addr := addr, saddr := d.base + roundUp d.extent 64 + (e / 32).toNat }

/-- A line of the owner table of descriptor `i`: from the four that the descriptor cache holds for it, the most recent last,
else by one line request (08 R253). -/
def Work.ownerLine (w : Work) (i oi va : Nat) : List Byte × Work :=
  let line := lineBase va
  let keep (d : List Byte) (w : Work) : Work :=
    let rest := w.x.ownerLines.filter fun c => !(c.1 = i && c.2.1 = line)
    let mine := rest.filter fun c => c.1 = i
    { w with x := { w.x with ownerLines := (rest.filter fun c => c.1 ≠ i) ++ mine.drop (mine.length - 3) ++ [(i, line, d)] } }
  match w.x.ownerLines.find? fun c => c.1 = i && c.2.1 = line with
  | some c => (c.2.2, keep c.2.2 w)
  | none =>
    match w.dataAddr oi line false with
    | (none, w) => ([], w)
    | (some pa, w) =>
      match w.countLine.m.readLine pa w.origin with
      | none => ([], w.fail 0x22)
      | some (d, _, m) => (d, keep d { w.countLine with m := m })

/-- The owner entry of a block for descriptor `i` (08 R252): a located read through the owner descriptor; out of bounds it
reads the fill value. -/
def Work.ownerEntry (w : Work) (i oi : Nat) (o : TDesc) (blk : Nat) : Nat × Work :=
  let l := if blk < o.dim.getD 0 0 then locEnd o .int64 ((blk : Int) * o.stride.getD 0 0) else { inb := false }
  if l.inb then
    let (d, w) := w.ownerLine i oi l.addr
    (leAt d (l.addr % 64) 8, w)
  else (w.fillOf o 64, w.oobEvent oi o false l.addr)

/-- The block number and the place within its block of coordinates under an owner table (08 R242). -/
def blockOf (d : TDesc) (c : List Nat) : Nat × Nat :=
  let b0 := (d.stride.getD 0 0).toNat
  let b1 := (d.stride.getD 1 0).toNat
  let nb0 := ceilDiv (d.dim.getD 0 0) (2 ^ b0)
  let nb1 := ceilDiv (d.dim.getD 1 0) (2 ^ b1)
  let g := fun k => c.getD k 0
  let n := fun k => d.dim.getD k 1
  let lin := g 2 + n 2 * (g 3 + n 3 * (g 4 + n 4 * g 5))
  (g 0 / 2 ^ b0 + nb0 * (g 1 / 2 ^ b1 + nb1 * lin), g 0 % 2 ^ b0 + 2 ^ b0 * (g 1 % 2 ^ b1))

/-- locate of 08 R242, through descriptor `i`. -/
def Work.locate (w : Work) (i : Nat) (d : TDesc) (o : Option TDesc) (f : Fmt) (c : List Nat) : Loc × Work :=
  if (List.range 6).any fun k => c.getD k 0 ≥ d.dim.getD k 0 then ({ inb := false }, w)
  else
    match o with
    | none => (locEnd d f ((List.range 6).foldl (fun a k => a + (c.getD k 0 : Int) * d.stride.getD k 0) 0), w)
    | some od =>
      let (blk, inner) := blockOf d c
      let (ent, w) := w.ownerEntry i d.owner od blk
      let word := ent % 2 ^ 32
      if word = 0xFFFFFFFF || word % 2 ^ 18 ≠ coordWord w.geo.coord then ({ inb := false }, w)
      else
        let b := (d.stride.getD 0 0).toNat + (d.stride.getD 1 0).toNat
        (locEnd d f ((ent / 2 ^ 32 * 2 ^ b + inner : Nat) : Int), w)

/-- The coordinates of an element index, dimension 0 fastest (08); none past the last element. -/
def coordsOf (dim : List Nat) (idx : Nat) : Option (List Nat) :=
  if dim.foldl (· * ·) 1 ≤ idx then none
  else some ((List.range 6).map fun k => idx / (dim.take k).foldl (· * ·) 1 % dim.getD k 1)

/-- locate of an element index. -/
def Work.locateIdx (w : Work) (i : Nat) (d : TDesc) (o : Option TDesc) (f : Fmt) (idx : Nat) : Loc × Work :=
  match coordsOf d.dim idx with
  | none => ({ inb := false }, w)
  | some c => w.locate i d o f c

/-! Lanes and their shadows (06 R180) -/

/-- Whether the shadow of a lane's group recomputes that lane in vector step `s`, counted from the last rinse. -/
def shadowsLane (s lane : Nat) : Bool := lane % 16 = (s + 5 * (lane / 16)) % 16

/-- The lane result that an error strikes in an order of `n` lane results over `steps` vector steps: lane l of a chunk holds
element 512 c + l, and the chunks take the steps in turn. -/
def Work.laneAt (w : Work) (steps n : Nat) : Option (Nat × LaneError) :=
  match w.u.lane with
  | some e =>
    let i := 512 * (e.step * ceilDiv n 512 / max 1 steps) + e.lane
    if e.lane < 512 && e.step < steps && i < n then some (i, e) else none
  | none => none

/-- Carries a lane error into the results and compares it with the shadow where that recomputes the lane; `place` gives the
output that holds a lane's result, `ops` its operands. -/
def Work.laneErr (w : Work) (steps n width : Nat) (place : Nat → Nat) (ops : Nat → List Byte) (outs : List Nat) : List Nat × Work :=
  match w.laneAt steps n with
  | none => (outs, w)
  | some (i, e) =>
    let k := place i
    let good := outs.getD k 0
    let bad := Nat.xor good (e.mask % 2 ^ width)
    if outs.length ≤ k then (outs, w)
    else
    let c : Compare := {
      kind := .shadow, code := e.lane, index := k
      orig := [if e.inShadow then good else bad], chk := [if e.inShadow then bad else good], ops := ops i, right := [good] }
    (if e.inShadow then outs else outs.set k bad, w.note (w.x.shadowEn && shadowsLane (w.x.shadowStep + e.step) e.lane) c)

end Sys2Proof.Machine
end

