-- ==== Sys2Proof/Machine/Order.lean ====
section
/-! DEFINITION. The encoding of orders (07 R204 to R233): reading an order from its 128 bits, its opcode and
unit, the loop adjustment of its rows (07 R207), and the legal values of its fields, whose breach is an
order fault (07 R235). -/

namespace Sys2Proof.Machine

open Sys2Proof

/-- The header of an order word (07 R204). -/
def headerOf (w : Nat) : OrderHeader :=
  { stream := bit w 8, evt := bit w 9, need := bits w 15 10, needEn := bit w 16, sig := bits w 22 17, sigEn := bit w 23,
    sigBench := bits w 30 24, lx := bit w 31 }

/-- The body of an order word and whether its RSVD bits are zero (07 R204 to R233). -/
def bodyOf (w : Nat) : Order × Bool :=
  let f := bits w
  let b := bit w
  let copy : CopyOp := { seamEnd := f 37 36, sfmt := f 41 38, dfmt := f 45 42, sr := b 46, srcRow := f 77 64, dstRow := f 91 78, rows := f 106 92 }
  let move : MoveOp := { desc := f 47 32, row := f 61 48, part := b 62, offset := f 95 64, count := f 119 96, rowq := f 126 120 }
  let press : PressOp := { tile := b 32, quad := f 34 33, dir := b 35, afmt := f 39 36, ofmt := f 43 40, sr := b 44, mask := f 47 45, pin := f 49 48, dest := b 50, n := f 67 52, arow := f 81 68, orow := f 95 82, prow := f 109 96, till := f 127 110 }
  let compact : CompactOp := { pack := f 35 34, sid := f 37 36, afmt := f 41 38, orderEn := b 42, desc := f 79 64, listRow := f 93 80, auxRow := f 107 94, outRow := f 121 108 }
  let fused : FusedOp := { rms := b 38, nlen := f 54 39, rows := f 71 64, xRow := f 85 72, dyRow := f 99 86, pRow := f 113 100, dRow := f 127 114 }
  let msg : MsgOp := { row := f 45 32, rows := f 60 46, peer := BitVec.ofNat 32 (f 95 64), tag := f 107 96 }
  match f 7 0 with
  | 0x01 => (.fetch move, f 63 63 = 0 && f 127 127 = 0)
  | 0x02 => (.store move, f 63 63 = 0 && f 127 127 = 0)
  | 0x03 =>
    let ok := f 63 47 = 0 && f 127 107 = 0
    match f 35 32 with
    | 0 => (.copyShelf copy, ok)
    | 1 => (.copyToSeam copy, ok)
    | 2 => (.copyFromSeam copy, ok)
    | 3 => (.copyConvert copy, ok)
    | _ => (.illegal 0x03, ok)
  | 0x10 =>
    if b 35 then
      (.loadwMask { m := f 38 36, tail := f 47 40, rowMask := BitVec.ofNat 32 (f 95 64), colMask := BitVec.ofNat 32 (f 127 96) },
        f 34 32 = 0 && f 39 39 = 0 && f 63 48 = 0)
    else
      (.loadw { tile := b 32, quad := f 34 33, fmt := f 39 36, two8 := b 40, row := f 54 41 }, f 63 55 = 0 && f 127 64 = 0)
  | 0x11 => if b 51 then (.pressCompacted press, true) else (.press press, true)
  | 0x20 =>
    let ok := f 63 43 = 0 && f 127 122 = 0
    match f 33 32 with
    | 0 => (.compactCount compact, ok)
    | 1 => (.compactPlan compact, ok)
    | 2 => (.compactStream compact, ok)
    | _ => (.compactCompress compact, ok)
  | 0x21 => (.merge { dense := b 32, plan := b 33, nrm1 := f 39 34, ofmt := f 43 40, sr := b 44, srcRow := f 58 45, runBase := f 72 59, outRow := f 86 73, desc := f 102 87, row0 := f 126 103 }, f 127 127 = 0)
  | 0x22 => (.sort { kb := f 33 32, ktype := b 34, desc_ := b 35, hist := b 36, mem := b 37, n := f 60 38, src := f 79 64, dst := f 95 80, scratchRow := f 109 96, histRow := f 123 110 }, f 63 61 = 0 && f 127 124 = 0)
  | 0x23 => (.scan { typ := f 33 32, excl := b 34, n := f 56 35, srcRow := f 77 64, dstRow := f 91 78, totalRow := f 105 92 }, f 63 57 = 0 && f 127 106 = 0)
  | 0x24 =>
    let okF := f 63 55 = 0
    match f 37 32 with
    | 0x20 => (.softmaxForward fused, okF)
    | 0x21 => (.softmaxBackward fused, okF)
    | 0x22 => (.normForward fused, okF)
    | 0x23 => (.normBackward fused, okF)
    | _ => (.vec { op := f 37 32, ifmt := f 41 38, ofmt := f 45 42, sr := b 46, bbc := b 47, cbc := b 48, n := f 69 49, aRow := f 83 70, bRow := f 97 84, cRow := f 111 98, dRow := f 125 112 }, f 127 126 = 0)
  | 0x25 => (.size { first := b 32, last := b 33, ifmt := f 37 34, n := f 58 38, srcRow := f 77 64, outRow := f 91 78, tgt := BitVec.ofNat 32 (f 123 92) }, f 63 59 = 0 && f 127 124 = 0)
  | 0x26 => (.quant { ofmt := f 35 32, sr := b 36, n := f 57 37, srcRow := f 77 64, tRow := f 91 78, outRow := f 105 92, scaleRow := f 119 106 }, f 63 58 = 0 && f 127 120 = 0)
  | 0x27 => (.stat { slot := f 34 32, lo := f 79 64, hi := f 95 80, outRow := f 109 96 }, f 63 35 = 0 && f 127 110 = 0)
  | 0x28 => (.update { slot := f 34 32, gfmt := b 35, n := f 55 36, desc := f 79 64, stateRow := f 93 80, gRow := f 107 94, pRow := f 121 108 }, f 63 56 = 0 && f 127 122 = 0)
  | 0x29 => (.digest { first := b 32, last := b 33, bytes := f 57 34, desc := f 79 64, srcRow := f 93 80, outRow := f 107 94 }, f 63 58 = 0 && f 127 108 = 0)
  | 0x30 => (.signal { ctr := f 37 32, bench := f 44 38, value := BitVec.ofNat 32 (f 95 64) }, f 63 45 = 0 && f 127 96 = 0)
  | 0x31 => (.wait { ctr := f 37 32, consume := b 38, thresh := BitVec.ofNat 32 (f 95 64) }, f 63 39 = 0 && f 127 96 = 0)
  | 0x32 => (.fence (b 32), f 127 33 = 0)
  | 0x40 => (.send msg, f 63 61 = 0 && f 127 108 = 0)
  | 0x41 => (.recv msg, f 63 61 = 0 && f 127 108 = 0)
  | 0x42 => (.reduce { tree := f 35 32, mode := f 37 36, w64 := b 38, n := f 59 39, srcRow := f 77 64, dstRow := f 91 78, rdesc := f 107 92 }, f 63 60 = 0 && f 127 108 = 0)
  | 0x43 => (.exchange { dispRow := f 45 32, srcRow := f 59 46, dstRow := f 77 64, peerRow := f 91 78, peers := f 103 92, tokq := f 111 104, tag := f 123 112 }, f 63 60 = 0 && f 127 124 = 0)
  | 0x44 => (.fold { src := f 47 32, dst := f 63 48, tag := f 75 64 }, f 127 76 = 0)
  | 0x50 => (.loop { body := f 39 32, count := f 63 40, rs := sext 16 (f 79 64), es := sext 32 (f 111 80) }, f 31 8 = 0 && f 127 112 = 0)
  | 0x51 => (.jump (sext 32 (f 63 32)), f 31 8 = 0 && f 127 64 = 0)
  | 0x52 => (.event { code := f 47 32, data := BitVec.ofNat 64 (f 127 64) }, f 63 48 = 0)
  | 0x53 => (.halt (f 47 32), f 31 8 = 0 && f 127 48 = 0)
  | op => (.illegal op, true)

/-- The opcode of an order (07 R208). -/
def Order.opcode : Order → Nat
  | .fetch _ => 0x01
  | .store _ => 0x02
  | .copyShelf _ | .copyToSeam _ | .copyFromSeam _ | .copyConvert _ => 0x03
  | .loadw _ | .loadwMask _ => 0x10
  | .press _ | .pressCompacted _ => 0x11
  | .compactCount _ | .compactPlan _ | .compactStream _ | .compactCompress _ => 0x20
  | .merge _ => 0x21
  | .sort _ => 0x22
  | .scan _ => 0x23
  | .vec _ | .softmaxForward _ | .softmaxBackward _ | .normForward _ | .normBackward _ => 0x24
  | .size _ => 0x25
  | .quant _ => 0x26
  | .stat _ => 0x27
  | .update _ => 0x28
  | .digest _ => 0x29
  | .signal _ => 0x30
  | .wait _ => 0x31
  | .fence _ => 0x32
  | .send _ => 0x40
  | .recv _ => 0x41
  | .reduce _ => 0x42
  | .exchange _ => 0x43
  | .fold _ => 0x44
  | .loop _ => 0x50
  | .jump _ => 0x51
  | .event _ => 0x52
  | .halt _ => 0x53
  | .illegal op => op

/-- The units of 07 R195; decode runs LOOP, JUMP and HALT. -/
inductive UnitName where
  | mover | mangle (quad : Nat) | gather | merge | sort | vector | stat | digest | crossing | sequencer | decode
  deriving DecidableEq, Repr

/-- The unit that runs an order (07 R195). -/
def Order.runsOn : Order → UnitName
  | .fetch _ | .store _ | .copyShelf _ | .copyToSeam _ | .copyFromSeam _ => .mover
  | .loadw o => .mangle o.quad
  | .loadwMask _ => .mangle 0
  | .press o | .pressCompacted o => .mangle o.quad
  | .compactCount _ | .compactPlan _ | .compactStream _ | .compactCompress _ => .gather
  | .merge _ => .merge
  | .sort _ | .scan _ => .sort
  | .vec _ | .softmaxForward _ | .softmaxBackward _ | .normForward _ | .normBackward _ => .vector
  | .size _ | .quant _ | .update _ | .copyConvert _ => .vector
  | .stat _ => .stat
  | .digest _ => .digest
  | .send _ | .recv _ | .reduce _ | .exchange _ | .fold _ => .crossing
  | .signal _ | .wait _ | .fence _ | .event _ => .sequencer
  | .loop _ | .jump _ | .halt _ | .illegal _ => .decode

/-- Slots of a unit (07 R195). -/
def UnitName.slots : UnitName → Nat
  | .mover => 16
  | .crossing => 8
  | .sequencer => 1
  | _ => 4

/-- The descriptors that an order names (07 R209, R214, R216, R217, R225, R227, R231, R232). -/
def Order.descs : Order → List Nat
  | .fetch o | .store o => [o.desc]
  | .compactCount o | .compactPlan o | .compactStream o | .compactCompress o => [o.desc]
  | .merge o => if o.dense then [o.desc] else []
  | .sort o => if o.mem then [o.src, o.dst] else []
  | .update o => [o.desc]
  | .digest o => [o.desc]
  | .reduce o => if o.mode = 2 then [o.rdesc] else []
  | .fold o => [o.src, o.dst]
  | _ => []

/-- Orders whose own lines go to memory: FETCH, STORE, SORT from memory, the residue of a one-bit REDUCE, and the lines
of a FOLD that are homed here. -/
def Order.usesMemory : Order → Bool
  | .fetch _ | .store _ | .fold _ => true
  | .sort o => o.mem
  | .reduce o => o.mode = 2
  | _ => false

/-- Whether an issued order that has not run has memory requests outstanding: its own lines, or the fill of a descriptor
that the cache does not hold (07 R190; 08 R241). -/
def Bench.asksMemory (x : Bench) (i : InFlight) : Bool :=
  !i.ran && (Order.usesMemory i.dec.body || (!i.started && (Order.descs i.dec.body).any fun d => x.dcache.all fun c => c.1 ≠ d))

/-- Whether an order that has run awaits the counter adds of its out-of-bounds events (08 R245). -/
def Bench.adds (x : Bench) (i : InFlight) : Bool := i.ran && x.oobBase ≠ 0 && !i.oob.isEmpty

/-! Loop adjustment (07 R207) -/

/-- A row field plus the loop sum; none when it leaves 0 to 16,383. -/
def adjRow (d : Int) (r : Nat) : Option Nat :=
  let v := (r : Int) + d
  if v < 0 || v > 16383 then none else some v.toNat

/-- Adjusts a row that the form uses; an unused field stays as it stands. -/
def adjIf (used : Bool) (d : Int) (r : Nat) : Option Nat := if used then adjRow d r else some r

/-- Which of the operands B and C an element-form operation has (07 R219, R220). -/
def vecUsesB (op : Nat) : Bool := op ≤ 6 || op = 0x12 || op = 0x14 || op = 0x15 || op = 0x16
def vecUsesC (op : Nat) : Bool := op = 4
def vecIsSum (op : Nat) : Bool := op = 0x11 || op = 0x12

/-- Adds the loop sums to every row field and OFFSET of an order: the order, or fault 0x06 or 0x03. -/
def Order.adjust (rs es : Int) (o : Order) : Except Nat Order :=
  let rowsOr (r : Option Order) : Except Nat Order := match r with | some x => .ok x | none => .error 0x06
  let move (mk : MoveOp → Order) (o : MoveOp) : Except Nat Order :=
    match adjRow rs o.row with
    | none => .error 0x06
    | some r =>
      let v := (o.offset : Int) + es
      if v < 0 || v ≥ 2 ^ 32 then .error 0x03 else .ok (mk { o with row := r, offset := v.toNat })
  let fused (mk : FusedOp → Order) (norm back : Bool) (o : FusedOp) : Except Nat Order := rowsOr do
    let x ← adjRow rs o.xRow
    let y ← adjIf back rs o.dyRow
    let p ← adjIf norm rs o.pRow
    let d ← adjRow rs o.dRow
    pure (mk { o with xRow := x, dyRow := y, pRow := p, dRow := d })
  match o with
  | .fetch o => move .fetch o
  | .store o => move .store o
  | .copyShelf o => rowsOr do
    let a ← adjRow rs o.srcRow
    let b ← adjRow rs o.dstRow
    pure (.copyShelf { o with srcRow := a, dstRow := b })
  | .copyToSeam o => rowsOr do
    let a ← adjRow rs o.srcRow
    pure (.copyToSeam { o with srcRow := a })
  | .copyFromSeam o => rowsOr do
    let b ← adjRow rs o.dstRow
    pure (.copyFromSeam { o with dstRow := b })
  | .copyConvert o => rowsOr do
    let a ← adjRow rs o.srcRow
    let b ← adjRow rs o.dstRow
    pure (.copyConvert { o with srcRow := a, dstRow := b })
  | .loadw o => rowsOr do
    let a ← adjRow rs o.row
    pure (.loadw { o with row := a })
  | .press o => rowsOr do
    let a ← adjRow rs o.arow
    let b ← adjIf (!o.dest) rs o.orow
    let c ← adjIf (o.pin = 2) rs o.prow
    pure (.press { o with arow := a, orow := b, prow := c })
  | .pressCompacted o => rowsOr do
    let b ← adjRow rs o.orow
    pure (.pressCompacted { o with orow := b })
  | .compactCount o => rowsOr do
    let a ← adjRow rs o.listRow
    let c ← adjRow rs o.outRow
    pure (.compactCount { o with listRow := a, outRow := c })
  | .compactPlan o => rowsOr do
    let a ← adjRow rs o.listRow
    let b ← adjIf o.orderEn rs o.auxRow
    let c ← adjRow rs o.outRow
    pure (.compactPlan { o with listRow := a, auxRow := b, outRow := c })
  | .compactStream o => rowsOr do
    let a ← adjRow rs o.listRow
    let b ← adjRow rs o.auxRow
    pure (.compactStream { o with listRow := a, auxRow := b })
  | .compactCompress o => rowsOr do
    let a ← adjRow rs o.listRow
    let b ← adjRow rs o.auxRow
    let c ← adjRow rs o.outRow
    pure (.compactCompress { o with listRow := a, auxRow := b, outRow := c })
  | .merge o => rowsOr do
    let a ← adjRow rs o.srcRow
    let b ← adjIf o.plan rs o.runBase
    let c ← adjRow rs o.outRow
    pure (.merge { o with srcRow := a, runBase := b, outRow := c })
  | .sort o => rowsOr do
    let a ← adjIf (!o.mem) rs o.src
    let b ← adjIf (!o.mem) rs o.dst
    let c ← adjIf (!o.mem) rs o.scratchRow
    let d ← adjIf o.hist rs o.histRow
    pure (.sort { o with src := a, dst := b, scratchRow := c, histRow := d })
  | .scan o => rowsOr do
    let a ← adjRow rs o.srcRow
    let b ← adjRow rs o.dstRow
    let c ← adjRow rs o.totalRow
    pure (.scan { o with srcRow := a, dstRow := b, totalRow := c })
  | .vec o => rowsOr do
    let a ← adjRow rs o.aRow
    let b ← adjIf (vecUsesB o.op) rs o.bRow
    let c ← adjIf (vecUsesC o.op) rs o.cRow
    let d ← adjRow rs o.dRow
    pure (.vec { o with aRow := a, bRow := b, cRow := c, dRow := d })
  | .softmaxForward o => fused .softmaxForward false false o
  | .softmaxBackward o => fused .softmaxBackward false true o
  | .normForward o => fused .normForward true false o
  | .normBackward o => fused .normBackward true true o
  | .size o => rowsOr do
    let a ← adjRow rs o.srcRow
    let b ← adjIf o.last rs o.outRow
    pure (.size { o with srcRow := a, outRow := b })
  | .quant o => rowsOr do
    let a ← adjRow rs o.srcRow
    let b ← adjRow rs o.tRow
    let c ← adjRow rs o.outRow
    let d ← adjIf (o.ofmt ≠ 0xB) rs o.scaleRow
    pure (.quant { o with srcRow := a, tRow := b, outRow := c, scaleRow := d })
  | .stat o => rowsOr do
    let a ← adjRow rs o.outRow
    pure (.stat { o with outRow := a })
  | .update o => rowsOr do
    let a ← adjRow rs o.stateRow
    let b ← adjRow rs o.gRow
    let c ← adjRow rs o.pRow
    pure (.update { o with stateRow := a, gRow := b, pRow := c })
  | .digest o => rowsOr do
    let a ← adjRow rs o.srcRow
    let b ← adjIf o.last rs o.outRow
    pure (.digest { o with srcRow := a, outRow := b })
  | .send o => rowsOr do
    let a ← adjRow rs o.row
    pure (.send { o with row := a })
  | .recv o => rowsOr do
    let a ← adjRow rs o.row
    pure (.recv { o with row := a })
  | .reduce o => rowsOr do
    let a ← adjRow rs o.srcRow
    let b ← adjRow rs o.dstRow
    pure (.reduce { o with srcRow := a, dstRow := b })
  | .exchange o => rowsOr do
    let a ← adjRow rs o.dispRow
    let b ← adjRow rs o.srcRow
    let c ← adjRow rs o.dstRow
    let d ← adjRow rs o.peerRow
    pure (.exchange { o with dispRow := a, srcRow := b, dstRow := c, peerRow := d })
  | o => .ok o

/-! Legal field values (07 R235) -/

/-- The first of several checks that fails. -/
def firstFault : List (Bool × Nat) → Option Nat
  | [] => none
  | (c, f) :: cs => if c then some f else firstFault cs

/-- What the checks of an order look at besides its fields: quadrant mode (03 R84), the benches of the
partition, the connected seam ends, the module section's dimensions, and the trees. -/
structure CheckCtx where
  quad : Bool := false
  nBenches : Nat := 0
  outEnds : List Nat := []
  inEnds : List Nat := []
  geo : ModSection := {}
  trees : List TreeRec := []
  forceExact : Bool := false

/-- A peer word (07 R229). -/
def peerBad (g : ModSection) (p : Nat) : Bool := bits p 31 25 ≠ 0 || !coordOk g (p % 2 ^ 18)

def isOneOf (n : Nat) (xs : List Nat) : Bool := xs.contains n

/-- The order fault that an order's own fields raise (07 R235); none for a legal order. -/
def Order.check (c : CheckCtx) (o : Order) : Option Nat :=
  let outFmts := [0x0, 0x1, 0x3, 0x4, 0x5]
  let fused (norm back : Bool) (o : FusedOp) : Option Nat :=
    firstFault [(!norm && o.rms, 0x03), (o.nlen > 32768, 0x03), (!back && o.dyRow ≠ 0, 0x03)]
  let compact (mode : Nat) (o : CompactOp) : Option Nat :=
    firstFault [(mode ≠ 1 && o.pack ≠ 0, 0x03), (o.pack = 3, 0x03), (mode ≠ 2 && o.sid ≠ 0, 0x03), (mode ≠ 2 && o.afmt ≠ 0, 0x03),
      (mode ≠ 1 && o.orderEn, 0x03), (mode = 0 && o.auxRow ≠ 0, 0x03), (mode = 2 && o.outRow ≠ 0, 0x03),
      (o.pack = 2 && c.quad, 0x03), (mode = 2 && !isOneOf o.afmt [0x1, 0x3, 0x4, 0x6, 0x7, 0x8, 0x9, 0xA], 0x04)]
  match o with
  | .fetch _ | .store _ => none
  | .copyShelf o =>
    firstFault [(o.sfmt ≠ 0 || o.dfmt ≠ 0 || o.sr, 0x03), (o.rows > 16384, 0x03),
      (o.rows ≠ 0 && !(o.srcRow + o.rows ≤ o.dstRow || o.dstRow + o.rows ≤ o.srcRow), 0x03)]
  | .copyToSeam o =>
    firstFault [(o.sfmt ≠ 0 || o.dfmt ≠ 0 || o.sr || o.dstRow ≠ 0, 0x03), (o.rows > 16384, 0x03), (!c.outEnds.contains o.seamEnd, 0x03)]
  | .copyFromSeam o =>
    firstFault [(o.sfmt ≠ 0 || o.dfmt ≠ 0 || o.sr || o.srcRow ≠ 0, 0x03), (o.rows > 16384, 0x03), (!c.inEnds.contains o.seamEnd, 0x03)]
  | .copyConvert o =>
    let bad (k : Nat) : Bool := match Fmt.ofCode k with | some f => f.isMx | none => true
    firstFault [(o.rows > 16384, 0x03), (bad o.sfmt || bad o.dfmt, 0x04)]
  | .loadw o =>
    firstFault [(!c.quad && o.quad ≠ 0, 0x03), (!isOneOf o.fmt [0x1, 0x3, 0x4, 0x6, 0x7, 0x8, 0x9, 0xA], 0x04),
      (o.two8 && !isOneOf o.fmt [0x3, 0x4, 0x6, 0x7], 0x04)]
  | .loadwMask o => firstFault [(o.tail > 128, 0x03)]
  | .press o =>
    firstFault [(!c.quad && o.quad ≠ 0, 0x03), (!isOneOf o.afmt [0x1, 0x3, 0x4, 0x6, 0x7, 0x8, 0x9, 0xA], 0x04), (o.pin = 3, 0x04), (!o.dest && !isOneOf o.ofmt outFmts, 0x04),
      (o.dest && o.orow ≠ 0, 0x03), (o.pin ≠ 2 && o.prow ≠ 0, 0x03)]
  | .pressCompacted o =>
    firstFault [(o.arow / 4 ≠ 0 || o.n ≠ 0 || o.pin ≠ 0 || o.prow ≠ 0 || o.dest, 0x03), (o.ofmt ≠ 5, 0x04),
      (!c.quad && o.quad ≠ 0, 0x03)]
  | .compactCount o => compact 0 o
  | .compactPlan o => compact 1 o
  | .compactStream o => compact 2 o
  | .compactCompress o => compact 3 o
  | .merge o =>
    firstFault [(o.dense && !isOneOf o.ofmt outFmts, 0x04), (!o.dense && o.ofmt ≠ 5, 0x04), (!o.dense && (o.sr || o.desc ≠ 0 || o.row0 ≠ 0), 0x03),
      (o.plan && o.nrm1 ≠ 0, 0x03), (!o.plan && o.runBase ≠ 0, 0x03)]
  | .sort o =>
    firstFault [(o.ktype && o.kb ≠ 3, 0x0F), (o.hist && o.kb > 1, 0x0F), (o.n > 4194304, 0x03), (o.mem && o.scratchRow ≠ 0, 0x03),
      (!o.hist && o.histRow ≠ 0, 0x03), (!o.mem && (o.src > 16383 || o.dst > 16383), 0x06)]
  | .scan o => firstFault [(o.typ = 3, 0x03)]
  | .vec o =>
    let int := 0x14 ≤ o.op && o.op ≤ 0x16
    firstFault [(o.op > 0x16, 0x03),
      (!(if int then isOneOf o.ifmt [0xC, 0xD] else o.ifmt ≤ 5), 0x04),
      (!(o.ofmt ≤ 5 || isOneOf o.ofmt [0xB, 0xC, 0xD]), 0x04),
      (o.sr && !isOneOf o.op [0, 1, 2, 3, 0x13], 0x0F),
      (!vecUsesB o.op && o.bRow ≠ 0, 0x03),
      (!vecUsesC o.op && !vecIsSum o.op && o.cRow ≠ 0, 0x03)]
  | .softmaxForward o => fused false false o
  | .softmaxBackward o => fused false true o
  | .normForward o => fused true false o
  | .normBackward o => fused true true o
  | .size o => firstFault [(o.ifmt > 5, 0x04), (!o.last && o.outRow ≠ 0, 0x03)]
  | .quant o =>
    firstFault [(!(6 ≤ o.ofmt && o.ofmt ≤ 0xB), 0x04), (o.ofmt ≠ 0xB && o.n % 32 ≠ 0, 0x0F), (o.ofmt = 0xB && o.scaleRow ≠ 0, 0x03)]
  | .stat _ => none
  | .update _ => none
  | .digest o => firstFault [(!o.last && o.bytes % 128 ≠ 0, 0x03), (!o.last && o.outRow ≠ 0, 0x03)]
  | .signal o => firstFault [(o.bench ≥ c.nBenches, 0x0B)]
  | .wait _ => none
  | .fence _ => none
  | .send o => firstFault [(o.rows > 16384, 0x03), (peerBad c.geo o.peer.toNat, 0x03)]
  | .recv o => firstFault [(o.rows > 16384, 0x03), (peerBad c.geo o.peer.toNat, 0x03)]
  | .reduce o =>
    let t := c.trees.find? fun t => t.id = o.tree
    firstFault [(o.mode = 3, 0x03), (t.isNone, 0x0C), (match t with | some t => !bit t.modes o.mode | none => true, 0x0C),
      (o.mode ≠ 2 && o.rdesc ≠ 0, 0x03), (o.mode = 2 && o.n % 32 ≠ 0, 0x03)]
  | .exchange o => firstFault [(o.peers = 0, 0x03), (o.tokq = 0 || o.tokq > 128, 0x03)]
  | .fold _ => none
  | .loop o => firstFault [(o.body = 0, 0x09)]
  | .jump _ => none
  | .event _ => none
  | .halt _ => none
  | .illegal op => some (if op = 0x03 then 0x03 else 0x01)

/-- How many draws an order takes (04 R119): one for each element it emits with stochastic rounding, none
for FP48 or the till. `press` and `region` give the counts of a PRESS and of a dense MERGE. -/
def Order.draws (press region : Nat) (o : Order) : Nat :=
  match o with
  | .press _ => press
  | .merge o => if o.sr && o.dense && o.ofmt ≠ 5 then region else 0
  | .vec o =>
    let seg := if o.cRow = 0 then o.n else o.cRow
    let n := if vecIsSum o.op then (if o.n = 0 then 0 else ceilDiv o.n seg) else o.n
    if !o.sr || o.ofmt = 5 then 0 else n
  | .copyConvert o =>
    match Fmt.ofCode o.sfmt with
    | some f => if o.sr && o.dfmt ≠ 5 then o.rows * (4096 / f.width) else 0
    | none => 0
  | .quant o => if o.sr then o.n else 0
  | _ => 0

end Sys2Proof.Machine
end

