-- ==== Sys2Proof/Machine/Mover.lean ====
section
/-! DEFINITION. The orders of the mover: FETCH and STORE (07 R209), COPY to and from seams (07 R202) and
between rows (07 R210). -/

namespace Sys2Proof.Machine

open Sys2Proof

/-- Bytes with their stain. -/
abbrev Marked := List (Byte × Bool)

/-- Cuts a marked stream into rows of `k` bytes, each padded with zeros to 512 bytes, with the marks of its
eight segments (11 R314). -/
def rowsOf (k : Nat) : Nat → Marked → List (List Byte × List Bool)
  | 0, _ => []
  | n + 1, bs =>
    let here := bs.take k
    let seg := (List.range 8).map fun g => ((here.drop (64 * g)).take 64).any (·.2)
    (sliceAt (here.map (·.1)) 0 512, seg) :: rowsOf k n (bs.drop k)

/-- Writes consecutive rows. -/
def Bench.putAll (x : Bench) : Nat → List (List Byte × List Bool) → Bench
  | _, [] => x
  | row, r :: rs => Bench.putAll (x.putRow row r.1 r.2) (row + 1) rs

/-- The first `k` bytes of each of `n` rows, marked. -/
def Bench.takeRows (x : Bench) (k : Nat) : Nat → Nat → Marked
  | 0, _ => []
  | n + 1, row =>
    let st := x.rowStain row
    let bs := ((x.getRow row).take k).zipIdx.map fun c => (c.1, st.getD (c.2 / 64) false)
    bs ++ Bench.takeRows x k n (row + 1)

/-- What FETCH and STORE move at a time: one element, one MX block of 32 elements (R240: always whole, in
bounds as one), or one block scale. -/
structure MoveUnit where
  desc : Nat
  d : TDesc
  owner : Option TDesc
  f : Fmt
  scales : Bool

/-- Bytes of a unit. -/
def MoveUnit.bytes (u : MoveUnit) : Nat := if u.scales then 1 else unitBytes u.f

/-- Elements from one unit to the next. -/
def MoveUnit.step (u : MoveUnit) : Nat := if u.f.isMx then 32 else 1

/-- Out-of-bounds events of a unit: one an element, one a scale (R243). -/
def MoveUnit.events (u : MoveUnit) : Nat := if u.f.isMx && !u.scales then 32 else 1

/-- What a unit out of bounds reads (R243): the fill value in the format's width, or 0x7F. -/
def MoveUnit.fill (u : MoveUnit) (w : Work) : List Byte :=
  if u.scales then [0x7F]
  else leBytes u.bytes (packBits u.f.width (List.replicate u.step (w.fillOf u.d u.f.width)))

/-- The address of a unit, the element or block at an index. -/
def MoveUnit.at_ (u : MoveUnit) (idx : Nat) (w : Work) : Loc × Work :=
  let (l, w) := w.locateIdx u.desc u.d u.owner u.f idx
  ({ l with addr := if u.scales && l.inb then l.saddr else l.addr }, w)

/-- Reads `n` units from index `idx` on. -/
def MoveUnit.fetch (u : MoveUnit) : Nat → Nat → Work → Marked × Work
  | 0, _, w => ([], w)
  | n + 1, idx, w =>
    let (l, w) := u.at_ idx w
    let (bs, w) : Marked × Work :=
      if l.inb then
        let (b, st, w) := Work.readMem u.desc u.bytes l.addr w
        (b.map fun c => (c, st), w)
      else ((u.fill w).map fun c => (c, false), { w with rbuf := none }.oobEvent u.desc u.d false l.addr u.events)
    if !w.ok then ([], w)
    else
      let (rest, w) := MoveUnit.fetch u n (idx + u.step) w
      (bs ++ rest, w)

/-- Writes `n` units from index `idx` on; a write out of bounds is dropped (R243). -/
def MoveUnit.store (u : MoveUnit) : Nat → Nat → Marked → Work → Work
  | 0, _, _, w => w.flush u.desc
  | n + 1, idx, bs, w =>
    let (l, w) := u.at_ idx w
    let here := bs.take u.bytes
    let w :=
      if l.inb then Work.writeMem u.desc (here.any (·.2)) (here.map (·.1)) l.addr w
      else (w.flush u.desc).oobEvent u.desc u.d true l.addr u.events
    if !w.ok then w else MoveUnit.store u n (idx + u.step) (bs.drop u.bytes) w

/-- ROWQ, where 0 stands for 128 (R209). -/
def rowqOf (o : MoveOp) : Nat := if o.rowq = 0 then 128 else o.rowq

/-- The units of a FETCH or STORE, their number and the rows they take, after the checks of R209 and
R240. -/
def Work.moveSetup (w : Work) (o : MoveOp) : MoveUnit × Nat × Nat × Work :=
  let (d, own, w) := w.desc o.desc
  let f := (Fmt.ofCode d.fmt).getD .fp32
  let u : MoveUnit := { desc := o.desc, d := d, owner := own, f := f, scales := o.part }
  let width := if o.part then 8 else f.width
  let n := o.count / u.step
  let rows := ceilDiv (n * u.bytes) (4 * rowqOf o)
  let w := (w.failWhen (o.part && !f.isMx) 0x03).failWhen (f.isMx && (o.offset % 32 ≠ 0 || o.count % 32 ≠ 0)) 0x03
  let w := (w.failWhen (32 * rowqOf o % width ≠ 0) 0x03).rowsOk o.row rows
  (u, n, rows, w)

/-- FETCH (R209): elements or block scales into rows, 4 × ROWQ bytes to a row; a stained line faults on
arrival under STAIN_POLICY 0x01 or STAIN_ARRIVE (R83, R251). -/
def Work.fetchOp (o : MoveOp) (w : Work) : Work :=
  let (u, n, rows, w) := w.moveSetup o
  if !w.ok then w
  else
    let (bs, w) := u.fetch n o.offset { w with rbuf := none }
    if !w.ok then w
    else
      let w := { w with x := w.x.putAll o.row (rowsOf (4 * rowqOf o) rows bs), rbuf := none }
      w.failWhen ((w.pt.hdr.stainPolicy = 1 || u.d.stainArrive) && bs.any (·.2)) 0x24

/-- STORE (R209): the same layout from rows to the tensor; the stain of a segment goes with its bytes. -/
def Work.storeOp (o : MoveOp) (w : Work) : Work :=
  let (u, n, rows, w) := w.moveSetup o
  if !w.ok then w else u.store n o.offset (w.x.takeRows (4 * rowqOf o) rows o.row) { w with rbuf := none, wbuf := none }

/-- COPY mode 0 (R210): whole rows with their stain bits. -/
def Work.copyShelfOp (o : CopyOp) (w : Work) : Work :=
  let w := (w.rowsOk o.srcRow o.rows).rowsOk o.dstRow o.rows
  if !w.ok then w
  else
    let x := (List.range o.rows).foldl
      (fun x i => x.putRow (o.dstRow + i) (w.x.getRow (o.srcRow + i)) (w.x.rowStain (o.srcRow + i))) w.x
    { w with x := x }

/-- Converts elements one by one, each with one rounding and, with SR, one draw (R210; 04 R119). -/
def Work.convertAll (sf df : Fmt) (sr : Bool) : List (Nat × Bool) → Work → List (Nat × Bool) × Work
  | [], w => ([], w)
  | (e, st) :: es, w =>
    let (d, w) : Option Nat × Work :=
      if sr && df != .fp48 then let (d, w) := w.draw; (some d, w) else (none, w)
    let (v, fl) := df.conv (sf.val e) d
    let (rest, w) := Work.convertAll sf df sr es (w.addFlags fl)
    ((v, st) :: rest, w)

/-- COPY mode 3 (R210). -/
def Work.copyConvertOp (o : CopyOp) (w : Work) : Work :=
  match Fmt.ofCode o.sfmt, Fmt.ofCode o.dfmt with
  | some sf, some df =>
    let n := o.rows * (4096 / sf.width)
    let w := (w.rowsOk o.srcRow o.rows).rowsOk o.dstRow (packedRows df.width n)
    if !w.ok then w
    else
      let (es, w) := Work.convertAll sf df o.sr (w.x.packed sf.width o.srcRow n) w
      w.putPacked df.width o.dstRow es
  | _, _ => w.fail 0x04

/-- The rows that COPY mode 1 hands to its seam (R202). -/
def Bench.seamRows (x : Bench) (row n : Nat) : List SeamRow :=
  (List.range n).map fun i => { bytes := x.getRow (row + i), stain := x.rowStain (row + i) }

end Sys2Proof.Machine
end

