-- ==== Sys2Proof/Machine/Mangle.lean ====
section
/-! DEFINITION. The mangle: weight tiles and LOADW (05 R139 to R141, R174), masks (05 R144), the cells (04
R113, R114; 06 R175), the till (05 R137) and PRESS (07 R212; 05 R135, R138). -/

namespace Sys2Proof.Machine

open Sys2Proof

/-- Elements of the K-block of one cell (05 R131); a two-in-eight cell spans 64 (06 R174). -/
def cellK (f : Fmt) (two8 : Bool) : Nat :=
  if two8 then 64
  else match f with
    | .mxE3m2 | .mxE2m3 => 64
    | .mxE2m1 => 128
    | _ => 32

/-- Bytes of one cell's weights: k elements, or the 24 bytes of a two-in-eight cell. -/
def cellBytes (f : Fmt) (two8 : Bool) : Nat := if two8 then 24 else cellK f false * f.width / 8

/-- Bytes of one K-block of an activation vector. -/
def pieceBytes (f : Fmt) (two8 : Bool) : Nat := cellK f two8 * f.width / 8

/-- Block scales of one cell. -/
def cellScales (f : Fmt) (two8 : Bool) : Nat := if f.isMx then cellK f two8 / 32 else 0

/-- Rows or columns of the grid, or of a quadrant (05 R142). -/
def Bench.side (x : Bench) : Nat := if x.quad then 16 else 32

/-- The place of a tile among the eight of a bench. -/
def tileAt (quad : Nat) (b : Bool) : Nat := 2 * quad + b2n b

/-- The families of the pairings of R111. -/
def pairGroup : Fmt → Nat
  | .e4m3 | .e5m2 => 1
  | .mxE4m3 | .mxE5m2 => 2
  | .mxE3m2 | .mxE2m3 => 3
  | .mxE2m1 => 4
  | .bf16 => 5
  | _ => 0

def pairs (a b : Fmt) : Bool := pairGroup a ≠ 0 && pairGroup a = pairGroup b

/-! LOADW -/

/-- LOADW, weight form (R139): cells' slices, then block scales; a stained row stains the tile (R141). -/
def Work.loadwOp (o : LoadwOp) (w : Work) : Work :=
  match Fmt.ofCode o.fmt with
  | none => w.fail 0x04
  | some f =>
    let cells := w.x.side * w.x.side
    let wb := cells * cellBytes f o.two8
    let sb := cells * cellScales f o.two8
    let wrows := ceilDiv wb 512
    let srows := ceilDiv sb 512
    let w := w.rowsOk o.row (wrows + srows)
    if !w.ok then w
    else
      let t : WTile := {
        fmt := some f, two8 := o.two8, data := w.x.shelfRead (512 * o.row) wb
        scales := w.x.shelfRead (512 * (o.row + wrows)) sb
        stained := w.x.shelfStained (512 * o.row) (512 * (wrows + srows)), row := some o.row }
      { w with x := { w.x with tiles := w.x.tiles.set (tileAt o.quad o.tile) t } }

/-- LOADW, mask form (R144, R211). -/
def Work.loadwMaskOp (o : MaskOp) (w : Work) : Work :=
  { w with x := { w.x with
    masks := w.x.masks.set o.m { rows := o.rowMask, cols := o.colMask, tail := BitVec.ofNat 8 o.tail } } }

/-! Cells -/

/-- One element with its block scale: NaN in a NaN block (04 R106). -/
def scaled (f : Fmt) (e : Nat) (scale : Nat) : Val :=
  if f.isMx then (match scaleExp scale with | some k => (f.val e).shift k | none => .nan) else f.val e

/-- Element `i` of packed elements of width `w`. -/
def elemAt (w i : Nat) (packed : Nat) : Nat := packed / 2 ^ (w * i) % 2 ^ w

/-- The `k` weights that meet activation elements 0 to k − 1 of a cell, each with the position of the
activation element it multiplies: its own, or the indexed one of a two-in-eight entry (06 R175). An unfilled
tile holds zeros (07 R212). -/
def WTile.cellWeights (t : WTile) (cell : Nat) : List (Val × Nat) :=
  match t.fmt with
  | none => []
  | some f =>
    let bytes := cellBytes f t.two8
    let sc := cellScales f t.two8
    let d := leAt t.data (bytes * cell) bytes
    if t.two8 then
      (List.range 16).map fun e =>
        let g := e / 2
        (scaled f (elemAt 8 e d) (byteAt t.scales (sc * cell + g / 4)), 8 * g + d / 2 ^ (128 + 3 * e) % 8)
    else
      (List.range (cellK f false)).map fun i =>
        (scaled f (elemAt f.width i d) (byteAt t.scales (sc * cell + i / 32)), i)

/-- A product of two operands with its flags (04 R113, R116). -/
def prod (a b : Val) : Val × Flags := vMul a b

/-- A cell: the exact sum of the products and the incoming sum, rounded once to FP48 (04 R113). -/
def cellSum (pin : Nat) (ps : List (Val × Flags)) : Nat × Flags :=
  let p := val48 pin
  let fl := ps.foldl (fun a q => fOr a q.2) (if p.isNan then fNanIn else {})
  let vs := p :: ps.map (·.1)
  if vs.any Val.isNan then (sFP48.nan, fl)
  else
    let (v, g) := exactSum vs
    rnd sFP48 v (fOr fl g)

/-- The valid lane elements of each row of a press: 0 for a masked row, the K tail in the highest unmasked
row, k elsewhere (05 R144). -/
def validOf (n k tail : Nat) (masked : Nat → Bool) : List Nat :=
  let top := (List.range n).foldl (fun a r => if masked r then a else some r) (none : Option Nat)
  (List.range n).map fun r =>
    if masked r then 0 else if 0 < tail && tail < k && top = some r then tail else k

/-- The exact +0 of a masked element (05 R145). -/
def plusZero : Val × Flags := (.fin false 0 0, {})

/-- The products of a forward cell; elements past `valid` are masked. -/
def cellProducts (ws : List (Val × Nat)) (k valid : Nat) (act : List Val) : List (Val × Flags) :=
  if valid = 0 then [plusZero]
  else if ws.isEmpty then
    (act.take valid).map (fun a => prod .zero a) ++ (if valid < k then [plusZero] else [])
  else ws.map fun w => if w.2 < valid then prod w.1 (act.getD w.2 .zero) else plusZero

/-- A column of cells from the head down: `cells r` gives the products of row r (04 R113, R115), `fix r` what an error in
the addition of the cell makes of its sum. -/
def columnSum (rows : List Nat) (cells : Nat → List (Val × Flags)) (fix : Nat → Nat → Nat) (pin : Nat) : Nat × Flags :=
  rows.foldl (fun a r => let (v, f) := cellSum a.1 (cells r); (fix r v, fOr a.2 f)) (pin, {})

/-! The examiner's images (05 R148) -/

/-- The exponent of mu_f: the smallest subnormal of a format, times 2^-127 for MX elements. -/
def muExp : Fmt → Int
  | .e4m3 => -9
  | .e5m2 => -16
  | .mxE4m3 => -136
  | .mxE5m2 => -143
  | .mxE3m2 => -131
  | .mxE2m3 => -130
  | .mxE2m1 => -128
  | .bf16 => -133
  | _ => 0

/-- The integer image I(x) = x / mu_f of an element's value with its block scale; 0 for a NaN, an infinity and the
elements of a NaN block. -/
def imageOf (f : Fmt) : Val → Int
  | .fin n m e => (if n then -1 else 1) * (m * 2 ^ (e - muExp f).toNat : Nat)
  | _ => 0

/-- res(y): y mod 8,191. -/
def res (y : Int) : Int := y % 8191

/-! The till (05 R137) -/

def tillPut : List (Nat × BitVec 48) → Nat → BitVec 48 → List (Nat × BitVec 48)
  | [], e, v => if v = 0 then [] else [(e, v)]
  | (x, w) :: m, e, v =>
    if e < x then (if v = 0 then (x, w) :: m else (e, v) :: (x, w) :: m)
    else if e = x then (if v = 0 then m else (e, v) :: m)
    else (x, w) :: tillPut m e v

/-- Writes an entry with its mark. -/
def Bench.putTill (x : Bench) (e : Nat) (v : Nat) (st : Bool) : Bench :=
  { x with till := tillPut x.till e (BitVec.ofNat 48 v), tillStain := setPut x.tillStain e st }

def Bench.tillVal (x : Bench) (e : Nat) : Nat :=
  match x.till.find? fun c => c.1 = e with
  | some c => c.2.toNat
  | none => 0

/-- The last till entry that a quadrant, or the whole grid, may name. -/
def tillLimit (quad : Bool) (q : Nat) : Nat × Nat := if quad then (65536 * q, 65536 * q + 65536) else (0, 262144)

/-! PRESS -/

/-- Where the outputs of one direction and width lie (R135): byte offset of output `i` of vector `v`, and the
rows that `nv` vectors take. -/
structure OutLayout where
  fwd : Bool
  per : Nat
  width : Nat

def OutLayout.offset (l : OutLayout) (v i : Nat) : Nat :=
  let vb := l.per * l.width
  if l.fwd then v / (512 / vb) * 512 + v % (512 / vb) * vb + i * l.width else v * vb + i * l.width

def OutLayout.rows (l : OutLayout) (nv : Nat) : Nat :=
  let vb := l.per * l.width
  if l.fwd then ceilDiv nv (512 / vb) else ceilDiv (nv * vb) 512

/-- What a PRESS works on once its fields are resolved, and the errors that strike it. -/
structure PressCtx where
  af : Fmt
  fwd : Bool
  side : Nat
  r0 : Nat
  c0 : Nat
  k : Nat
  two8 : Bool
  tile : WTile
  rowMasked : Nat → Bool
  colMasked : Nat → Bool
  tail : Nat
  errs : List CellError := []
  pair : Option PairError := none

/-- A vector: its bytes in the layout of R135 and its scale bytes, for a gradient vector one for each element. -/
abbrev PVec := List Byte × List Byte

/-- Outputs of one vector. -/
def PressCtx.per (p : PressCtx) : Nat := if p.fwd then p.side else p.side * p.k

def PressCtx.valid (p : PressCtx) : List Nat := validOf p.side p.k p.tail p.rowMasked

/-- The elements of K-block `r` of an activation vector as exact values. -/
def PressCtx.activation (p : PressCtx) (x : PVec) (r : Nat) : List Val :=
  let pb := pieceBytes p.af p.two8
  let sc := cellScales p.af p.two8
  let d := leAt x.1 (pb * r) pb
  (List.range p.k).map fun i => scaled p.af (elemAt p.af.width i d) (byteAt x.2 (sc * r + i / 32))

/-- The K-blocks of an activation vector; a masked row reads none. -/
def PressCtx.acts (p : PressCtx) (x : PVec) : List (List Val) :=
  let valid := p.valid
  (List.range p.side).map fun r => if valid.getD r 0 = 0 then [] else p.activation x r

/-- The elements of a gradient vector as exact values. -/
def PressCtx.grads (p : PressCtx) (x : PVec) : List Val :=
  let d := leNat x.1
  (List.range p.side).map fun c => scaled p.af (elemAt p.af.width c d) (byteAt x.2 c)

/-- Errors of a cell for vector `v`, in units of the accumulator. -/
def PressCtx.deltas (p : PressCtx) (v r c i : Nat) : List Int :=
  (p.errs.filter fun e => e.vec = v && e.row = r && e.col = c && (p.fwd || e.lane = i)).map (·.delta)

/-- The same as exact values: the unit is the product of the two formats' lowest weights (05 R148; 04 R111). -/
def PressCtx.errVals (p : PressCtx) (v r c i : Nat) : List (Val × Flags) :=
  let unit := muExp (p.tile.fmt.getD p.af) + muExp p.af
  (p.deltas v r c i).map fun d => (.fin (d < 0) d.natAbs unit, {})

/-- What the addition of stage `st` gives on the way to output `n`: with its error when one strikes the half that goes
on. -/
def PressCtx.fix (p : PressCtx) (n st v : Nat) : Nat :=
  match p.pair with
  | some e => if e.result = n && e.stage = st && !e.second then Nat.xor v (e.mask % 2 ^ 48) else v
  | none => v

/-- What cell (r, c) adds for forward vector `v`. -/
def PressCtx.cell (p : PressCtx) (v : Nat) (valid : List Nat) (acts : List (List Val)) (c r : Nat) : List (Val × Flags) :=
  cellProducts (p.tile.cellWeights (p.side * r + c)) p.k (valid.getD r 0) (acts.getD r []) ++ p.errVals v r c 0

/-- The forward outputs of vector `v`: for each column its FP48 sum, or none where it is masked. -/
def PressCtx.forward (p : PressCtx) (v : Nat) (x : PVec) (pin : Nat → Nat) : List (Option Nat × Flags) :=
  let valid := p.valid
  let acts := p.acts x
  (List.range p.side).map fun c =>
    if p.colMasked c then (none, {})
    else
      let (s, f) := columnSum (List.range p.side) (p.cell v valid acts c) (p.fix (p.side * v + c)) (pin c)
      (some s, f)

/-- What cell (r, c) adds to lane element `i` of transposed vector `v`. -/
def PressCtx.tcell (p : PressCtx) (v : Nat) (grad : List Val) (r i c : Nat) : List (Val × Flags) :=
  (if p.colMasked c then [plusZero]
   else [prod (((p.tile.cellWeights (p.side * r + c)).getD i (.zero, 0)).1) (grad.getD c .zero)]) ++ p.errVals v r c i

/-- The transposed outputs of vector `v`: row by row its lane elements (04 R114). -/
def PressCtx.transposed (p : PressCtx) (v : Nat) (x : PVec) (pin : Nat → Nat) : List (Option Nat × Flags) :=
  let valid := p.valid
  let grad := p.grads x
  (List.range p.side).flatMap fun r => (List.range p.k).map fun i =>
    if valid.getD r 0 ≤ i then (none, {})
    else
      let (s, f) := columnSum (List.range p.side) (p.tcell v grad r i) (p.fix (p.per * v + p.k * r + i)) (pin (p.k * r + i))
      (some s, f)

/-- The outputs of vector `v` in emission order. -/
def PressCtx.outputs (p : PressCtx) (v : Nat) (x : PVec) (pin : Nat → Nat) : List (Option Nat × Flags) :=
  if p.fwd then p.forward v x pin else p.transposed v x pin

/-- Vectors that one tile presses, the first with its number in the order. -/
structure Pressed where
  p : PressCtx
  vecs : List PVec
  base : Nat := 0

/-- The images of the weights that a cell uses, each with the position of the element that it meets; a masked element
counts as zero (05 R145, R148; 06 R175). -/
def PressCtx.wImages (p : PressCtx) (valid r c : Nat) : List (Int × Nat) :=
  let f := p.tile.fmt.getD p.af
  (p.tile.cellWeights (p.side * r + c)).zipIdx.map fun w =>
    (if (if p.fwd then w.1.2 else w.2) < valid then imageOf f w.1.1 else 0, if p.fwd then w.1.2 else w.2)

/-- The forward check of a column over the vectors of one tile: P and X before their residues (05 R149). -/
def Pressed.column (q : Pressed) (c : Nat) : Int × Int :=
  let p := q.p
  let valid := p.valid
  let acts := q.vecs.map fun x => (p.acts x).map fun k => k.map (imageOf p.af)
  (List.range p.side).foldl (fun (a : Int × Int) r =>
    let ws := p.wImages (valid.getD r 0) r c
    let pred := ws.foldl (fun s w => s + res w.1 * res (acts.foldl (fun t k => t + res ((k.getD r []).getD w.2 0)) 0)) 0
    let got := acts.zipIdx.foldl (fun s k =>
      let acc := ws.foldl (fun t w => t + w.1 * (k.1.getD r []).getD w.2 0) 0
      s + res ((p.deltas (q.base + k.2) r c 0).foldl (· + ·) acc)) 0
    (a.1 + pred, a.2 + got)) (0, 0)

/-- The transposed check of a row (05 R149). -/
def Pressed.row (q : Pressed) (r : Nat) : Int × Int :=
  let p := q.p
  let v := p.valid.getD r 0
  let grads := q.vecs.map fun x => (p.grads x).map (imageOf p.af)
  (List.range p.side).foldl (fun (a : Int × Int) c =>
    let ws := if p.colMasked c then [] else p.wImages v r c
    let g := grads.foldl (fun t x => t + res (x.getD c 0)) 0
    let pred := ws.foldl (fun s w => s + res w.1 * res g) 0
    let got := grads.zipIdx.foldl (fun s x =>
      (List.range p.k).foldl (fun s i =>
        let w := (ws.getD i (0, 0)).1
        s + res ((p.deltas (q.base + x.2) r c i).foldl (· + ·) (w * x.1.getD c 0))) s) 0
    (a.1 + pred, a.2 + got)) (0, 0)

/-- The examiner's check of each unmasked line of a PRESS over all that it presses: the logical line, P and X (05
R149, R150). The lines are those of the first tile; the tiles of one PRESS share them. -/
def examine (qs : List Pressed) : List (Nat × Nat × Nat) :=
  match qs with
  | [] => []
  | q :: _ =>
    let p := q.p
    ((List.range p.side).filter fun l => if p.fwd then !p.colMasked l else qs.any fun q => 0 < q.p.valid.getD l 0).map fun l =>
      let (a, b) := qs.foldl (fun (a : Int × Int) q =>
        let r := if p.fwd then q.column l else q.row l
        (a.1 + r.1, a.2 + r.2)) (0, 0)
      ((if p.fwd then p.c0 else p.r0) + l, (res a).toNat, (res b).toNat)

/-- Bytes of one vector, and the scale bytes of `n` vectors (05 R135). -/
def PressCtx.vecBytes (p : PressCtx) : Nat := if p.fwd then p.side * pieceBytes p.af p.two8 else p.side * p.af.width / 8

def PressCtx.scaleBytes (p : PressCtx) (n : Nat) : Nat :=
  if !p.af.isMx then 0 else if p.fwd then n * (p.side * cellScales p.af p.two8) else ceilDiv (n * p.side) 32

/-- Vector `v` of a plain PRESS whose operand and scale areas start at two byte addresses (05 R135). -/
def PressCtx.vecAt (p : PressCtx) (x : Bench) (base sbase v : Nat) : PVec :=
  let sper := p.side * cellScales p.af p.two8
  (x.shelfRead (base + v * p.vecBytes) p.vecBytes,
    if p.fwd then x.shelfRead (sbase + v * sper) sper
    else if p.af.isMx then (List.range p.side).map fun c => (x.shelfRead (sbase + (v * p.side + c) / 32) 1).getD 0 0
    else [])

/-- The mask register of a PRESS: as the mangle took it when it accepted the order (07 R211). -/
def Work.maskOf (w : Work) (m : Nat) : MaskReg := w.mask.getD (w.x.masks.getD m {})

/-- The fields of a PRESS resolved against its tile and mask register. -/
def Work.pressCtx (w : Work) (o : PressOp) (af : Fmt) : PressCtx :=
  let x := w.x
  let m := w.maskOf o.mask
  let side := x.side
  let r0 := if x.quad then 16 * (o.quad / 2) else 0
  let c0 := if x.quad then 16 * (o.quad % 2) else 0
  let tile := x.tiles.getD (tileAt o.quad o.tile) {}
  { af := af, fwd := !o.dir, side := side, r0 := r0, c0 := c0, k := cellK af tile.two8, two8 := tile.two8, tile := tile
    rowMasked := fun r => m.rows.getLsbD (r0 + r), colMasked := fun c => m.cols.getLsbD (c0 + c), tail := m.tail.toNat
    errs := w.u.cells, pair := w.u.pair }

/-- The two halves of paired logic on a result whose right bits are `good` (14 R390). -/
def pairCompare (e : PairError) (good width : Nat) (ops : List Byte) : Compare :=
  let bad := Nat.xor good (e.mask % 2 ^ width)
  { kind := .paired, code := e.stage, index := e.result
    orig := [if e.second then good else bad], chk := [if e.second then bad else good], ops := ops, right := [good] }

/-- The compare of the addition at stage `e.stage` of a chain of cells: its inputs are the sum that reaches the cell, and the
sum of the cell's products, which the capture gives in FP48. -/
def pairAt (e : PairError) (rows : List Nat) (cells : Nat → List (Val × Flags)) (pin : Nat) : Option Compare :=
  if !rows.contains e.stage then none
  else
    let vin := (columnSum (rows.takeWhile (· ≠ e.stage)) cells (fun _ s => s) pin).1
    some (pairCompare e (cellSum vin (cells e.stage)).1 48 (leBytes 6 vin ++ leBytes 6 (cellSum 0 (cells e.stage)).1))

/-- The compare of the addition that a paired error strikes in vector `v` with incoming sums `pin`. -/
def PressCtx.pairCheck (p : PressCtx) (v : Nat) (x : PVec) (pin : Nat → Nat) (e : PairError) : Option Compare :=
  let j := e.result - p.per * v
  let live := if p.fwd then !p.colMasked j else j % p.k < p.valid.getD (j / p.k) 0
  if e.result < p.per * v || p.per ≤ j || !live then none
  else
    pairAt e (List.range p.side)
      (if p.fwd then p.cell v p.valid (p.acts x) j else p.tcell v (p.grads x) (j / p.k) (j % p.k)) (pin j)

/-- The logical lines that a PRESS of a quadrant or of the grid uses wake (R146). -/
def Bench.wake (x : Bench) (r0 c0 n : Nat) : Bench :=
  let line (i : Nat) : BitVec 32 := BitVec.ofNat 32 ((2 ^ n - 1) * 2 ^ i)
  { x with gatedRows := x.gatedRows &&& ~~~(line r0), gatedCols := x.gatedCols &&& ~~~(line c0) }

/-- Rounds one output into a format, with a draw where SR asks for one; FP48 stays as it is (04 R117, R119). The rounding
stage stands past the `side` cells of its line, and is paired (14 R389). -/
def Work.roundOut (w : Work) (f : Fmt) (sr : Bool) (side n v : Nat) : Nat × Work :=
  if f = .fp48 then (v, w)
  else
    let (d, w) : Option Nat × Work := if sr then (let (d, w) := w.draw; (some d, w)) else (none, w)
    let (b, fl) := f.conv (val48 v) d
    let w := w.addFlags fl
    match w.u.pair with
    | some e =>
      if e.result = n && e.stage = side then
        let w := w.note w.x.pairedEn (pairCompare e b f.width (leBytes 6 v ++ [0, 0]))
        (if e.second then b else Nat.xor b (e.mask % 2 ^ f.width), w)
      else (b, w)
    | none => (b, w)

/-- Rounds the outputs of a PRESS in emission order, the first being output `n`; a masked output stays masked. -/
def Work.roundAll (f : Fmt) (sr : Bool) (side : Nat) : Nat → List (Option Nat × Bool) → Work → List (Option Nat × Bool) × Work
  | _, [], w => ([], w)
  | n, (none, st) :: os, w => let (r, w) := Work.roundAll f sr side (n + 1) os w; ((none, st) :: r, w)
  | n, (some v, st) :: os, w =>
    let (b, w) := w.roundOut f sr side n v
    let (r, w) := Work.roundAll f sr side (n + 1) os w
    ((some b, st) :: r, w)

/-- Puts the bytes of outputs at their places in a zeroed area of rows. -/
def layBytes (rows : Nat) (l : OutLayout) (outs : List (Option Nat × Bool)) : Marked :=
  let cells := outs.zipIdx.map fun c => (l.offset (c.2 / l.per) (c.2 % l.per), c.1)
  (List.range (512 * rows)).map fun a =>
    match cells.find? fun c => c.1 ≤ a && a < c.1 + l.width with
    | some (at_, v, st) => (BitVec.ofNat 8 (v.getD 0 / 2 ^ (8 * (a - at_))), st)
    | none => (0, false)

/-- The rows of a forward vector that hold an unmasked K-block (R135): whether any is stained. -/
def Bench.actStained (x : Bench) (row vin piece v : Nat) (valid : List Nat) : Bool :=
  valid.zipIdx.any fun c =>
    let a := v * vin + piece * c.2
    c.1 ≠ 0 && (x.shelfStained (512 * (row + a / 512)) 512 || x.shelfStained (512 * (row + (a + piece - 1) / 512)) 512)

/-- The checks of a PRESS: the examiner's, one for each line, and the paired addition that an error struck. -/
def Work.pressChecks (w : Work) (qs : List Pressed) (pair : Option Compare) : Work :=
  let w := if w.x.examEn then
      (examine qs).foldl (fun w l => w.note true { kind := .examiner, code := l.1, orig := [l.2.2], chk := [l.2.1] }) w
    else w
  match pair with
  | some c => w.note w.x.pairedEn c
  | none => w

/-- A PRESS of stained operands has written its outputs as stained, and is a consumer of stained data (05 R141; 03
R83). -/
def Work.stainPress (w : Work) (st : Bool) : Work :=
  if !st then w
  else
    let rows := w.outRows.flatMap fun r => (List.range r.2).map (r.1 + ·)
    let ents := w.outTill.flatMap fun r => (List.range r.2).map (r.1 + ·)
    let x := rows.foldl (fun x r => (List.range 8).foldl (fun x g => x.shelfMark (8 * r + g) true) x) w.x
    { w with x := { x with tillStain := ents.foldl setInsert x.tillStain }, wrote := true }.consume true

/-- What a plain PRESS presses. -/
def Work.pressed (w : Work) (o : PressOp) (af : Fmt) : List Pressed :=
  let p := w.pressCtx o af
  let base := 512 * o.arow
  [{ p := p, vecs := (List.range o.n).map (p.vecAt w.x base (base + 512 * ceilDiv (o.n * p.vecBytes) 512)) }]

/-- Steps with a vector in the grid (05 R152). -/
def Work.busySteps (w : Work) : Work :=
  { w with x := { w.x with mgBusySteps := wrapAdd 64 w.x.mgBusySteps (Config.stepsTaken w.m.freeCtr) }
           m := { w.m with freeCtr := w.m.freeCtr + 1 } }

/-- PRESS without CMP (R212). -/
def Work.pressOp (o : PressOp) (w : Work) : Work :=
  match Fmt.ofCode o.afmt, Fmt.ofCode (if o.dest then 5 else o.ofmt) with
  | some af, some out =>
    let p := w.pressCtx o af
    let bad := match p.tile.fmt with | some f => !pairs af f || (p.two8 && !p.fwd) | none => false
    let w := w.failWhen bad 0x04
    if !w.ok || o.n = 0 then w
    else
      let lim := tillLimit w.x.quad o.quad
      let usesTill := o.dest || o.pin = 1
      let w := w.failWhen (usesTill && (o.till < lim.1 || o.till + p.per * o.n > lim.2)) 0x05
      let piece := pieceBytes af p.two8
      let vin := p.vecBytes
      let nin := ceilDiv (o.n * vin) 512
      let srows := ceilDiv (p.scaleBytes o.n) 512
      let pl : OutLayout := { fwd := p.fwd, per := p.per, width := 6 }
      let ol : OutLayout := { fwd := p.fwd, per := p.per, width := out.width / 8 }
      let w := w.rowsOk o.arow (nin + srows)
      let w := if o.pin = 2 then w.rowsOk o.prow (pl.rows o.n) else w
      let w := if o.dest then w else w.rowsOk o.orow (ol.rows o.n)
      if !w.ok then w
      else
        let x := w.x
        let valid := p.valid
        let st := p.tile.stained ||
          (if p.fwd then (List.range o.n).any fun v => x.actStained o.arow vin piece v valid
           else x.shelfStained (512 * o.arow) (512 * nin)) ||
          x.shelfStained (512 * (o.arow + nin)) (512 * srows) ||
          (o.pin = 2 && x.shelfStained (512 * o.prow) (512 * pl.rows o.n))
        let base := 512 * o.arow
        let sbase := base + 512 * nin
        let pin (v i : Nat) : Nat :=
          if o.pin = 1 then x.tillVal (o.till + p.per * v + i)
          else if o.pin = 2 then leNat (x.shelfRead (512 * o.prow + pl.offset v i) 6)
          else 0
        let vec := p.vecAt x base sbase
        let outs : List (Option Nat × Flags) := (List.range o.n).flatMap fun v => p.outputs v (vec v) (pin v)
        let pair := w.u.pair.bind fun e => let v := e.result / p.per; if v < o.n then p.pairCheck v (vec v) (pin v) e else none
        let w := w.pressChecks (w.pressed o af) pair
        let marked : List (Option Nat × Bool) := outs.zipIdx.map fun c =>
          (c.1.1, o.pin = 1 && x.tillStain.contains (o.till + c.2))
        let w := outs.foldl (fun w c => w.addFlags c.2) w
        let x := { x.wake p.r0 p.c0 p.side with mgVectors := wrapAdd 64 x.mgVectors o.n }
        if o.dest then
          Work.stainPress (Work.busySteps { w with
            x := marked.zipIdx.foldl (fun x c => x.putTill (o.till + c.2) (c.1.1.getD 0) c.1.2) x
            outTill := [(o.till, p.per * o.n)], outs := marked.map fun c => c.1.getD 0 }) st
        else
          let (outs, w) := Work.roundAll out o.sr p.side 0 marked w
          Work.stainPress (Work.busySteps { w with
            x := x.putAll o.orow (rowsOf 512 (ol.rows o.n) (layBytes (ol.rows o.n) ol outs))
            outRows := [(o.orow, ol.rows o.n)], outs := outs.map fun c => c.1.getD 0 }) st
  | _, _ => w.fail 0x04

/-- Elements that a PRESS emits with a draw under given mask registers (04 R119): its unmasked outputs, or
none to the till or in FP48. -/
def pressDraws (quad : Bool) (masks : List MaskReg) (o : PressOp) : Nat :=
  let m := masks.getD o.mask {}
  let side := if quad then 16 else 32
  let r0 := if quad then 16 * (o.quad / 2) else 0
  let c0 := if quad then 16 * (o.quad % 2) else 0
  let k := match Fmt.ofCode o.afmt with | some f => cellK f false | none => 0
  let live := ((List.range side).filter fun c => !m.cols.getLsbD (c0 + c)).length
  let valid := validOf side k m.tail.toNat fun r => m.rows.getLsbD (r0 + r)
  if !o.sr || o.dest || o.ofmt = 5 then 0 else o.n * (if o.dir then valid.foldl (· + ·) 0 else live)

end Sys2Proof.Machine
end

