-- ==== Sys2Proof/Machine/Compact.lean ====
section
/-! DEFINITION. The darner's gather and compaction: block lists (06 R154 to R157), plans (06 R160 to R163),
compacted streams and the PRESS that takes them (06 R164 to R169; 07 R213 to R215), and the two-in-eight
form (06 R174 to R176). -/

namespace Sys2Proof.Machine

open Sys2Proof

/-- A darner fault (R188): code, unit, and where it arose. -/
def Work.failDn (w : Work) (code unit row block col group : Nat) : Work :=
  if w.ok then { w with fault := some { code := code, dn := some (unit, row, block, col, group), kind := 0x05 } } else w

/-- Whether any whole row that holds bytes of a range is stained (05 R133: the shelf serves whole rows). -/
def Bench.rowsStained (x : Bench) (a n : Nat) : Bool :=
  n ≠ 0 && x.shelfStained (a / 512 * 512) (((a + n - 1) / 512 - a / 512 + 1) * 512)

/-- A darner unit reads bytes of the shelf: a stained row is consumed (R184). -/
def Work.darnRead (w : Work) (a n : Nat) : Work := w.consume (w.x.rowsStained a n)

/-- A byte range must end within the shelf (07 R207). -/
def Work.bytesOk (w : Work) (a n : Nat) : Work := w.failWhen (a + n > 512 * shelfRows) 0x06

/-- A block list (R155) with the weight format that its descriptor names. -/
structure BList where
  rows : Nat
  blocks : Nat
  kb : Nat
  form : Nat
  ptr : List Nat
  idxAt : Nat
  deriving Inhabited

/-- The weight formats that a list may have in two-in-eight form (R155, R174). -/
def two8Fmt : Fmt → Bool
  | .e4m3 | .e5m2 | .mxE4m3 | .mxE5m2 => true
  | _ => false

/-- The first place where row pointers decrease. -/
def decreasing : Nat → List Nat → Option Nat
  | j, a :: b :: r => if b < a then some j else decreasing (j + 1) (b :: r)
  | _, _ => none

/-- Reads and checks the header and the row pointers of a list (R155, R156). -/
def Work.readList (w : Work) (listRow : Nat) (f : Fmt) : BList × Work :=
  let base := 512 * listRow
  let w := w.darnRead base 64
  let h := w.x.shelfRead base 64
  let l : BList := {
    rows := leAt h 0 4, blocks := leAt h 4 4, kb := leAt h 8 4, form := byteAt h 12, ptr := []
    idxAt := base + leAt h 24 8 }
  let ptrAt := base + leAt h 16 8
  let bad := l.rows = 0 || l.rows > 16777216 || l.blocks > 268435456 || l.kb = 0 || l.kb > 16777216 || l.form > 1 ||
    byteAt h 13 ≠ b2n w.x.quad || leAt h 14 2 ≠ 0 || leAt h 16 8 % 4 ≠ 0 || leAt h 24 8 % 4 ≠ 0 || leAt h 32 32 ≠ 0 ||
    (l.form = 1 && !two8Fmt f)
  let w := if bad then w.failDn 0x01 0 0 0 0 0 else w
  let w := (w.bytesOk ptrAt (4 * (l.rows + 1))).darnRead ptrAt (4 * (l.rows + 1))
  if !w.ok then (l, w)
  else
    let ptr := elems 4 (l.rows + 1) (w.x.shelfRead ptrAt (4 * (l.rows + 1)))
    let w := match decreasing 0 ptr with
      | some j => w.failDn 0x02 0 j 0 0 0
      | none =>
        if ptr.getD 0 0 ≠ 0 then w.failDn 0x02 0 0 0 0 0
        else if ptr.getD l.rows 0 ≠ l.blocks then w.failDn 0x02 0 (l.rows - 1) 0 0 0 else w
    ({ l with ptr := ptr }, w)

/-- Present blocks of a list row. -/
def BList.count (l : BList) (j : Nat) : Nat := l.ptr.getD (j + 1) 0 - l.ptr.getD j 0

/-- Entry `p` of IDX. -/
def Bench.idxOf (x : Bench) (l : BList) (p : Nat) : Nat := leNat (x.shelfRead (l.idxAt + 4 * p) 4)

/-- Checks the IDX entries of one row: rising, and each beyond KB_EXTENT one out-of-bounds event against
the list's descriptor (R156). -/
def Work.checkIdx (desc : Nat) (d : TDesc) (l : BList) (row : Nat) : Nat → Nat → Option Nat → Work → Work
  | 0, _, _, w => w
  | n + 1, p, prev, w =>
    let e := w.x.idxOf l p
    let w := if prev.any fun q => e ≤ q then w.failDn 0x03 0 row p 0 0 else w
    let w := if e ≥ l.kb then w.oobEvent desc d false 0 else w
    Work.checkIdx desc d l row n (p + 1) (some e) w

/-- Checks IDX row by row. -/
def Work.checkAllIdx (w : Work) (desc : Nat) (d : TDesc) (l : BList) : Work :=
  let w := (w.bytesOk l.idxAt (4 * l.blocks)).darnRead l.idxAt (4 * l.blocks)
  if !w.ok then w
  else (List.range l.rows).foldl (fun w j => Work.checkIdx desc d l j (l.count j) (l.ptr.getD j 0) none w) w

/-- The descriptor of a COMPACT and its format (07 R214). -/
def Work.compactDesc (w : Work) (i : Nat) : TDesc × Fmt × Work :=
  let (d, _, w) := w.desc i
  (d, (Fmt.ofCode d.fmt).getD .fp32, w)

/-- COMPACT in count mode (R157). -/
def Work.compactCountOp (o : CompactOp) (w : Work) : Work :=
  let (_, f, w) := w.compactDesc o.desc
  let (l, w) := w.readList o.listRow f
  let w := w.rowsOk o.outRow (ceilDiv (8 * l.rows) 512)
  if !w.ok then w
  else
    let recs := (List.range l.rows).flatMap fun j => leBytes 4 (l.count j) ++ leBytes 4 j
    w.putStream o.outRow recs []

/-! Plans -/

/-- A segment of a unit (R162). -/
structure PlanSeg where
  listRow : Nat
  first : Nat
  count : Nat
  chunk : Nat
  deriving Inhabited, DecidableEq, Repr

/-- A unit of a plan (R161, R162): KIND 0 chain, 1 single, 2 packed. -/
structure PlanUnit where
  kind : Nat
  s : Nat
  loads : Nat
  segs : List PlanSeg
  runRow : Nat := 0
  records : Nat := 0
  deriving Inhabited, DecidableEq, Repr

/-- The chunks of a list row: first block, length and number (R160). -/
def chunksOf (first p t : Nat) : List (Nat × Nat × Nat) :=
  if p = 0 then []
  else if p ≤ t || t = 0 then [(first, p, 0)]
  else (List.range (ceilDiv p t)).map fun c => (first + c * t, min ((c + 1) * t) p - c * t, c)

/-- Puts a remainder into the open packed unit, the last of the list when it has room and holds no segment
of its row, else into a new one (R161). `n` is the side of the grid. -/
def placeRemainder (n s : Nat) (g : PlanSeg) (us : List PlanUnit) : List PlanUnit :=
  if s = 1 || g.count > n / s then us ++ [{ kind := 1, s := 1, loads := 1, segs := [g] }]
  else
    let isOpen (u : PlanUnit) : Bool := u.kind = 2
    match (us.zipIdx.filter fun c => isOpen c.1).getLast? with
    | some (u, i) =>
      if u.segs.length < s && u.segs.all fun h => h.listRow ≠ g.listRow then
        us.set i { u with segs := u.segs ++ [g] }
      else us ++ [{ kind := 2, s := s, loads := 1, segs := [g] }]
    | none => us ++ [{ kind := 2, s := s, loads := 1, segs := [g] }]

/-- Segments in ascending LIST_ROW order (R162). -/
def insertSeg (g : PlanSeg) : List PlanSeg → List PlanSeg
  | [] => [g]
  | h :: hs => if g.listRow < h.listRow then g :: h :: hs else h :: insertSeg g hs

def sortSegs (gs : List PlanSeg) : List PlanSeg := gs.foldl (fun a g => insertSeg g a) []

/-- The units of a plan in the order in which they open (R160, R161): full parts first, then remainders. -/
def planUnits (n s t : Nat) (rows : List (Nat × Nat × Nat)) : List PlanUnit :=
  let full := rows.flatMap fun r => (chunksOf r.2.1 r.2.2 t).filterMap fun c =>
    let len := n * (c.2.1 / n)
    if len = 0 then none
    else some { kind := 0, s := 1, loads := len / n, segs := [{ listRow := r.1, first := c.1, count := len, chunk := c.2.2 }] }
  let rest := rows.flatMap fun r => (chunksOf r.2.1 r.2.2 t).filterMap fun c =>
    let len := n * (c.2.1 / n)
    if c.2.1 = len then none
    else some ({ listRow := r.1, first := c.1 + len, count := c.2.1 - len, chunk := c.2.2 } : PlanSeg)
  (rest.foldl (fun us g => placeRemainder n s g us) full).map fun u => { u with segs := sortSegs u.segs }

/-- Places the runs one after the other, N × n records for each segment, 32 to a row (R162, R167); a segment that holds no
row yields none. -/
def placeRuns (n tokens : Nat) : Nat → List PlanUnit → List PlanUnit
  | _, [] => []
  | row, u :: us =>
    let r := tokens * n * u.segs.length
    { u with runRow := row, records := r } :: placeRuns n tokens (row + ceilDiv r 32) us

/-- The 64-byte record of a unit. -/
def PlanUnit.bytes (u : PlanUnit) : List Byte :=
  sliceAt (leBytes 1 u.kind ++ leBytes 1 u.s ++ leBytes 2 u.loads ++ leBytes 4 u.runRow ++ leBytes 4 u.records ++ leBytes 4 0 ++
    u.segs.flatMap fun g => leBytes 4 g.listRow ++ leBytes 4 g.first ++ leBytes 2 g.count ++ leBytes 2 g.chunk) 0 64

/-- COMPACT in plan mode (R161, R162). The token count that fixes RUN_ROW and RUN_RECORDS is a free value, one for each
plan: no field of the order states it. -/
def Work.compactPlanOp (o : CompactOp) (w : Work) : Work :=
  let (d, f, w) := w.compactDesc o.desc
  let (l, w) := w.readList o.listRow f
  let w := w.checkAllIdx o.desc d l
  let s := 2 ^ o.pack
  let w := if o.orderEn then (w.bytesOk (512 * o.auxRow) (8 * l.rows)).darnRead (512 * o.auxRow) (8 * l.rows) else w
  if !w.ok then w
  else
    let rowOf (i : Nat) : Nat := if o.orderEn then leNat (w.x.shelfRead (512 * o.auxRow + 8 * i + 4) 4) else i
    let rows := (List.range l.rows).map fun i => (rowOf i, l.ptr.getD (rowOf i) 0, l.count (rowOf i))
    let t := w.pt.hdr.splitThreshold
    let n := w.x.side
    let key := [n, s, t] ++ (rows.flatMap fun r => [r.1, r.2.1, r.2.2]) ++ (List.range l.blocks).map (w.x.idxOf l)
    let units := placeRuns n (Config.planTokens key) 0 (planUnits n s t rows)
    let heavy := (rows.filter fun r => 2 ≤ (chunksOf r.2.1 r.2.2 t).length).length
    let runRows := match units.getLast? with | some u => u.runRow + ceilDiv u.records 32 | none => 0
    let hdr := leBytes 4 units.length ++ leBytes 4 (units.foldl (fun a u => a + u.loads) 0) ++ leBytes 4 runRows ++ leBytes 4 heavy ++
      List.replicate 48 0
    let w := w.rowsOk o.outRow (ceilDiv (64 * (units.length + 1)) 512)
    if !w.ok then w
    else
      let w := w.putStream o.outRow (hdr ++ units.flatMap PlanUnit.bytes) []
      { w with x := { w.x with splitRows := wrapAdd 64 w.x.splitRows heavy } }

/-- Reads a unit record; the segments that hold blocks. -/
def parseUnit (d : List Byte) : PlanUnit :=
  let s := byteAt d 1
  let segs := (List.range (min 4 s)).map fun i =>
    { listRow := leAt d (16 + 12 * i) 4, first := leAt d (20 + 12 * i) 4, count := leAt d (24 + 12 * i) 2, chunk := leAt d (26 + 12 * i) 2 }
  { kind := byteAt d 0, s := s, loads := leAt d 2 2, runRow := leAt d 4 4, records := leAt d 8 4
    segs := segs.filter fun g => g.count ≠ 0 }

/-- Reads the plan at a row: its units in order. -/
def Work.readPlan (w : Work) (row : Nat) : List PlanUnit × Work :=
  let base := 512 * row
  let w := w.darnRead base 64
  let n := leNat (w.x.shelfRead base 4)
  let w := (w.bytesOk base (64 * (n + 1))).darnRead base (64 * (n + 1))
  if !w.ok then ([], w)
  else ((List.range n).map fun i => parseUnit (w.x.shelfRead (base + 64 * (i + 1)) 64), w)

/-! Compacted streams -/

/-- The parameter block of stream mode (07 R215). -/
structure StreamParams where
  planRow : Nat
  ringRow : Nat
  ringRows : Nat
  gatherBase : Nat
  scaleBase : Nat
  blockRow : Nat
  bscaleRow : Nat
  packRow : Nat
  tokenBase : Nat
  n : Nat
  stride : Nat
  offset : Nat

def Bench.streamParams (x : Bench) (row : Nat) : StreamParams :=
  let d := x.shelfRead (512 * row) 64
  { planRow := leAt d 0 2, ringRow := leAt d 2 2, ringRows := leAt d 4 2, gatherBase := leAt d 6 2, scaleBase := leAt d 8 2
    blockRow := leAt d 10 2, bscaleRow := leAt d 12 2, packRow := leAt d 14 2, tokenBase := leAt d 16 4, n := leAt d 20 4
    stride := byteAt d 24, offset := byteAt d 25 }

/-- One load of a unit: the IDX position in each of its grid rows and the bands with their list rows
(R161, R163). -/
structure Load where
  pos : List (Nat × Nat)
  bands : List (Nat × Nat × Nat)
  kind : Nat
  first : Bool
  last : Bool
  deriving Inhabited

/-- The loads of a unit on a grid of side `n`. -/
def PlanUnit.loadsOf (u : PlanUnit) (n : Nat) : List Load :=
  if u.kind = 0 then
    let g := u.segs.getD 0 default
    (List.range u.loads).map fun i =>
      { pos := (List.range n).map fun r => (r, g.first + n * i + r), bands := [(g.listRow, 0, n)], kind := 0
        first := i = 0, last := i + 1 = u.loads }
  else
    let h := n / max 1 u.s
    [{ pos := u.segs.zipIdx.flatMap fun c => (List.range (min c.1.count h)).map fun r => (c.2 * h + r, c.1.first + r)
       bands := u.segs.zipIdx.map fun c => (c.1.listRow, c.2 * h, (c.2 + 1) * h), kind := u.kind
       first := true, last := true }]

/-- A compacted stream: formats, list, parameters and the fill value of the list's descriptor. -/
structure CStream where
  af : Fmt
  wf : Fmt
  two8 : Bool
  list : BList
  par : StreamParams
  fill : Nat

/-- Where the piece of token `v` of K-block `kb` lies, and its scales (R164). -/
def CStream.pieceAt (c : CStream) (v kb : Nat) : Nat × Nat :=
  let pb := pieceBytes c.af c.two8
  let g := 512 / pb
  let sc := cellScales c.af c.two8
  let h := 512 / max 1 sc
  (512 * (c.par.gatherBase + v / g * c.list.kb + kb) + v % g * pb, 512 * (c.par.scaleBase + v / h * c.list.kb + kb) + v % h * sc)

/-- The piece of a token for the K-block of an IDX position: bytes and scale bytes; the fill value where the
entry is out of bounds (R156). -/
def CStream.piece (c : CStream) (x : Bench) (v pos : Nat) : PVec :=
  let kb := x.idxOf c.list pos
  let pb := pieceBytes c.af c.two8
  let sc := cellScales c.af c.two8
  if kb ≥ c.list.kb then
    (leBytes pb (packBits c.af.width (List.replicate (cellK c.af c.two8) c.fill)), List.replicate sc 0x7F)
  else
    let a := c.pieceAt v kb
    (x.shelfRead a.1 pb, x.shelfRead a.2 sc)

/-- The vectors of a load in the forward layout of R135: for each grid row its piece, zeros where none. -/
def CStream.vector (c : CStream) (x : Bench) (l : Load) (v : Nat) : PVec :=
  let ps := (List.range x.side).map fun r =>
    match l.pos.find? fun rp => rp.1 = r with
    | some rp => c.piece x v rp.2
    | none => (List.replicate (pieceBytes c.af c.two8) 0, List.replicate (cellScales c.af c.two8) 0)
  (ps.flatMap (·.1), ps.flatMap (·.2))

/-- What the gather reads for token `v` of a load: byte ranges of gather and scale rows. -/
def CStream.gathers (c : CStream) (x : Bench) (l : Load) (v : Nat) : List (Nat × Nat) :=
  l.pos.flatMap fun rp =>
    let kb := x.idxOf c.list rp.2
    if kb ≥ c.list.kb then []
    else
      let a := c.pieceAt v kb
      [(a.1, pieceBytes c.af c.two8), (a.2, cellScales c.af c.two8)]

/-- What the LOADW of a load reads: byte ranges of the block array and the weight scale array. -/
def CStream.blocks (c : CStream) (x : Bench) (l : Load) : List (Nat × Nat) :=
  let bb := x.side * cellBytes c.wf c.two8
  let bs := x.side * cellScales c.wf c.two8
  l.pos.flatMap fun rp => [(512 * c.par.blockRow + bb * rp.2, bb), (512 * c.par.bscaleRow + bs * rp.2, bs)]

/-- Ranges that must end within the shelf (07 R207). -/
def Work.rangesOk (w : Work) (rs : List (Nat × Nat)) : Work :=
  w.failWhen (rs.any fun r => r.2 ≠ 0 && r.1 + r.2 > 512 * shelfRows) 0x06

/-- Ranges that the gather reads, consuming stain (R184). -/
def Work.gatherOk (w : Work) (rs : List (Nat × Nat)) : Work :=
  let w := w.rangesOk rs
  w.consume (rs.any fun r => w.x.rowsStained r.1 r.2)

/-- The rows of one weight tile, elements and scales. -/
def CStream.tileRows (c : CStream) (side : Nat) : Nat :=
  ceilDiv (side * side * cellBytes c.wf c.two8) 512 + ceilDiv (side * side * cellScales c.wf c.two8) 512

/-- The weight tile of a load: the blocks of its rows, zeros elsewhere (R166). -/
def CStream.tileOf (c : CStream) (x : Bench) (l : Load) : WTile :=
  let bb := x.side * cellBytes c.wf c.two8
  let bs := x.side * cellScales c.wf c.two8
  let row (base k r : Nat) : List Byte :=
    match l.pos.find? fun rp => rp.1 = r with
    | some rp => x.shelfRead (512 * base + k * rp.2) k
    | none => List.replicate k 0
  { fmt := some c.wf, two8 := c.two8
    data := (List.range x.side).flatMap (row c.par.blockRow bb), scales := (List.range x.side).flatMap (row c.par.bscaleRow bs)
    stained := (c.blocks x l).any fun r => x.rowsStained r.1 r.2 }

/-- Slots of the ring: vectors that it holds (R165). -/
def CStream.slots (c : CStream) (side : Nat) : Nat := c.par.ringRows / max 1 (ceilDiv (side * pieceBytes c.af c.two8) 512)

/-- Writes compacted vector `j` into its ring slot (R165). -/
def CStream.ring (c : CStream) (x : Bench) (j : Nat) (bytes : List Byte) : Bench :=
  let vr := ceilDiv bytes.length 512
  x.putRows [] vr (c.par.ringRow + j % max 1 (c.slots x.side) * vr) bytes

/-- The vectors that the ring and the scale queue hold before the PRESS takes any (R165). -/
def CStream.ahead (c : CStream) (side loads : Nat) : Nat :=
  let sc := side * cellScales c.af c.two8
  min (loads * c.par.n) (min (c.slots side) (if sc = 0 then c.slots side else 131072 / sc))

/-- The units of a plan that a bench takes (R169). -/
def StreamParams.mine (p : StreamParams) (us : List PlanUnit) : List PlanUnit :=
  (us.zipIdx.filter fun u => u.2 % p.stride = p.offset).map (·.1)

/-- COMPACT in stream mode (R164, R165): checks its parameter block, list and plan, and writes vectors until the ring or
the scale queue is full; the rest follow as the PRESS that names the stream takes them. -/
def Work.compactStreamOp (o : CompactOp) (w : Work) : Work :=
  let (d, f, w) := w.compactDesc o.desc
  match Fmt.ofCode o.afmt with
  | none => w.fail 0x04
  | some af =>
    let w := w.failWhen (!pairs af f) 0x04
    let (l, w) := w.readList o.listRow f
    let w := (w.checkAllIdx o.desc d l).darnRead (512 * o.auxRow) 64
    let p := w.x.streamParams o.auxRow
    let c : CStream := { af := af, wf := f, two8 := l.form = 1, list := l, par := p, fill := w.fillOf d af.width }
    let side := w.x.side
    let rsvd := leNat (w.x.shelfRead (512 * o.auxRow + 26) 38)
    let w := w.failWhen (rsvd ≠ 0) 0x02
    let w := w.failWhen (p.planRow > 16383 || p.ringRow > 16383 || p.gatherBase > 16383 || p.scaleBase > 16383 || p.blockRow > 16383 ||
      p.bscaleRow > 16383 || p.packRow > 16383 || c.slots side = 0 || (!af.isMx && p.scaleBase ≠ 0) || p.n > 65535 ||
      p.stride = 0 || p.stride > 128 || p.offset ≥ p.stride) 0x03
    let w := w.rowsOk p.ringRow p.ringRows
    let (us, w) := w.readPlan p.planRow
    let mine := p.mine us
    let w := if mine.any fun u => u.kind = 2 then w.rowsOk p.packRow (2 * c.tileRows side) else w
    let loads := mine.flatMap fun u => u.loadsOf side
    let vecs := (List.range (c.ahead side loads.length)).map fun j => (loads.getD (j / p.n) default, j % p.n)
    let w := vecs.foldl (fun w v => w.gatherOk (c.gathers w.x v.1 v.2)) w
    if !w.ok then w
    else
      let x0 := w.x
      let x := vecs.zipIdx.foldl (fun x v => c.ring x v.2 (c.vector x0 v.1.1 v.1.2).1) x0
      { w with x := { x with
        scaleQueue := vecs.flatMap fun v => (c.vector x0 v.1 v.2).2
        scaleMark := x.scaleMark || w.u.scaleUe
        streams := x.streams ++ [{
          sid := o.sid, seq := w.seq, afmt := af, wfmt := f, fill := c.fill, desc := o.desc, listRow := o.listRow, auxRow := o.auxRow
          since := w.now }] } }

/-- What a compacted PRESS works on; `grad` numbers the free gradients of a transposed one. -/
structure CPress where
  op : PressOp
  s : CStream
  ctx : PressCtx
  grad : Nat

/-- A keyed record: token index, output column, FP48 value (R167). -/
def keyed (token col v : Nat) : List Byte := leBytes 4 col ++ leBytes 4 token ++ leBytes 6 v ++ [0, 0]

/-- The press of a load: the mask register combined with its unused rows (R164). -/
def CPress.press (c : CPress) (l : Load) (t : WTile) : PressCtx :=
  { c.ctx with
    tile := t, two8 := c.s.two8, k := cellK c.s.af c.s.two8
    rowMasked := fun r => c.ctx.rowMasked r || (l.pos.all fun rp => rp.1 ≠ r) }

/-- The vector of token `v` that the mangle takes, number `j` of the order. Forward it is the compacted vector; the gradient
vector of the transposed direction is free (R168). -/
def CPress.vec (c : CPress) (x0 : Bench) (l : Load) (v j : Nat) : PVec :=
  if c.ctx.fwd then c.s.vector x0 l v
  else
    ((List.range (c.ctx.side * c.s.af.width / 8)).map (Config.transposedGrad c.grad j),
     if c.s.af.isMx then (List.range c.ctx.side).map fun i => Config.transposedGrad c.grad j (4096 + i) else [])

/-- What load number `j` presses. -/
def CPress.pressed (c : CPress) (x0 : Bench) (j : Nat) (l : Load) : Pressed :=
  { p := c.press l (c.s.tileOf x0 l), base := j * c.s.par.n
    vecs := (List.range c.s.par.n).map fun v => c.vec x0 l v (j * c.s.par.n + v) }

/-- The chain of cells of band `b` in a column. -/
def bandRows (p : PressCtx) (b : Nat × Nat × Nat) : List Nat := (List.range p.side).filter fun r => b.2.1 ≤ r && r < b.2.2

/-- The outputs of vector `j` of the order: the column field of each key, the grid column, and the value, none where it is
masked. Forward, each band of a packed load yields its columns (R163, R166), which number as the columns of one of four
bands; transposed, each row its elements (R168). -/
def CPress.outputs (c : CPress) (x0 : Bench) (p : PressCtx) (l : Load) (j : Nat) (x : PVec) (pin : Nat → Nat) :
    List (Nat × Nat × Option Nat × Flags) :=
  if p.fwd then
    let valid := p.valid
    let acts := p.acts x
    l.bands.zipIdx.flatMap fun b => (List.range p.side).map fun col =>
      if p.colMasked col then (p.side * b.1.1 + col, col, none, {})
      else
        let (v, f) := columnSum (bandRows p b.1) (p.cell j valid acts col) (p.fix (p.side * (4 * j + b.2) + col)) (pin col)
        (p.side * b.1.1 + col, col, some v, f)
  else
    let outs := p.transposed j x fun _ => 0
    l.pos.flatMap fun rp => (List.range p.k).map fun e =>
      let o := outs.getD (p.k * rp.1 + e) (none, {})
      (x0.idxOf c.s.list rp.2 * p.k + e, 0, o.1, o.2)

/-- The compare of a paired error that strikes vector `j` of the order. -/
def CPress.pairCheck (p : PressCtx) (l : Load) (j : Nat) (x : PVec) (pin : Nat → Nat) (e : PairError) : Option Compare :=
  if !p.fwd then p.pairCheck j x (fun _ => 0) e
  else
    let col := e.result % p.side
    match l.bands[e.result / p.side % 4]? with
    | some b =>
      if e.result / (4 * p.side) ≠ j || p.colMasked col then none
      else pairAt e (bandRows p b) (p.cell j p.valid (p.acts x) col) (pin col)
    | none => none

/-- What presses one load: the state of the bench, the records of the run so far, the flags, the number of loads done, the
paired compare and the outputs. -/
structure CState where
  x : Bench
  recs : List Byte := []
  flags : Flags := {}
  loads : Nat := 0
  packed : Nat := 0
  pair : Option Compare := none
  outs : List Nat := []
  runs : List (Nat × Nat) := []
  stain : Bool := false

/-- Presses one load over all tokens (R166): from the till when it continues a chain, to the till when the chain goes on,
else records into the run. A transposed load writes records alone (R168). `x0` is the bench as the PRESS found it. -/
def CPress.load (c : CPress) (x0 : Bench) (s : CState) (l : Load) : CState :=
  let t := c.s.tileOf x0 l
  let q := c.pressed x0 s.loads l
  let p := q.p
  let n := c.s.par.n
  let side := x0.side
  let dr := ceilDiv t.data.length 512
  let at_ := c.s.par.packRow + s.packed % 2 * c.s.tileRows side
  let x := if l.kind = 2 then (s.x.putRows [] dr at_ t.data).putRows [] (ceilDiv t.scales.length 512) (at_ + dr) t.scales else s.x
  let till0 := { x with
    tiles := x.tiles.set (tileAt c.op.quad (s.loads % 2 = 1)) t, mgVectors := wrapAdd 64 x.mgVectors n }
  let last := l.last || !p.fwd
  let step (a : CState) (v : Nat) : CState :=
    let j := s.loads * n + v
    let vec := q.vecs.getD v ([], [])
    let pin (col : Nat) : Nat := if l.first then 0 else till0.tillVal (c.op.till + side * v + col)
    let outs := c.outputs x0 p l j vec pin
    let x := c.s.ring a.x j (c.s.vector x0 l v).1
    let x := if last then x else outs.foldl (fun x o => x.putTill (c.op.till + side * v + o.2.1) (o.2.2.1.getD 0) false) x
    let recs := if last then outs.flatMap fun o => match o.2.2.1 with
        | some y => keyed (c.s.par.tokenBase + v) o.1 y
        | none => []
      else []
    let pad := if p.fwd then List.replicate (side * (4 - l.bands.length)) 0 else []
    { a with x := x, recs := a.recs ++ recs, flags := outs.foldl (fun f o => fOr f o.2.2.2) a.flags
             pair := a.pair.or (p.pair.bind fun e => CPress.pairCheck p l j vec pin e)
             outs := a.outs ++ outs.map (fun o => o.2.2.1.getD 0) ++ pad }
  let r := (List.range n).foldl step { s with x := till0 }
  { r with
    loads := s.loads + 1, packed := s.packed + (if l.kind = 2 then 1 else 0), stain := s.stain || t.stained }

/-- Presses one unit and writes its run from RUN_BASE + RUN_ROW, the last row padded with zeros (R166,
R167). -/
def CPress.unit (c : CPress) (x0 : Bench) (s : CState) (u : PlanUnit) : CState :=
  let s := (u.loadsOf x0.side).foldl (c.load x0) { s with recs := [] }
  let rows := ceilDiv s.recs.length 512
  { s with x := s.x.putRows [] rows (c.op.orow + u.runRow) s.recs, recs := [], runs := s.runs ++ [(c.op.orow + u.runRow, rows)] }

/-- The list of an open stream as it stands; its checks were the COMPACT's. -/
def Bench.listAt (x : Bench) (listRow : Nat) : BList :=
  let base := 512 * listRow
  let h := x.shelfRead base 64
  { rows := leAt h 0 4, blocks := leAt h 4 4, kb := leAt h 8 4, form := byteAt h 12, ptr := [], idxAt := base + leAt h 24 8 }

/-- A stream ends when its PRESS has read its last vector: its COMPACT completes (07 R208). -/
def Bench.endStream (x : Bench) (st : StreamCtx) : Bench :=
  { x with
    streams := x.streams.erase st, scaleQueue := [], scaleMark := false
    inflight := x.inflight.map fun i =>
      match i.dec.body with
      | .compactStream _ => if i.dec.seq = st.seq then { i with ran := true } else i
      | _ => i }

/-- An open stream as its PRESS finds it. -/
def Work.streamOf (w : Work) (st : StreamCtx) : CStream :=
  let l := w.x.listAt st.listRow
  { af := st.afmt, wf := st.wfmt, two8 := l.form = 1, list := l, par := w.x.streamParams st.auxRow, fill := st.fill }

/-- What a compacted PRESS presses: its loads in plan order. -/
def CPress.all (c : CPress) (x0 : Bench) (loads : List Load) : List Pressed := loads.zipIdx.map fun l => c.pressed x0 l.2 l.1

/-- PRESS with CMP (07 R213; R166 to R169): takes the stream with its SID that was issued ahead of it, presses every load of
the units that its STRIDE and OFFSET give it, and ends the stream. -/
def Work.pressCompactedOp (o : PressOp) (w : Work) : Work :=
  let mayTake (st : StreamCtx) : Bool := st.sid = o.arow % 4 && (match w.ahead with | some l => l.contains st.seq | none => true)
  match w.x.streams.find? mayTake, Fmt.ofCode o.afmt with
  | none, _ => w.fail 0x0D
  | some _, none => w.fail 0x04
  | some st, some af =>
    let w := w.failWhen (af ≠ st.afmt) 0x04
    let s := w.streamOf st
    let par := s.par
    let (units, w) := w.readPlan par.planRow
    let mine := par.mine units
    let w := w.failWhen (o.dir && units.any fun u => u.kind = 2) 0x0D
    let w := w.failWhen (o.dir && s.two8) 0x04
    if !w.ok then w
    else if par.n = 0 || mine.isEmpty then { w with x := w.x.endStream st }
    else
      let side := w.x.side
      let lim := tillLimit w.x.quad o.quad
      let chains := mine.any fun u => u.kind = 0 && 2 ≤ u.loads
      let w := w.failWhen (!o.dir && chains && (o.till < lim.1 || o.till + side * par.n > lim.2)) 0x05
      let loads := mine.flatMap fun u => u.loadsOf side
      let w := loads.foldl (fun w l => w.rangesOk (s.blocks w.x l)) w
      let w := loads.foldl (fun w l => (List.range par.n).foldl (fun w v => w.gatherOk (s.gathers w.x l v)) w) w
      if !w.ok then w
      else
        let c : CPress := { op := o, s := s, ctx := w.pressCtx o af, grad := w.m.freeCtr }
        let r := mine.foldl (c.unit w.x) { x := w.x }
        let w := r.runs.foldl (fun w u => w.rowsOk u.1 u.2) w
        if !w.ok then w
        else
          let w := (w.addFlags r.flags).pressChecks (c.all w.x loads) r.pair
          let st' := r.stain || w.x.scaleMark || w.u.scaleUe
          Work.stainPress (Work.busySteps { w with
            x := (r.x.endStream st).wake c.ctx.r0 c.ctx.c0 side, outRows := r.runs, outs := r.outs, took := some st
            m := if o.dir then { w.m with freeCtr := w.m.freeCtr + 1 } else w.m }) st'

/-! Two-in-eight form -/

/-- The rank of an element's magnitude: NaN above infinity above finite values (R176). -/
def magLess (a b : Val) : Bool :=
  match a, b with
  | .nan, _ => false
  | _, .nan => true
  | _, _ => vLt a.abs b.abs

/-- The position of the greatest magnitude among candidates, the lower on a tie; `xs` is nonempty. -/
def greatest (f : Fmt) : List (Nat × Nat) → Option (Nat × Nat)
  | [] => none
  | e :: es =>
    match greatest f es with
    | none => some e
    | some b => if magLess (f.val e.1) (f.val b.1) then some b else some e

/-- The entries kept of one group: (element, index) pairs in increasing index, or none when three or more
are nonzero and keep-largest is clear; and whether keep-largest resolved it (R176). -/
def keepTwo (f : Fmt) (keep : Bool) (es : List (Nat × Nat)) : Option (List (Nat × Nat)) × Bool :=
  let nz := es.filter fun e => !(f.val e.1).isZero
  if nz.length ≤ 2 then (some nz, false)
  else if !keep then (none, false)
  else
    match greatest f nz with
    | none => (some [], true)
    | some a =>
      let rest := nz.filter fun e => e.2 ≠ a.2
      match greatest f rest with
      | none => (some [a], true)
      | some b => (some (if a.2 < b.2 then [a, b] else [b, a]), true)

/-- The 24 bytes of a two-in-eight cell from its eight groups' entries (R174). -/
def two8Cell (groups : List (List (Nat × Nat))) : List Byte :=
  let es := groups.flatMap fun g => (List.range 2).map fun i => g.getD i (0, 0)
  es.map (fun e => BitVec.ofNat 8 e.1) ++ leBytes 6 (packBits 3 (es.map (·.2))) ++ [0, 0]

/-- Compresses one cell of 64 elements; the group that holds three nonzero elements, if any, and how many
groups keep-largest resolved. -/
def two8Of (f : Fmt) (keep : Bool) (bytes : List Byte) : Except Nat (List Byte × Nat) :=
  let gs := (List.range 8).map fun g => keepTwo f keep ((List.range 8).map fun i => (byteAt bytes (8 * g + i), i))
  match gs.zipIdx.find? fun g => g.1.1.isNone with
  | some g => .error g.2
  | none => .ok (two8Cell (gs.map fun g => g.1.getD []), (gs.filter (·.2)).length)

/-- The list row that holds IDX position `p`. -/
def BList.rowOf (l : BList) (p : Nat) : Nat :=
  ((List.range l.rows).find? fun j => l.ptr.getD j 0 ≤ p && p < l.ptr.getD (j + 1) 0).getD 0

/-- COMPACT in compress mode (R176): each listed block of 64 K elements by 32 (or 16) columns becomes 24
bytes a cell. -/
def Work.compactCompressOp (o : CompactOp) (w : Work) : Work :=
  let (d, f, w) := w.compactDesc o.desc
  let w := w.failWhen (!two8Fmt f) 0x04
  let (l, w) := w.readList o.listRow f
  let side := w.x.side
  let inB := 64 * side * l.blocks
  let w := (w.rowsOk o.auxRow (ceilDiv inB 512)).rowsOk o.outRow (ceilDiv (24 * side * l.blocks) 512)
  let w := w.darnRead (512 * o.auxRow) inB
  if !w.ok then w
  else
    let cells := (List.range (l.blocks * side)).map fun i =>
      (i, two8Of f d.keepLargest (w.x.shelfRead (512 * o.auxRow + 64 * i) 64))
    match cells.find? fun c => match c.2 with | .error _ => true | .ok _ => false with
    | some (i, .error g) => w.failDn 0x04 0 (l.rowOf (i / side)) (i / side) (i % side) g
    | _ =>
      let out := cells.flatMap fun c => match c.2 with | .ok r => r.1 | .error _ => []
      let kept := cells.foldl (fun a c => a + match c.2 with | .ok r => r.2 | .error _ => 0) 0
      let w := w.putStream o.outRow out []
      { w with x := { w.x with dnKeep := satAdd 32 w.x.dnKeep kept } }

end Sys2Proof.Machine
end

