-- ==== Sys2Proof/Machine/Darner.lean ====
section
/-! DEFINITION. The darner's merge tree (06 R170 to R173; 07 R216), sort unit with SORT and SCAN (06 R158,
R159; 07 R217, R218) and digest unit (06 R183; 07 R227). -/

namespace Sys2Proof.Machine

open Sys2Proof

/-! MERGE -/

/-- A keyed record: key and FP48 value (R167). -/
structure KRec where
  key : Nat
  val : Nat
  deriving Inhabited, DecidableEq, Repr

/-- The records of a run at a row. -/
def Bench.runAt (x : Bench) (row n : Nat) : List KRec :=
  (List.range n).map fun i =>
    let d := x.shelfRead (512 * row + 16 * i) 16
    { key := leAt d 0 8, val := leAt d 8 6 }

/-- The first record whose key does not exceed the one before it. -/
def notRising : Nat → List KRec → Option Nat
  | i, a :: b :: r => if b.key ≤ a.key then some (i + 1) else notRising (i + 1) (b :: r)
  | _, _ => none

/-- The least key among the heads of the runs. -/
def leastKey (runs : List (List KRec)) : Option Nat :=
  runs.foldl (fun a r => match a, r with
    | none, h :: _ => some h.key
    | some k, h :: _ => some (min k h.key)
    | a, [] => a) none

/-- What the sum of one key has come to: the value, its flags, and the compare of the adder that an error struck. -/
structure KeySum where
  val : Option Nat := none
  flags : Flags := {}
  check : Option Compare := none

/-- Adds the head at leaf `i` with one rounding to FP48, the first as it stands (R170; 04 R115); each adder is paired (14
R390). -/
def KeySum.add (a : KeySum) (err : Option PairError) (i v : Nat) : KeySum :=
  match a.val with
  | none => { a with val := some v }
  | some x =>
    let (s, f) := vAdd (val48 x) (val48 v)
    let (b, g) := rnd sFP48 s f
    let a := { a with flags := fOr a.flags g }
    match err with
    | some e =>
      if e.stage = i then
        { a with
          val := some (if e.second then b else Nat.xor b (e.mask % 2 ^ 48))
          check := some (pairCompare e b 48 (leBytes 6 x ++ leBytes 6 v)) }
      else { a with val := some b }
    | none => { a with val := some b }

/-- The sum of the heads with key `k`, in rising run order. -/
def sumHeads (k : Nat) (err : Option PairError) (runs : List (List KRec)) : KeySum :=
  runs.zipIdx.foldl (fun a r => match r.1 with
    | h :: _ => if h.key = k then a.add err r.2 h.val else a
    | [] => a) {}

/-- Drops the heads with key `k`. -/
def dropHeads (k : Nat) (runs : List (List KRec)) : List (List KRec) :=
  runs.map fun r => match r with
    | h :: t => if h.key = k then t else r
    | [] => []

/-- What one round of the merge tree emits. -/
structure MergeOut where
  recs : List KRec := []
  flags : Flags := {}
  check : Option Compare := none

/-- One round of the merge tree over at most 64 runs, its first sum being number `e` of the order (R170). -/
def mergeRuns (err : Option PairError) : Nat → Nat → List (List KRec) → MergeOut
  | 0, _, _ => {}
  | n + 1, e, runs =>
    match leastKey runs with
    | none => {}
    | some k =>
      let s := sumHeads k (err.filter fun p => p.result = e) runs
      let r := mergeRuns err n (e + 1) (dropHeads k runs)
      { recs := { key := k, val := s.val.getD 0 } :: r.recs, flags := fOr s.flags r.flags, check := s.check.or r.check }

/-- Every round: the first 64 runs, then the result with the next 63 (R170). Gives the records, the flags
and the pairs that the tree emitted. -/
def mergeRounds (err : Option PairError) : Nat → Nat → List (List KRec) → MergeOut × Nat
  | 0, _, _ => ({}, 0)
  | n + 1, e, runs =>
    let here := runs.take 64
    let o := mergeRuns err (here.foldl (fun a r => a + r.length) 0) e here
    if runs.length ≤ 64 then (o, o.recs.length)
    else
      let (r, k) := mergeRounds err n (e + o.recs.length) (o.recs :: runs.drop 64)
      ({ r with flags := fOr o.flags r.flags, check := o.check.or r.check }, o.recs.length + k)

/-- The runs of a MERGE: rows and record counts, from its plan or its run table (R216). -/
def Work.mergeRunsOf (w : Work) (o : MergeOp) : List (Nat × Nat) × Work :=
  if o.plan then
    let (us, w) := w.readPlan o.srcRow
    (us.map fun u => (o.runBase + u.runRow, u.records), w)
  else
    let n := o.nrm1 + 1
    let w := w.darnRead (512 * o.srcRow) (8 * n)
    ((List.range n).map fun i =>
      let e := w.x.shelfRead (512 * o.srcRow + 8 * i) 8
      (leAt e 0 2, leAt e 4 4), w)

/-- The element of a dense region at linear index `j`: the rounded sum of its key, else +0, each with its
draw (R171; 04 R119). -/
def denseAt (f : Fmt) (sr : Bool) (seed : BitVec 64) (base : Nat) (vals : List (Nat × Nat)) (j : Nat) : Nat × Flags :=
  match vals.find? fun v => v.1 = j with
  | none => (0, {})
  | some v =>
    if f = .fp48 then (v.2, {})
    else f.conv (val48 v.2) (if sr then some (Sys2Proof.draw seed (base + j)) else none)

/-- MERGE (R170, R171; 07 R216). In dense form each record of a run whose key lies outside the region is one
out-of-bounds event (08 R243). -/
def Work.mergeOp (o : MergeOp) (w : Work) : Work :=
  let (runs, w) := w.mergeRunsOf o
  let w := runs.foldl (fun w r =>
    if r.2 = 0 then w else (w.bytesOk (512 * r.1) (16 * r.2)).darnRead (512 * r.1) (16 * r.2)) w
  if !w.ok then w
  else
    let data := runs.map fun r => w.x.runAt r.1 r.2
    let w := data.zipIdx.foldl (fun w r => match notRising 0 r.1 with
      | some i => w.failDn 0x05 1 r.2 i 0 0
      | none => w) w
    let (tree, emitted) := mergeRounds w.u.pair (data.length + 1) 0 data
    let out := tree.recs
    let fl := tree.flags
    let w := match tree.check with | some c => w.note w.x.pairedEn c | none => w
    if o.dense then
      let (d, _, w) := w.desc o.desc
      let f := (Fmt.ofCode o.ofmt).getD .fp32
      let cols := d.dim.getD 0 0
      let rows := d.dim.getD 1 0
      let inside (r : KRec) : Option (Nat × Nat) :=
        let tok := r.key / 2 ^ 32
        let col := r.key % 2 ^ 32
        if o.row0 ≤ tok && tok < o.row0 + rows && col < cols then some ((tok - o.row0) * cols + col, r.val) else none
      let outside := (data.flatten.filter fun r => (inside r).isNone).length
      let w := w.oobEvent o.desc d true 0 outside
      let w := w.rowsOk o.outRow (packedRows f.width (rows * cols))
      if !w.ok then w
      else
        let vals := out.filterMap inside
        let es := (List.range (rows * cols)).map fun j => denseAt f o.sr w.x.seed w.drawNo vals j
        let w := es.foldl (fun w e => w.addFlags e.2) (w.addFlags fl)
        let w := w.putPacked f.width o.outRow (es.map fun e => (e.1, false))
        let takes := o.sr && f ≠ .fp48
        { w with drawNo := w.drawNo + (if takes then rows * cols else 0)
                 x := { w.x with pairsOut := wrapAdd 64 w.x.pairsOut emitted } }
    else
      let w := w.rowsOk o.outRow (ceilDiv (16 * out.length) 512)
      if !w.ok then w
      else
        let bytes := out.flatMap fun r => leBytes 8 r.key ++ leBytes 6 r.val ++ [0, 0]
        let w := (w.addFlags fl).putStream o.outRow bytes []
        { w with x := { w.x with pairsOut := wrapAdd 64 w.x.pairsOut emitted } }

/-! SORT -/

/-- The order of IEEE 754 totalOrder as an unsigned number (R158). -/
def totalKey (k : Nat) : Nat := if k / 2 ^ 31 % 2 = 1 then 2 ^ 32 - 1 - k % 2 ^ 32 else k % 2 ^ 32 + 2 ^ 31

/-- The number by which a record sorts. -/
def sortKey (o : SortOp) (rec : Nat) : Nat :=
  let k := rec % 2 ^ 32
  if o.ktype then totalKey k else k % 2 ^ (8 * (o.kb + 1))

/-- Inserts after every record that sorts no later: a stable order in either direction. -/
def insertRec (o : SortOp) (r : Nat) : List Nat → List Nat
  | [] => [r]
  | x :: xs =>
    let before := if o.desc_ then sortKey o r ≤ sortKey o x else sortKey o x ≤ sortKey o r
    if before then x :: insertRec o r xs else r :: x :: xs

/-- The stable sort of R158. -/
def sortRecs (o : SortOp) (rs : List Nat) : List Nat := rs.foldl (fun a r => insertRec o r a) []

/-- The histogram of R158: a count for each key value. -/
def histogram (o : SortOp) (rs : List Nat) : List Nat :=
  (List.range (2 ^ (8 * (o.kb + 1)))).map fun k => (rs.filter fun r => r % 2 ^ (8 * (o.kb + 1)) = k).length

/-- Reads `n` 8-byte records through a descriptor, consuming stain. -/
def Work.readRecs (u : MoveUnit) (n : Nat) (w : Work) : List Nat × Work :=
  let (bs, w) := u.fetch n 0 { w with rbuf := none }
  (elems 8 n (bs.map (·.1)), w.consume (bs.any (·.2)))

/-- A descriptor of SORT with MEM: its elements are the 8-byte records, INT64. -/
def Work.recordDesc (w : Work) (i : Nat) : MoveUnit × Work :=
  let (d, own, w) := w.desc i
  ({ desc := i, d := d, owner := own, f := .int64, scales := false }, w.failWhen (d.fmt ≠ 0xD) 0x04)

/-- The rows of SORT with HIST. -/
def Work.putHist (w : Work) (o : SortOp) (rs : List Nat) : Work :=
  if !o.hist then w
  else
    let n := 2 ^ (8 * (o.kb + 1))
    let w := w.rowsOk o.histRow (ceilDiv (4 * n) 512)
    if !w.ok then w else w.putStream o.histRow ((histogram o rs).flatMap fun c => leBytes 4 c) []

def overlaps (a b n : Nat) : Bool := n ≠ 0 && a < b + n && b < a + n

/-- Errors in the outputs of the sort unit, by position. -/
def Work.sortErr (w : Work) (outs : List Nat) : List Nat :=
  w.u.sortErrs.foldl (fun o e => o.modify e.1 fun v => Nat.xor v e.2.toNat) outs

/-- The first position at which two lists differ. -/
def firstDiff : Nat → List Nat → List Nat → Option Nat
  | i, a :: as, b :: bs => if a = b then firstDiff (i + 1) as bs else some i
  | i, a, b => if a.isEmpty && b.isEmpty then none else some i

/-- The check of the sort unit (14 R391): `passed` is what it found, `right` the output that it demands. -/
def Work.sortCheck (w : Work) (passed : Bool) (outs right : List Nat) : Work :=
  { w with outs := outs }.note true {
    kind := .sortCheck, index := (firstDiff 0 outs right).getD 0, orig := outs, chk := if passed then outs else right }

/-- Whether records stand in the order of a SORT. -/
def inOrder (o : SortOp) : List Nat → Bool
  | a :: b :: r => (if o.desc_ then sortKey o b ≤ sortKey o a else sortKey o a ≤ sortKey o b) && inOrder o (b :: r)
  | _ => true

def sum64 (xs : List Nat) : Nat := xs.foldl (fun a x => (a + x) % 2 ^ 64) 0

/-- The sorted records with what struck them, checked (14 R391): in the order of the fields, and with the sum of the input
records modulo 2^64. -/
def Work.sorted (w : Work) (o : SortOp) (rs : List Nat) : List Nat × Work :=
  let right := sortRecs o rs
  let outs := w.sortErr right
  (outs, w.sortCheck (inOrder o outs && sum64 outs = sum64 rs) outs right)

/-- SORT (R158; 07 R217). -/
def Work.sortOp (o : SortOp) (w : Work) : Work :=
  if o.mem then
    let (src, w) := w.recordDesc o.src
    let (dst, w) := w.recordDesc o.dst
    if !w.ok then w
    else
      let (rs, w) := Work.readRecs src o.n w
      if !w.ok then w
      else
        let (out, w) := w.sorted o rs
        let bytes := out.flatMap fun r => (leBytes 8 r).map fun b => (b, false)
        let w := dst.store o.n 0 bytes { w with rbuf := none, wbuf := none }
        w.putHist o rs
  else
    let n := ceilDiv (8 * o.n) 512
    let w := ((w.rowsOk o.src n).rowsOk o.dst n).rowsOk o.scratchRow n
    let w := w.darnRead (512 * o.src) (8 * o.n)
    if !w.ok then w
    else
      let rs := elems 8 o.n (w.x.shelfRead (512 * o.src) (8 * o.n))
      let bad := (o.src ≠ o.dst && overlaps o.src o.dst n) || overlaps o.src o.scratchRow n || overlaps o.dst o.scratchRow n
      let free (k : Nat) : List Byte := (List.range (512 * n)).map fun i => Config.scratchByte w.m.freeCtr (k + i)
      let (out, w) : List Byte × Work :=
        if bad then (free 0, w) else (let (r, w) := w.sorted o rs; (r.flatMap fun r => leBytes 8 r, w))
      let w := { w.putStream o.scratchRow (free (512 * n)) [] with outRows := [] }.putStream o.dst out []
      let w := if o.n = 0 then w else { w with m := { w.m with freeCtr := w.m.freeCtr + 1 } }
      w.putHist o rs

/-! SCAN -/

/-- Bytes of a SCAN element: u32, s64, FP32 (R218). -/
def scanBytes (typ : Nat) : Nat := if typ = 1 then 8 else 4

/-- Integer prefix sums: outputs, the last sum, and whether an addition wrapped (R159). -/
def scanInt (w : Nat) (signed excl : Bool) : Nat → List Nat → List Nat × Nat × Bool
  | acc, [] => ([], acc, false)
  | acc, x :: xs =>
    let s := (acc + x) % 2 ^ w
    let wrap : Bool :=
      if signed then (let e := sext w acc + sext w x; e ≥ 2 ^ (w - 1) || e < -2 ^ (w - 1)) else acc + x ≥ 2 ^ w
    let (r, t, f) := scanInt w signed excl s xs
    ((if excl then acc else s) :: r, t, wrap || f)

/-- FP32 prefix sums: each output one rounding of the exact prefix (R159). -/
def scanFp (excl : Bool) : Option Val → List Nat → List Nat × Option Val × Flags
  | acc, [] => ([], acc, {})
  | acc, x :: xs =>
    let v := val32 x
    let (s, f) : Val × Flags := match acc with
      | none => (v, if v.isNan then fNanIn else {})
      | some .nan => (.nan, if v.isNan then fNanIn else {})
      | some a => exactSum [a, v]
    let (before, g) : Nat × Flags := match acc with
      | none => (0, {})
      | some a => rnd sFP32 a {}
    let (after, h) := rnd sFP32 s f
    let (r, t, k) := scanFp excl (some s) xs
    ((if excl then before else after) :: r, t, fOr (fOr f k) (if excl then g else h))

/-- SCAN (R159; 07 R218). -/
def Work.scanOp (o : ScanOp) (w : Work) : Work :=
  let k := scanBytes o.typ
  let w := (w.rowsOk o.srcRow (ceilDiv (k * o.n) 512)).rowsOk o.dstRow (ceilDiv (k * o.n) 512)
  let w := w.darnRead (512 * o.srcRow) (k * o.n)
  if !w.ok then w
  else
    let xs := elems k o.n (w.x.shelfRead (512 * o.srcRow) (k * o.n))
    let (out, total, fl) : List Nat × Nat × Flags :=
      if o.typ = 2 then
        let (r, t, f) := scanFp o.excl none xs
        match t with
        | none => (r, 0, f)
        | some v => let (b, g) := rnd sFP32 v {}; (r, b, fOr f g)
      else
        let (r, t, wrap) := scanInt (8 * k) (o.typ = 1) o.excl 0 xs
        (r, t, { overflow := wrap })
    let steps := ceilDiv o.n 512
    let (lanes, w) := (w.addFlags fl).laneErr steps o.n (8 * k) (fun i => i) (fun i => sliceAt (leBytes k (xs.getD i 0)) 0 (roundUp k 4)) out
    let outs := w.sortErr (lanes ++ [total])
    let w := w.sortCheck (outs.getD o.n 0 = total) outs (out ++ [total])
    let w := w.putStream o.dstRow ((outs.take o.n).flatMap fun v => leBytes k v) []
    let w := w.putStream o.totalRow (leBytes 8 (outs.getD o.n 0)) []
    { w with x := { w.x with vecSteps := wrapAdd 64 w.x.vecSteps steps, shadowStep := w.x.shadowStep + steps } }

/-! DIGEST -/

/-- DIGEST (R183; 07 R227). -/
def Work.digestOp (o : DigestOp) (w : Work) : Work :=
  let (_, _, w) := w.desc o.desc
  let w := w.failWhen (!o.first && w.x.sha.isNone) 0x0F
  let w := (w.rowsOk o.srcRow (ceilDiv o.bytes 512)).darnRead (512 * o.srcRow) o.bytes
  if !w.ok then w
  else
    let st := if o.first then shaStart else w.x.sha.getD shaStart
    let st := st.absorb (w.x.shelfRead (512 * o.srcRow) o.bytes)
    if o.last then
      let w := { w with x := { w.x with sha := none } }
      w.putStream o.outRow (sliceAt (st.finish.take 16) 0 512) []
    else { w with x := { w.x with sha := some st } }

end Sys2Proof.Machine
end

