-- ==== Sys2Proof/Machine/Vector.lean ====
section
/-! DEFINITION. The vector and statistics units: VEC in element form (04 R121; 07 R219, R220), the fused
kernels (04 R122; 06 R179), SIZE and QUANT (04 R123), UPDATE and STAT (04 R124, R125; 06 R182). -/

namespace Sys2Proof.Machine

open Sys2Proof

/-- Vector steps are counted and rotate the shadow circuits (06 R180, R189). -/
def Work.vecTicks (w : Work) (n : Nat) : Work :=
  { w with x := { w.x with vecSteps := wrapAdd 64 w.x.vecSteps n, shadowStep := w.x.shadowStep + n } }

def chunks (n : Nat) : Nat := ceilDiv n 512

/-- An operand on entry: exact, FP48 through one rounding to FP32 (06 R177). -/
def vecEntry (f : Fmt) (raw : Nat) : Val × Flags :=
  if f = .fp48 then (let (b, g) := rnd sFP32 (val48 raw) {}; (val32 b, g)) else (f.val raw, {})

/-- A sum whose first term may be a NaN that an earlier step made. -/
def addTo (p : Val × Flags) (c : Val) : Val × Flags :=
  if p.1.isNan then (.nan, fOr p.2 (if c.isNan then fNanIn else {}))
  else let (s, f) := vAdd p.1 c; (s, fOr p.2 f)

/-- The FP32 result of one lane (04 R121), with a draw when its rounding is stochastic. -/
def vecLane (op : Nat) (a b c : Val) (d : Option Nat) : Nat × Flags :=
  let r (v : Val × Flags) : Nat × Flags := rnd sFP32 v.1 v.2 d
  match op with
  | 0x00 => r (vAdd a b)
  | 0x01 => r (vSub a b)
  | 0x02 => r (vMul a b)
  | 0x03 => r (vDiv a b)
  | 0x04 => r (addTo (vMul a b) c)
  | 0x05 => r (vMin a b)
  | 0x06 => r (vMax a b)
  | 0x07 => crSqrt a
  | 0x08 => crRsqrt a
  | 0x09 => r (vRecip a)
  | 0x0A => crExp a
  | 0x0B => crExp2 a
  | 0x0C => crLog a
  | 0x0D => crLog2 a
  | 0x0E => crTanh a
  | 0x0F => crSigmoid a
  | _ => crErf a

/-- The integer operations, exact (04 R121). -/
def vecInt (op : Nat) (a b : Int) : Int :=
  match op with
  | 0x14 => a + b
  | 0x15 => a - b
  | _ => a * b

/-- One written element of VEC: its lane result, then the conversion into OFMT (R219). -/
def vecElem (op : Nat) (f g : Fmt) (a b c : Nat) (d : Option Nat) : Nat × Flags :=
  if 0x14 ≤ op then
    let e := vecInt op (sext f.width a) (sext f.width b)
    let m := sext f.width (trunc f.width e)
    let (v, fl) := g.conv (.fin (m < 0) m.natAbs 0) none
    (v, fOr fl { overflow := m ≠ e })
  else
    let (x, fx) := vecEntry f a
    let (y, fy) := vecEntry f b
    let (z, fz) := vecEntry f c
    let used := fOr fx (fOr (if vecUsesB op then fy else {}) (if vecUsesC op then fz else {}))
    if op = 0x13 then
      let (v, fl) := g.conv x d
      (v, fOr used fl)
    else
      let (r, fl) := vecLane op x y z (if g = .fp32 then d else none)
      if g = .fp32 then (r, fOr used fl)
      else
        let (v, fc) := g.conv (val32 r) d
        (v, fOr used (fOr fl fc))

/-- One segment of SUM or DOT: the exact sum, rounded once, then converted (R121, R219). -/
def vecSegment (dot : Bool) (f g : Fmt) (xs : List (Nat × Nat)) : Nat × Flags :=
  let ts := xs.map fun p =>
    let (a, fa) := vecEntry f p.1
    if dot then
      let (b, fb) := vecEntry f p.2
      let (v, fv) := vMul a b
      (v, fOr fa (fOr fb fv))
    else (a, if a.isNan then fOr fa fNanIn else fa)
  let fl := ts.foldl (fun a t => fOr a t.2) {}
  let (s, fs) : Val × Flags := if ts.any (fun t => t.1.isNan) then (.nan, {}) else exactSum (ts.map (·.1))
  let (r, fr) := rnd sFP32 s (fOr fl fs)
  if g = .fp32 then (r, fr)
  else
    let (v, fc) := g.conv (val32 r) none
    (v, fOr fr fc)

/-- Cuts a list into segments of `k`; the last may be shorter. -/
def segments {α : Type} (k : Nat) : Nat → List α → List (List α)
  | 0, _ => []
  | n + 1, xs => if xs.isEmpty then [] else xs.take k :: segments k n (xs.drop k)

/-- Compute steps of R177 for one 512-lane result. -/
def vecCost (op : Nat) : Nat :=
  if op = 3 || (7 ≤ op && op ≤ 9) then 4 else if 0x0A ≤ op && op ≤ 0x10 then 8 else 1

/-- Reads the packed elements of an operand, consuming stain; a broadcast reads element 0. -/
def Work.operand (w : Work) (used bc : Bool) (f : Fmt) (row n : Nat) : List Nat × Work :=
  if !used then ([], w)
  else
    let k := if bc then 1 else n
    let w := w.rowsOk row (packedRows f.width k)
    let w := w.darnRead (512 * row) (512 * packedRows f.width k)
    if !w.ok then ([], w)
    else
      let xs := (w.x.packed f.width row k).map (·.1)
      (if bc then List.replicate n (xs.getD 0 0) else xs, w)

/-- An operand of a captured result: at its format's width, padded to a multiple of 4 bytes (14 R399). -/
def opBytes (f : Fmt) (v : Nat) : List Byte := leBytes (roundUp (f.width / 8) 4) v

/-- VEC in element form (R219). -/
def Work.vecOp (o : VecOp) (w : Work) : Work :=
  match Fmt.ofCode o.ifmt, Fmt.ofCode o.ofmt with
  | some f, some g =>
    if o.n = 0 then w
    else
      let sum := vecIsSum o.op
      let (as, w) := w.operand true false f o.aRow o.n
      let (bs, w) := w.operand (vecUsesB o.op) o.bbc f o.bRow o.n
      let (cs, w) := w.operand (vecUsesC o.op) o.cbc f o.cRow o.n
      let seg := if o.cRow = 0 then o.n else o.cRow
      let outN := if sum then ceilDiv o.n seg else o.n
      let w := w.rowsOk o.dRow (packedRows g.width outN)
      if !w.ok then w
      else
        let sr := o.sr && g ≠ .fp48
        let res : List (Nat × Flags) :=
          if sum then (segments seg o.n (as.zip (if vecUsesB o.op then bs else as))).map (vecSegment (o.op = 0x12) f g)
          else (List.range o.n).map fun i =>
            vecElem o.op f g (as.getD i 0) (bs.getD i 0) (cs.getD i 0)
              (if sr then some (Sys2Proof.draw w.x.seed (w.drawNo + i)) else none)
        let w := res.foldl (fun w r => w.addFlags r.2) w
        let steps := if sum then (segments seg o.n as).foldl (fun a s => a + chunks s.length + 16) 0 else chunks o.n * vecCost o.op
        let ops (i : Nat) : List Byte :=
          opBytes f (as.getD i 0) ++ (if vecUsesB o.op then opBytes f (bs.getD i 0) else []) ++
            (if vecUsesC o.op then opBytes f (cs.getD i 0) else [])
        let (outs, w) := w.laneErr steps o.n g.width (fun i => if sum then i / seg else i) ops (res.map (·.1))
        let w := w.putPacked g.width o.dRow (outs.map fun v => (v, false))
        { w.vecTicks steps with drawNo := w.drawNo + (if sr then o.n else 0) }
  | _, _ => w.fail 0x04

/-! Fused kernels. Within a kernel NAN_IN comes from operands alone. -/

/-- FP32 values with the flags of the lines that made them. -/
structure Line where
  bits : List Nat
  flags : Flags := {}

def noNan (f : Flags) : Flags := { f with nanIn := false }

/-- One rounding to FP32 of an exact value. -/
def r32 (v : Val × Flags) : Nat × Flags := let (b, f) := rnd sFP32 v.1 v.2; (b, noNan f)

def Line.vals (l : Line) : List Val := l.bits.map val32

def lineOf (xs : List (Nat × Flags)) : Line := { bits := xs.map (·.1), flags := xs.foldl (fun a x => fOr a x.2) {} }

/-- A product whose first factor may be a NaN made earlier. -/
def mulTo (p : Val × Flags) (c : Val) : Val × Flags :=
  if p.1.isNan then p else let (s, f) := vMul p.1 c; (s, fOr p.2 f)

/-- The exact sum of values, some of which may be NaN made earlier. -/
def sumOf (vs : List (Val × Flags)) : Val × Flags :=
  let fl := vs.foldl (fun a v => fOr a v.2) {}
  if vs.any (fun v => v.1.isNan) then (.nan, fl) else let (s, f) := exactSum (vs.map (·.1)); (s, fOr fl f)

def plain (v : Val) : Val × Flags := (v, {})

/-- An exact sum divided by the count of a row. -/
def divN (v : Val × Flags) (n : Nat) : Val × Flags :=
  if v.1.isNan then v else let (q, f) := vDiv v.1 (.fin false n 0); (q, fOr v.2 f)

/-- The maximum of a row (R122). -/
def rowMax : List Val → Val
  | [] => .inf true
  | v :: vs => (vMax v (rowMax vs)).1

/-- The exponentials of a row with maximum `m` (R122). -/
def softmaxExps (m : Val) (xs : List Val) : Line :=
  lineOf (xs.map fun x =>
    let (d, f) := r32 (vSub x m)
    let (b, g) := crExp (val32 d)
    (b, fOr f (noNan g)))

/-- Soft-maximum forward (R122). -/
def softmaxRow (xs : List Val) : Line :=
  let m := rowMax xs
  if m = .inf true then { bits := xs.map fun _ => 0 }
  else
    let e := softmaxExps m xs
    let (s, fs) := r32 (sumOf (e.vals.map plain))
    let y := lineOf (e.vals.map fun v => r32 (vDiv v (val32 s)))
    { bits := y.bits, flags := fOr e.flags (fOr fs y.flags) }

/-- Soft-maximum backward (R179). -/
def softmaxBackRow (ys dys : List Val) : Line :=
  let (d, fd) := r32 (sumOf ((ys.zip dys).map fun p => vMul p.2 p.1))
  let r := lineOf ((ys.zip dys).map fun p => r32 (
    let diff := vSub p.2 (val32 d)
    if diff.1.isNan then diff else let (v, f) := vMul p.1 diff.1; (v, fOr diff.2 f)))
  { bits := r.bits, flags := fOr fd r.flags }

/-- mu and r of a row (R122), with their flags. -/
def normStats (rms : Bool) (eps : Val) (xs : List Val) : Val × Val × Flags :=
  let n := xs.length
  let (mu, f) : Nat × Flags := if rms then (0, {}) else r32 (divN (sumOf (xs.map plain)) n)
  let m := val32 mu
  let sq := xs.map fun x => let d := vSub x m; if d.1.isNan then d else let (v, g) := vMul d.1 d.1; (v, fOr d.2 g)
  let (ne, fe) := vMul (.fin false n 0) eps
  let (q, fq) := r32 (divN (sumOf (sq ++ [(ne, fe)])) n)
  let (r, fr) := crRsqrt (val32 q)
  (m, val32 r, fOr f (fOr fq (noNan fr)))

/-- Normalization forward (R122). -/
def normRow (rms : Bool) (eps : Val) (gamma beta xs : List Val) : Line :=
  let (mu, r, f) := normStats rms eps xs
  let y := lineOf (xs.zipIdx.map fun x => r32 (
    let p := mulTo (mulTo (vSub x.1 mu) r) (gamma.getD x.2 .zero)
    if rms then p else addTo p (beta.getD x.2 .zero)))
  { bits := y.bits, flags := fOr f y.flags }

/-- xh and gh of a row (R179). -/
def normHat (mu r : Val) (xs : List Val) : Line := lineOf (xs.map fun x => r32 (mulTo (vSub x mu) r))

def normGrad (gamma dys : List Val) : Line := lineOf (dys.zipIdx.map fun d => r32 (vMul d.1 (gamma.getD d.2 .zero)))

/-- Normalization backward (R179): dx, and the terms of dgamma and dbeta. -/
def normBackRow (rms : Bool) (eps : Val) (gamma xs dys : List Val) : Line × List (Val × Flags) × List (Val × Flags) :=
  let n := xs.length
  let (mu, r, f) := normStats rms eps xs
  let xh := normHat mu r xs
  let gh := normGrad gamma dys
  let (a, fa) : Nat × Flags := if rms then (0, {}) else r32 (divN (sumOf (gh.vals.map plain)) n)
  let (b, fb) := r32 (divN (sumOf ((gh.vals.zip xh.vals).map fun p => vMul p.1 p.2)) n)
  let dx := lineOf ((gh.vals.zip xh.vals).map fun p => r32 (
    let t := vMul p.2 (val32 b)
    let s := sumOf [plain p.1, plain (val32 a).neg, (t.1.neg, t.2)]
    if s.1.isNan then s else let (v, g) := vMul r s.1; (v, fOr s.2 g)))
  ({ bits := dx.bits, flags := fOr f (fOr xh.flags (fOr gh.flags (fOr fa (fOr fb dx.flags)))) },
   (dys.zip xh.vals).map fun p => vMul p.1 p.2, dys.map plain)

/-- FP32 values of consecutive shelf bytes. -/
def Bench.fpRow (x : Bench) (row n : Nat) : List Val := (elems 4 n (x.shelfRead (512 * row) (4 * n))).map val32

/-- NAN_IN of operands. -/
def nanFlag (vs : List Val) : Flags := if vs.any Val.isNan then fNanIn else {}

/-- Vector steps of a fused kernel, per row (R177, R178). -/
def fusedSteps (base per passes streams n : Nat) : Nat :=
  per * chunks n + base + (if chunks n * streams ≤ 64 then 0 else (passes - 1) * streams * chunks n)

/-- Which fused kernel (R221). -/
inductive Kernel where
  | softF | softB | normF | normB
  deriving DecidableEq, Repr

/-- The resident streams of a kernel and their values for one row (R178). -/
def kernelStreams (k : Kernel) (rms : Bool) (eps : Val) (gamma xs ys : List Val) : List (List Nat) :=
  let bits (vs : List Val) : List Nat := vs.map fun v => (rne32 v).1
  match k with
  | .softF =>
    let m := rowMax xs
    [bits xs, if m = .inf true then xs.map fun _ => 0 else (softmaxExps m xs).bits]
  | .softB => [bits xs, bits ys]
  | .normF => [bits xs]
  | .normB =>
    let (mu, r, _) := normStats rms eps xs
    [bits xs, bits ys, (normHat mu r xs).bits, (normGrad gamma ys).bits]

/-- What the row file holds of one row: every stream whole when the row is resident, else the chunk in hand of each (R178).
Entry 512 e + l is value l of row-file entry e. -/
def rowFileOf (n : Nat) (streams : List (List Nat)) : List (Nat × BitVec 32) :=
  let ch := chunks n
  let put (at_ : Nat) (vs : List Nat) : List (Nat × BitVec 32) := vs.zipIdx.map fun v => (at_ + v.2, BitVec.ofNat 32 v.1)
  if ch * streams.length ≤ 64 then (streams.zipIdx.map fun s => put (512 * ch * s.2) s.1).flatten
  else (streams.zipIdx.map fun s => put (512 * s.2) (s.1.drop (512 * (ch - 1)))).flatten

/-- Row-file entries that a kernel with `s` streams uses, and the chunk of the row that an entry holds; none for every chunk
of a row that is not resident. -/
def rowEntries (n s : Nat) : Nat := if chunks n * s ≤ 64 then chunks n * s else s

def entryChunk (n s e : Nat) : Option Nat := if chunks n * s ≤ 64 then some (e % chunks n) else none

/-- The fused kernels of VEC (R221). -/
def Work.fusedOp (k : Kernel) (o : FusedOp) (w : Work) : Work :=
  let n := o.nlen
  if n = 0 || o.rows = 0 then w
  else
    let rr := ceilDiv n 128
    let norm := k = .normF || k = .normB
    let back := k = .softB || k = .normB
    let w := (w.rowsOk o.xRow (rr * o.rows)).darnRead (512 * o.xRow) (512 * rr * o.rows)
    let w := if back then (w.rowsOk o.dyRow (rr * o.rows)).darnRead (512 * o.dyRow) (512 * rr * o.rows) else w
    let pRows := 1 + (if o.rms then rr else 2 * rr)
    let w := if norm then (w.rowsOk o.pRow pRows).darnRead (512 * o.pRow) (512 * pRows) else w
    let dRows := rr * o.rows + (if k = .normB then (if o.rms then rr else 2 * rr) else 0)
    let w := w.rowsOk o.dRow dRows
    if !w.ok then w
    else
      let x := w.x
      let eps := val32 (leNat (x.shelfRead (512 * o.pRow) 4))
      let gamma := x.fpRow (o.pRow + 1) n
      let beta := if o.rms then [] else x.fpRow (o.pRow + 1 + rr) n
      let xr (i : Nat) : List Val := x.fpRow (o.xRow + rr * i) n
      let yr (i : Nat) : List Val := x.fpRow (o.dyRow + rr * i) n
      let lines : List (Line × List (Val × Flags) × List (Val × Flags)) := (List.range o.rows).map fun i =>
        match k with
        | .softF => (softmaxRow (xr i), [], [])
        | .softB => (softmaxBackRow (xr i) (yr i), [], [])
        | .normF => (normRow o.rms eps gamma beta (xr i), [], [])
        | .normB => normBackRow o.rms eps gamma (xr i) (yr i)
      let operandNan := (List.range o.rows).foldl (fun f i =>
        fOr f (fOr (nanFlag (xr i)) (if back then nanFlag (yr i) else {})))
        (if norm then nanFlag (eps :: gamma ++ beta) else {})
      let steps := o.rows * (match k with
        | .softF => fusedSteps 40 14 3 2 n
        | .softB => fusedSteps 30 4 2 2 n
        | .normF => fusedSteps 50 8 (if o.rms then 2 else 3) 1 n
        | .normB => fusedSteps 60 12 (if o.rms then 3 else 4) 4 n)
      let ch := chunks n
      let place (i : Nat) : Nat := if i % (512 * ch) < n then i / (512 * ch) * n + i % (512 * ch) else n * o.rows
      let ops (i : Nat) : List Byte :=
        let j := i % (512 * ch)
        let rd (row : Nat) : List Byte := x.shelfRead (512 * (row + rr * (i / (512 * ch))) + 4 * j) 4
        rd o.xRow ++ (if back then rd o.dyRow else [])
      let (outs, w) := w.laneErr steps (512 * ch * o.rows) 32 place ops (lines.flatMap fun l => l.1.bits)
      let rowBytes (bits : List Nat) : List Byte := sliceAt (bits.flatMap fun b => leBytes 4 b) 0 (512 * rr)
      let acc (sel : Line × List (Val × Flags) × List (Val × Flags) → List (Val × Flags)) : List (Val × Flags) :=
        (List.range n).map fun j => sumOf (lines.map fun l => (sel l).getD j (.zero, {}))
      let sg := if k = .normB then acc (·.2.1) else []
      let sb := if k = .normB && !o.rms then acc (·.2.2) else []
      let dg := lineOf (sg.map r32)
      let db := lineOf (sb.map r32)
      let out := (List.range o.rows).flatMap (fun i => rowBytes ((outs.drop (n * i)).take n)) ++
        (if k = .normB then rowBytes dg.bits else []) ++ (if k = .normB && !o.rms then rowBytes db.bits else [])
      let fl := lines.foldl (fun f l => fOr f l.1.flags) (fOr dg.flags db.flags)
      let last := kernelStreams k o.rms eps gamma (xr (o.rows - 1)) (yr (o.rows - 1))
      let used := rowEntries n last.length
      let hits := w.u.rowUe.filter fun e => e.1 < o.rows && e.2 < used
      let rowSt := (List.range o.rows).flatMap fun i => List.replicate (8 * rr) (hits.any fun e => e.1 = i)
      let accSt := (List.range (8 * rr)).map fun g => hits.any fun e => match entryChunk n last.length e.2 with
        | some c => c = g / 32
        | none => true
      let w := (w.addFlags (fOr fl operandNan)).putStream o.dRow out (rowSt ++ accSt ++ accSt)
      (Work.vecTicks { w with x := { w.x with
        rowFile := rowFileOf n last
        rowMarks := (w.x.rowMarks.filter fun e => used ≤ e) ++ (hits.filter fun e => e.1 + 1 = o.rows).map (·.2)
        accGamma := if k = .normB then sg.map (·.1) else w.x.accGamma
        accBeta := if k = .normB && !o.rms then sb.map (·.1) else w.x.accBeta } } steps)

/-! SIZE and QUANT -/

/-- The greater magnitude of two; NaN when either is (R123). -/
def amax (a b : Val) : Val := (vMax a.abs b.abs).1

/-- The tensor scale t of R123, and its flags. -/
def sizeScale (a : Val) (target : Nat) : Nat × Flags :=
  match a with
  | .nan => (sFP32.nan, {})
  | .inf _ => (sFP32.nan, {})
  | .fin _ m _ =>
    if m = 0 then (0x3F800000, {})
    else
      let (q, f) := vDiv (val32 target) a
      let (b, g) := rnd sFP32 q f
      if (val32 b).isInf then (sFP32.maxCode (b / 2 ^ 31 % 2 = 1), g) else (b, g)

/-- SIZE (R222; 04 R123). DESIGN CHOICE (log 129): an FP48 value is rounded to FP32 on entry, as R177 has it for VEC. -/
def Work.sizeOp (o : SizeOp) (w : Work) : Work :=
  match Fmt.ofCode o.ifmt with
  | none => w.fail 0x04
  | some f =>
    let (xs, w) := w.operand (o.n ≠ 0) false f o.srcRow o.n
    if !w.ok then w
    else
      let vs := xs.map (vecEntry f)
      let start : Val := if o.first then .zero else val32 ((w.x.sizing.getD 0).toNat)
      let a := vs.foldl (fun a v => amax a v.1) start
      let w := vs.foldl (fun w v => w.addFlags (fOr v.2 (if v.1.isNan then fNanIn else {}))) w
      let (outs, w) := w.laneErr (chunks o.n) o.n 32 (fun _ => 0) (fun i => opBytes f (xs.getD i 0)) [(rne32 a).1]
      let bits := outs.getD 0 0
      let w := { w with x := { w.x with sizing := some (BitVec.ofNat 32 bits) } }
      let w := w.vecTicks (chunks o.n)
      if o.last then
        let (t, ft) := sizeScale (val32 bits) o.tgt.toNat
        (w.addFlags ft).putStream o.outRow (sliceAt (leBytes 4 bits ++ leBytes 4 t) 0 512) []
      else w

/-- One MX block (R123): scale byte, element codes, flags; `d` gives the draw of each element. -/
def quantBlock (f : Fmt) (t : Val) (vs : List Val) (d : Nat → Option Nat) : Nat × List Nat × Flags :=
  let odd := t :: vs
  if odd.any fun v => v.isNan || v.isInf then
    (0xFF, vs.map fun _ => 0, { nanIn := odd.any Val.isNan, invalid := odd.any Val.isInf })
  else
    let ps := vs.map fun v => (vMul v t).1
    let a := ps.foldl amax .zero
    let x : Int := if a.isZero then -127 else vLog2Floor a - f.mxEmax
    let x := min (max x (-127)) 127
    let es := ps.zipIdx.map fun p => f.conv (p.1.shift (-x)) (d p.2)
    ((x + 127).toNat, es.map (·.1), es.foldl (fun a e => fOr a e.2) {})

/-- One INT8 element of QUANT (R223). -/
def quantInt (t v : Val) (d : Option Nat) : Nat × Flags :=
  if t.isNan then (0, fNanIn)
  else if t.isInf then (0, fInvalid)
  else
    let (p, f) := vMul v t
    let (b, g) := convInt 8 p d
    (b, fOr f (if p.isNan then {} else g))

/-- QUANT (R123, R223). -/
def Work.quantOp (o : QuantOp) (w : Work) : Work :=
  match Fmt.ofCode o.ofmt with
  | none => w.fail 0x04
  | some f =>
    if o.n = 0 then w
    else
      let (xs, w) := w.operand true false .fp32 o.srcRow o.n
      let w := w.darnRead (512 * o.tRow) 8
      let mx := f.isMx
      let ebytes := ceilDiv (o.n * f.width) 8
      let w := w.rowsOk o.outRow (ceilDiv ebytes 512)
      let w := if mx then w.rowsOk o.scaleRow (ceilDiv (o.n / 32) 512) else w
      if !w.ok then w
      else
        let t := val32 (leNat (w.x.shelfRead (512 * o.tRow + 4) 4))
        let vs := xs.map val32
        let d (i : Nat) : Option Nat := if o.sr then some (Sys2Proof.draw w.x.seed (w.drawNo + i)) else none
        let blocks : List (Nat × List Nat × Flags) :=
          if mx then (segments 32 o.n vs).zipIdx.map fun b => quantBlock f t b.1 fun i => d (32 * b.2 + i)
          else [(0, (vs.zipIdx.map fun v => (quantInt t v.1 (d v.2)).1),
            (vs.zipIdx.foldl (fun a v => fOr a (quantInt t v.1 (d v.2)).2) {}))]
        let w := blocks.foldl (fun w b => w.addFlags b.2.2) w
        let (codes, w) := w.laneErr (chunks o.n) o.n f.width (fun i => i)
          (fun i => leBytes 4 (xs.getD i 0) ++ w.x.shelfRead (512 * o.tRow + 4) 4) (blocks.flatMap fun b => b.2.1)
        let w := w.putStream o.outRow (leBytes ebytes (packBits f.width codes)) []
        let w := if mx then w.putStream o.scaleRow (blocks.map fun b => BitVec.ofNat 8 b.1) [] else w
        { w.vecTicks (chunks o.n) with drawNo := w.drawNo + (if o.sr then o.n else 0) }

/-! UPDATE and STAT -/

/-- The parameter row of UPDATE (07 R226). -/
structure UpdParams where
  beta1 : Val
  c1 : Val
  beta2 : Val
  c2 : Val
  bc1 : Val
  bc2 : Val
  eps : Val
  lr : Val
  lam : Val
  k : Int
  gs : Int
  count : Nat

def Bench.updParams (x : Bench) (row : Nat) : UpdParams :=
  let d := x.shelfRead (512 * row) 44
  let v (i : Nat) : Val := val32 (leAt d (4 * i) 4)
  { beta1 := v 0, c1 := v 1, beta2 := v 2, c2 := v 3, bc1 := v 4, bc2 := v 5, eps := v 6, lr := v 7, lam := v 8
    k := sext 8 (byteAt d 0x24), gs := sext 8 (byteAt d 0x25), count := leAt d 0x28 4 }

/-- What UPDATE makes of one weight: w1, d1, m1, v1, the exact u and w1, and flags. -/
structure Updated where
  w1 : Nat
  d1 : Int
  m1 : Nat
  v1 : Nat
  u : Val
  flags : Flags

/-- The darn word of R124. -/
def darnOf (s w1 : Val) : Int :=
  match w1 with
  | .fin _ _ _ =>
    match (vSub s w1).1 with
    | .fin n m e =>
      let i := roundInt n m (e - ulpExp w1 + 16) none
      min (max i (-32768)) 32767
    | _ => 0
  | _ => 0

/-- R124 for one weight. -/
def updateOne (p : UpdParams) (w m v g : Val) (d : Int) : Updated :=
  if [w, m, v, g, p.beta1, p.c1, p.beta2, p.c2, p.bc1, p.bc2, p.eps, p.lr, p.lam].any Val.isNan then
    ⟨sFP32.nan, 0, sFP32.nan, sFP32.nan, .nan, fNanIn⟩
  else
    let gx := g.shift p.gs
    let (m1, f1) := r32 (sumOf [vMul p.beta1 m, vMul p.c1 gx])
    let (v1, f2) := r32 (sumOf [vMul p.beta2 v, mulTo (vMul p.c2 gx) gx])
    let (vb, f3) := r32 (mulTo (plain (val32 v1)) p.bc2)
    let (sq, f4) := crSqrt (val32 vb)
    let (den, f5) := r32 (addTo (plain (val32 sq)) p.eps)
    let num := mulTo (plain (val32 m1)) p.bc1
    let (delta, f6) := r32 (if num.1.isNan then num else
      if (val32 den).isNan then (.nan, {}) else let (q, f) := vDiv num.1 (val32 den); (q, fOr num.2 f))
    let t := sumOf [plain (val32 delta), vMul p.lam w]
    let u := if t.1.isNan then t else let (x, f) := vMul ((p.lr.shift p.k).neg) t.1; (x, fOr t.2 f)
    let dterm : Val := .fin (d < 0) d.natAbs (ulpExp w - 16)
    let s := sumOf [plain w, plain dterm, u]
    let (w1, f7) := r32 s
    ⟨w1, darnOf s.1 (val32 w1), m1, v1, u.1,
      noNan (fOr f1 (fOr f2 (fOr f3 (fOr f4 (fOr f5 (fOr f6 (fOr u.2 f7)))))))⟩

/-- Adds the square of a value to an exact sum. -/
def addSquare (acc v : Val) : Val :=
  if acc.isNan then .nan else let (q, _) := vMul v v; if q.isNan then .nan else (exactSum [acc, q]).1

/-- A fault at a read of the state rows that the order had none before: a stained line in master state, moments or darn words
(14 R407). -/
def Work.lostState (w : Work) (wasOk : Bool) : Work :=
  { w with fault := w.fault.map fun f => if wasOk && f.code = 0x24 then { f with lost := true } else f }

/-- UPDATE (R124; 07 R225, R226). A parameter row with a byte that is not zero where R226 asks zero is refused with 0x03 (10
R285). -/
def Work.updateOp (o : UpdateOp) (w : Work) : Work :=
  let (d, _, w) := if o.n = 0 then ({}, none, w) else w.desc o.desc
  let w := if o.n = 0 then w else w.darnRead (512 * o.pRow) 512
  let zero := (w.x.shelfRead (512 * o.pRow + 0x26) 2 ++ w.x.shelfRead (512 * o.pRow + 0x2C) 468).all (· = 0)
  let w := w.failWhen (o.n ≠ 0 && !zero) 0x03
  if !w.ok || o.n = 0 then w
  else
    let p := w.x.updParams o.pRow
    if d.idleSkip && p.count = 0 then w
    else
      let gf : Fmt := if o.gfmt then .bf16 else .fp32
      let groups := ceilDiv o.n 128
      let (gs, w) := w.operand true false gf o.gRow o.n
      let w := ((w.rowsOk o.stateRow (4 * groups)).darnRead (512 * o.stateRow) (512 * 4 * groups)).lostState w.ok
      if !w.ok then w
      else
        let x0 := w.x
        let at_ (i r k : Nat) : Nat := 512 * (o.stateRow + 4 * (i / 128) + r) + k * (i % 128)
        let res := gs.zipIdx.map fun c =>
          let rd (r : Nat) : Val := val32 (leNat (x0.shelfRead (at_ c.2 r 4) 4))
          (updateOne p (rd 0) (rd 1) (rd 2) (gf.val c.1) (sext 16 (leNat (x0.shelfRead (at_ c.2 3 2) 2))), c.2)
        let ops (i : Nat) : List Byte :=
          (List.range 3).flatMap (fun r => x0.shelfRead (at_ i r 4) 4) ++ opBytes gf (gs.getD i 0) ++
            sliceAt (x0.shelfRead (at_ i 3 2) 2) 0 4
        let (ws, w) := w.laneErr (18 * chunks o.n) o.n 32 (fun i => i) ops (res.map fun c => c.1.w1)
        let res := res.map fun c => ({ c.1 with w1 := ws.getD c.2 0 }, c.2)
        let x := res.foldl (fun x c =>
          let i := c.2
          (((x.shelfWrite (at_ i 0 4) (leBytes 4 c.1.w1)).shelfWrite (at_ i 1 4) (leBytes 4 c.1.m1)).shelfWrite
            (at_ i 2 4) (leBytes 4 c.1.v1)).shelfWrite (at_ i 3 2) (leBytes 2 (trunc 16 c.1.d1))) x0
        let slot := x0.slots.getD o.slot {}
        let slot : LayerSlot := {
          u := res.foldl (fun a c => addSquare a c.1.u) slot.u
          w := res.foldl (fun a c => addSquare a (val32 c.1.w1)) slot.w
          count := (slot.count + o.n) % 2 ^ 64 }
        let w := res.foldl (fun w c => w.addFlags c.1.flags) w
        Work.vecTicks { w with x := { x with slots := x.slots.set o.slot slot }, outRows := [(o.stateRow, 4 * groups)] } (18 * chunks o.n)

/-- Compares an FP32 value with lo/256: less, for `a` and `b` in order. -/
def lessThan256 (r : Val) (b : Int) : Bool := vLt r (.fin (b < 0) b.natAbs (-8))
def moreThan256 (r : Val) (b : Int) : Bool := vLt (.fin (b < 0) b.natAbs (-8)) r

/-- STAT (R125, R182; 07 R224). -/
def Work.statOp (o : StatOp) (w : Work) : Work :=
  let s := w.x.slots.getD o.slot {}
  let (u, fu) := r32 (plain s.u)
  let (wb, fw) := r32 (plain s.w)
  let (lu, _) := crLog2 (val32 u)
  let (lw, _) := crLog2 (val32 wb)
  let diff := vSub (val32 lu) (val32 lw)
  let half : Val := diff.1.shift (-1)
  let (r, fr) := r32 (half, diff.2)
  let rv := val32 r
  let undef := rv.isNan
  let low := !undef && lessThan256 rv (sext 16 o.lo) && !(rv = .inf true && sext 16 o.lo = -32768)
  let high := !undef && moreThan256 rv (sext 16 o.hi)
  let nan := s.u.isNan || s.w.isNan
  let w := w.addFlags (fOr fu (fOr fw (fOr fr { nanIn := nan })))
  let (outs, w) := w.laneErr 40 3 32 (fun i => i) (fun _ => leBytes 4 u ++ leBytes 4 wb) [u, wb, r]
  let record := leBytes 4 (outs.getD 0 0) ++ leBytes 4 (outs.getD 1 0) ++ leBytes 4 (outs.getD 2 0) ++ leBytes 1 (b2n low + 2 * b2n high + 4 * b2n undef) ++ [0, 0, 0] ++
    leBytes 8 s.count ++ leBytes 8 0
  let w := { w with x := { w.x with slots := w.x.slots.set o.slot {} } }
  w.putStream o.outRow (sliceAt record 0 512) []

end Sys2Proof.Machine
end

