-- ==== Sys2Proof/Machine/Hold.lean ====
section
/-! DEFINITION. Tokens (07 R199, R201), the timers of a partition that a held bench freezes (14 R398), holds
and their verdicts (05 R150; 14 R395 to R399, R417). -/

namespace Sys2Proof.Machine

open Sys2Proof

/-! Tokens -/

/-- Whether the benches of a partition run: it is loaded and not stopped. -/
def Partition.live (x : Partition) : Bool := x.loaded && !x.stopped

/-- Adds to a counter of a bench; past 0xFFFF_FFFF it saturates and the receiving bench takes order fault
0x0A (R201). A signal to an awaited counter restarts its token-wait timer (02 R62). -/
def State.addToken (s : State) (b : BenchId) (ctr v : Nat) : State :=
  if v = 0 then s
  else
    let n := ((s.bench b).tokens.getD ctr 0).toNat + v
    let waits (i : InFlight) : Bool := match i.dec.body with | .wait o => o.ctr = ctr | _ => false
    let s := s.modBench b fun x => { x with
      tokens := x.tokens.set ctr (BitVec.ofNat 32 (min n 0xFFFFFFFF))
      inflight := x.inflight.map fun i => if waits i then { i with since := s.now } else i }
    if n > 0xFFFFFFFF then s.benchFault b 0x0A 0 false 0 else s

/-- A signal from a bench to a logical bench of its partition: its own counters at once, another bench's by
way of its arriving signals (R201). -/
def State.signalTo (s : State) (b : BenchId) (logical ctr v : Nat) : State :=
  match (s.bench b).partOf with
  | none => s
  | some p =>
    match s.benchOfLogical p logical with
    | none => s
    | some t => if t = b then s.addToken b ctr v else s.modBench t fun x => { x with sigIn := x.sigIn ++ [(b.idx, ctr, v)] }

/-! Timers of a partition -/

/-- A stamp after a pause that began at `at_` and ends now: a timer goes on with the time that it had counted, and one
that began within the pause counts from its end (14 R398; 02 R65). -/
def resumed (at_ now since : Nat) : Nat := since + (now - max since at_)

/-- A stream-mode COMPACT that waits for its PRESS is watched as a seam queue is (06 R165). -/
def StreamCtx.resume (at_ now : Nat) (c : StreamCtx) : StreamCtx := { c with since := resumed at_ now c.since }

/-- The token-wait and seam-stall timers of a partition go on after a pause (14 R398; 02 R65); the stamps of orders that
wait for memory are left to the memory-request timers. -/
def State.resumeWaits (s : State) (p : PartId) (at_ : Nat) : State :=
  let go := resumed at_ s.now
  let s := s.modPart p fun x => { x with
    seams := x.seams.map fun q => { q with since := go q.since }
    reds := x.reds.map fun r => { r with since := go r.since } }
  s.modBenches (s.benchesOf p) fun x => { x with
    inflight := x.inflight.map fun i => if x.asksMemory i || x.adds i then i else { i with since := go i.since }
    streams := x.streams.map (StreamCtx.resume at_ s.now)
    recvs := x.recvs.map fun i => { i with since := go i.since }
    exchanges := x.exchanges.map fun i => { i with since := go i.since }
    folds := x.folds.map fun i => { i with since := go i.since } }

/-- The timers of a partition stand still from now on (R398). -/
def State.freeze (s : State) (p : PartId) : State :=
  s.modPart p fun x => { x with frozenSince := x.frozenSince.or (some s.now) }

/-- They run again once no bench of the partition is held, with the time they had counted (R398). -/
def State.thaw (s : State) (p : PartId) : State :=
  match (s.part p).frozenSince with
  | none => s
  | some t =>
    if (s.benchesOf p).any fun b => (s.bench b).hold ≠ .none then s
    else (s.resumeWaits p t).modPart p fun x => { x with frozenSince := none }

/-! Verdicts -/

def HoldKind.code : HoldKind → Nat
  | .none => 0
  | .examiner => 1
  | .paired => 2
  | .shadow => 3
  | .sortCheck => 4

/-- The format codes and the direction that a capture names (R399). -/
def captureFormats (x : Bench) (kind : HoldKind) (o : Order) : Nat × Nat × Nat :=
  let press (q : PressOp) : Nat × Nat × Nat :=
    if kind = .examiner then (Fmt.code ((x.tiles.getD (tileAt q.quad q.tile) {}).fmt.getD .e4m3), q.afmt, b2n q.dir)
    else (5, 5, b2n q.dir)
  match o with
  | .press q | .pressCompacted q => press q
  | .sort _ => (0xD, 0xD, 0)
  | .scan q => let f := if q.typ = 0 then 0xC else if q.typ = 1 then 0xD else 0; (f, f, 0)
  | .vec q => (q.ifmt, q.ifmt, 0)
  | .size q => (q.ifmt, q.ifmt, 0)
  | .merge _ => (5, 5, 0)
  | _ => (0, 0, 0)

/-- The captured operands of a verdict behind their header (R399): as many whole records as fit. `x` has the tiles that the
order names. -/
def Bench.capture (x : Bench) (kind : HoldKind) (o : Order) (line : Nat) (records : List (List Byte)) (index : Nat) : List Byte :=
  let (f, g, dir) := captureFormats x kind o
  let n := 2032 / max 1 (records.getD 0 []).length
  let rs := records.take n
  leBytes 1 f ++ leBytes 1 g ++ leBytes 1 kind.code ++ leBytes 1 dir ++ leBytes 2 line ++ leBytes 2 rs.length ++
  leBytes 4 index ++ leBytes 4 0 ++ rs.flatten

/-- The bench is no longer an arbiter once its closing rinse ends (R395). -/
def State.endRun (s : State) (r : ArbRun) : State :=
  let s := { s with integ := { s.integ with runs := s.integ.runs.filter fun q => q.held ≠ r.held } }
  let done (x : Bench) : Bench := { x with arbiter := false, closingRinse := true }
  let s := { s with benches := s.benches.modify r.arb done }
  { s with benches := s.benches.modify r.held fun x => { x with arbitrating := false } }

/-- The ticket of an arbiter run (R399). -/
def State.verdictTicket (s : State) (held : Nat) (arb : Option Nat) (kind : HoldKind) (v : Nat) (index : Nat) (p : PartId)
    (operands : Option (List Byte)) : State :=
  let unit (i : Nat) : Nat := 64 * (i / 34) + i % 34
  s.raise 0x2 (unit held) 0x0023 (some p)
    ([(0, .num (unit held))] ++ (match arb with | some a => [(1, .num (unit a))] | none => []) ++ [(2, .num kind.code), (3, .num v)] ++
      (if v = 0 then [] else [(4, .num index)])) operands

/-- The stain of an operand fault: the output rows and till entries of the held order (R397). -/
def Bench.stainOutputs (x : Bench) : Bench :=
  match x.heldOrder with
  | none => x
  | some i =>
    let rows := i.outRows.flatMap fun r => (List.range r.2).map (r.1 + ·)
    let ents := i.outTill.flatMap fun r => (List.range r.2).map (r.1 + ·)
    let x := rows.foldl (fun x r => (List.range 8).foldl (fun x g => x.shelfMark (8 * r + g) true) x) x
    { x with tillStain := ents.foldl setInsert x.tillStain }

/-- A held bench whose hold has had no verdict yet and whose run has not ended without one (R397, R417). -/
def Bench.unjudged (x : Bench) : Bool := x.hold ≠ .none && x.heldOrder.isSome

/-- Marks the hold of a bench as judged: it keeps its kind, and no further run starts for it. -/
def State.judge (s : State) (i : Nat) : State :=
  { s with benches := s.benches.modify i fun x => { x with heldOrder := none } }

/-- The checker of a kind of hold is off until the bench leaves its partition (R397). -/
def Bench.checkerFault (x : Bench) : Bench :=
  { x with
    hold := .none, heldOrder := none, withheld := [], unchecked := true, checkerOff := x.hold
    examEn := x.examEn && x.hold ≠ .examiner, shadowEn := x.shadowEn && x.hold ≠ .shadow
    pairedEn := x.pairedEn && x.hold ≠ .paired }

/-- Ends every other run of a partition that a verdict has stopped, without a verdict (R417). -/
def State.endOthers (s : State) (p : PartId) (held : Nat) : State :=
  (s.integ.runs.filter fun r => r.part = p && r.held ≠ held).foldl (fun s r =>
    ((s.endRun r).judge r.held).verdictTicket r.held (some r.arb) r.kind 0 0 p none) s

/-- A verdict on a held bench (R397, R399): counted, put in IN_ARB, ticketed and acted on; the index of the first differing output
is free where nothing was compared or nothing differs. It reaches the
partition only while that still has the epoch of the hold (R417). `v` is coded as IN_ARB VERDICT. -/
def State.verdict (s : State) (b : BenchId) (arb : Option Nat) (kind : HoldKind) (p : PartId) (epoch : BitVec 16)
    (v : Nat) (index : Option Nat) (records : Option (Nat → List Byte)) : State :=
  let x := s.bench b
  let free := (Config.freeWord s.freeCtr).toNat
  let a := arb.getD (free % 136)
  let index := index.getD (Config.noDifference s.freeCtr).toNat
  let s := s.tick
  let here := (s.part p).loaded && (s.part p).epoch == epoch && x.partOf = some p
  let s := { s with integ := { s.integ with lastArb := some (b.tile.val, b.phys.val, a / 34, a % 34, kind.code, v) } }
  let s := s.modBench b fun x => { x with
    arbitrating := false, verdicts := x.verdicts.modify (v - 1) fun n => satAdd 16 n 1 }
  let s := s.verdictTicket b.idx arb kind v index p (records.map (· index))
  let stop (s : State) : State :=
    if here && !(s.part p).stopped then (s.stopPart p 0 (some 0x0023) (some (0x0023, (s.part p).cls))).endOthers p b.idx else s
  match v with
  | 1 =>
    let s := if here && (s.part p).live then
        (s.bench b).withheld.foldl (fun s w => s.signalTo b w.bench w.ctr w.value) s
      else s
    let s := s.modBench b fun x =>
      let x := x.checkerFault
      if here then x else { x with asg := .retired, unchecked := false }
    s.thaw p
  | 3 =>
    let s := s.modBench b fun x => if here then x.stainOutputs else x
    let s := stop s
    (s.judge b.idx).modBench b fun x => { x with
      lastOperandFault := some s.now
      asg := match x.lastOperandFault with
        | some t => if s.now ≤ t + sec 86400 then .retired else x.asg
        | none => x.asg }
  | _ => ((stop s).judge b.idx).modBench b fun x => { x with asg := .retired }

/-! Holds -/

/-- A checker disagrees: the bench is held with its tokens withheld, its partition's timers stand still
(R150, R398), and with ARB_EN clear the verdict is unarbitrated at once (R397). A bench already held stays
as it is. -/
def State.holdBench (s : State) (b : BenchId) (kind : HoldKind) (i : InFlight) (line : Nat) : State :=
  let x := s.bench b
  match x.partOf with
  | none => s
  | some p =>
    if x.hold ≠ .none then s
    else
      let s := s.modBench b fun x => { x with hold := kind, holdSince := s.now, heldOrder := some i, heldLine := line }
      let s := s.freeze p
      if s.integ.arbEn then s else s.verdict b none kind p (s.part p).epoch 4 none none

end Sys2Proof.Machine
end

