-- ==== Sys2Proof/Machine/Execute.lean ====
section
/-! DEFINITION. One bench order carried out on the state: which bench may run it, the checks before it, the
effects of its unit, its fault (07 R235, R236), the upsets that strike it (05 R150; 06 R181; 14 R390 to
R392) and what it leaves for its completion. -/

namespace Sys2Proof.Machine

open Sys2Proof

/-! Where an order runs -/

/-- Whether the orders of a bench go on: the module runs outside hold, the tile is powered, and the bench
serves a live partition. -/
def State.benchLive (s : State) (b : BenchId) : Bool :=
  s.power = .running && !s.supply.hold && s.tileIsOn b.tile.val &&
  (match (s.bench b).partOf with | some p => (s.part p).live | none => false)

def State.work (s : State) (b : BenchId) (p : PartId) : Work :=
  { id := b, x := s.bench b, m := s.mem, pt := s.part p, geo := s.geo, now := s.now }

/-- The work of an order with what strikes it. A compacted PRESS in a slot looks for its stream among the stream-mode
COMPACTs issued ahead of it (07 R213). -/
def State.orderWork (s : State) (b : BenchId) (p : PartId) (u : Upset) (i : InFlight) : Work :=
  let x := s.bench b
  let before := x.inflight.takeWhile fun q => q.dec.seq ≠ i.dec.seq
  let streams := before.filterMap fun q => match q.dec.body with | .compactStream _ => some q.dec.seq | _ => none
  { s.work b p with
    drawNo := i.dec.drawBase.toNat, u := u, seq := i.dec.seq, mask := i.mask
    ahead := if before.length < x.inflight.length then some streams else none }

/-- What the static checks of an order look at. -/
def State.checkCtx (s : State) (b : BenchId) (p : PartId) : CheckCtx :=
  let x := s.bench b
  let q := s.part p
  { quad := x.quad, nBenches := q.benches.length
    outEnds := (q.seams.filter fun m => m.rcd.src = x.logical).map fun m => m.rcd.srcOut
    inEnds := (q.seams.filter fun m => m.rcd.dst = x.logical).map fun m => m.rcd.dstIn
    geo := s.geo, trees := q.trees, forceExact := x.forceExact }

/-- Draws of an order under given mask registers (04 R119); the region of a dense MERGE comes from its
descriptor. -/
def State.drawsOf (s : State) (b : BenchId) (p : PartId) (masks : List MaskReg) (o : Order) : Nat :=
  let press := match o with | .press q => pressDraws (s.bench b).quad masks q | _ => 0
  let region := match o with
    | .merge q =>
      let d := ((s.work b p).desc q.desc).1
      d.dim.getD 0 0 * d.dim.getD 1 0
    | _ => 0
  Order.draws press region o

/-! Seams (07 R202) -/

/-- COPY mode 1: the rows are on their way to the queue of the seam. -/
def Work.copyToSeamOp (o : CopyOp) (w : Work) : Work :=
  let w := w.rowsOk o.srcRow o.rows
  if !w.ok then w
  else
    let rows := w.x.seamRows o.srcRow o.rows
    let put (m : SeamState) : SeamState :=
      if m.rcd.src = w.x.logical && m.rcd.srcOut = o.seamEnd then
        { m with onTheWay := m.onTheWay ++ rows, senders := m.senders ++ List.replicate rows.length w.seq }
      else m
    { w with pt := { w.pt with seams := w.pt.seams.map put } }

/-- Moves up to `n` queued rows of an incoming end into the shelf from `row`; each row that leaves restarts
the seam-stall timer (02 R62). -/
def Work.takeSeam (w : Work) (now end_ row n : Nat) : Nat × Work :=
  match w.pt.seams.findIdx? fun m => m.rcd.dst = w.x.logical && m.rcd.dstIn = end_ with
  | none => (0, w)
  | some k =>
    let m := w.pt.seams.getD k default
    let got := m.rows.take n
    let x := w.x.putAll row (got.map fun r => (r.bytes, r.stain))
    let m' := { m with rows := m.rows.drop n, since := if got.isEmpty then m.since else now }
    (got.length, { w with x := x, pt := { w.pt with seams := w.pt.seams.set k m' } })

/-! The effect of an order on its unit -/

/-- The meaning of each order that a unit of the bench runs by itself. -/
def Order.effect (o : Order) (w : Work) : Work :=
  match o with
  | .fetch q => w.fetchOp q
  | .store q => w.storeOp q
  | .copyShelf q => w.copyShelfOp q
  | .copyToSeam q => w.copyToSeamOp q
  | .copyConvert q => w.copyConvertOp q
  | .loadw q => w.loadwOp q
  | .loadwMask q => w.loadwMaskOp q
  | .press q => w.pressOp q
  | .pressCompacted q => w.pressCompactedOp q
  | .compactCount q => w.compactCountOp q
  | .compactPlan q => w.compactPlanOp q
  | .compactStream q => w.compactStreamOp q
  | .compactCompress q => w.compactCompressOp q
  | .merge q => w.mergeOp q
  | .sort q => w.sortOp q
  | .scan q => w.scanOp q
  | .vec q => w.vecOp q
  | .softmaxForward q => w.fusedOp .softF q
  | .softmaxBackward q => w.fusedOp .softB q
  | .normForward q => w.fusedOp .normF q
  | .normBackward q => w.fusedOp .normB q
  | .size q => w.sizeOp q
  | .quant q => w.quantOp q
  | .stat q => w.statOp q
  | .update q => w.updateOp q
  | .digest q => w.digestOp q
  | _ => w

/-- After a fault the writes that the order made before it stand or not as the part has it (08 R244); what
its registers recorded stands, and so do the outputs that a PRESS wrote as stained (05 R141). -/
def Work.undo (w0 w : Work) : Work :=
  let m := { w.m with freeCtr := w.m.freeCtr + 1 }
  if w.wrote || Config.writesBeforeFault w0.m.freeCtr then { w with m := m }
  else
    { w with
      m := { w0.m with freeCtr := m.freeCtr }
      x := { w.x with
        shelf := w0.x.shelf, shelfStain := w0.x.shelfStain, till := w0.x.till, tillStain := w0.x.tillStain
        tiles := w0.x.tiles, masks := w0.x.masks, rowFile := w0.x.rowFile, slots := w0.x.slots, sha := w0.x.sha
        sizing := w0.x.sizing, streams := w0.x.streams, accGamma := w0.x.accGamma, accBeta := w0.x.accBeta
        scaleQueue := w0.x.scaleQueue } }

/-- Writes the result of an order back. -/
def State.putWork (s : State) (b : BenchId) (p : PartId) (w : Work) : State :=
  ((s.setBench b w.x).setMem w.m).modPart p fun x => { x with seams := w.pt.seams }

/-- A fault found while an order ran (07 R236; 06 R188). -/
def State.orderFault (s : State) (b : BenchId) (f : OFault) (d : DecOrder) : State :=
  let s := match f.dn with
    | none => s
    | some (unit, row, block, col, group) => s.modBench b fun x => { x with
        dnFault := x.dnFault.or (some (f.code, unit))
        dnWhere := if x.dnFault.isNone then (row, block, col, group) else x.dnWhere
        dnFaultStands := true }
  let s := match f.lost, (s.bench b).partOf with
    | true, some p => s.modPart p fun x => { x with stateLost := true }
    | _, _ => s
  s.benchFault b f.code (Order.opcode d.body) d.hdr.stream d.va f.kind

/-! Upsets -/

/-- Errors in the coded memories of a bench while an order runs: counted, and a double-bit error marks what it struck (14
R392). -/
def Bench.upsetSram (x : Bench) (u : Upset) : Bench :=
  let add (xs : List Nat) (i n : Nat) : List Nat := xs.modify i fun k => satAdd 16 k n
  let others := u.tillUe.length + u.rowUe.length + u.seamUe.length + b2n u.scaleUe
  { x with
    sram := add (add (add (add x.sram 0 u.shelfCe) 1 u.shelfUe.length) 2 u.otherCe) 3 others
    shelfStain := u.shelfUe.foldl setInsert x.shelfStain
    tillStain := u.tillUe.foldl setInsert x.tillStain
    rowMarks := (u.rowUe.map (·.2)).foldl setInsert x.rowMarks
    scaleMark := x.scaleMark || u.scaleUe }

/-- The same in the seam queues that the bench receives: the segment of the entry is stained. -/
def Partition.upsetSeams (x : Partition) (logical : Nat) (es : List (Nat × Nat × Nat)) : Partition :=
  { x with seams := es.foldl (fun ms e => ms.modify e.1 fun m =>
      if m.rcd.dst = logical then { m with rows := m.rows.modify e.2.1 fun r => { r with stain := r.stain.set e.2.2 true } } else m) x.seams }

/-- What strikes the memories of a bench. -/
def State.upsetSram (s : State) (b : BenchId) (p : PartId) (u : Upset) : State :=
  (s.modBench b (·.upsetSram u)).modPart p (·.upsetSeams (s.bench b).logical u.seamUe)

/-- The direction and quadrant of a PRESS. -/
def Order.dirQuad : Order → Bool × Nat
  | .press q | .pressCompacted q => (q.dir, q.quad)
  | _ => (false, 0)

/-- Whether an order is a PRESS. -/
def Order.isPress : Order → Bool
  | .press _ | .pressCompacted _ => true
  | _ => false

/-- One difference that a checker found: logged, and reported in an event record (05 R150, R152; 06 R181; 14 R390,
R391). -/
def State.reportCheck (s : State) (b : BenchId) (i : InFlight) (c : Compare) : State :=
  let event (s : State) (kind code : Nat) : State := s.benchEvent b kind code {} (Order.opcode i.dec.body) i.dec.va
  match c.kind with
  | .examiner => event s 0x06 c.code
  | .shadow =>
    event (s.modBench b fun x => { x with
      shadowCount := satAdd 16 x.shadowCount 1, shadowFirst := x.shadowFirst.or (some (c.code / 16, c.code % 16)) }) 0x07 c.code
  | .paired => event s 0x08 0
  | .sortCheck => event s 0x09 0
  | .none => s

/-- The differences that the checkers of an order found: an examiner's log counts the PRESS once with its first line, each
is reported, and the bench is held. -/
def State.upsetAfter (s : State) (b : BenchId) (i : InFlight) : State :=
  match i.checks with
  | [] => s
  | c :: _ =>
    let s := match i.checks.find? fun c => c.kind = .examiner with
      | some l =>
        let (dir, quad) := Order.dirQuad i.dec.body
        s.modBench b fun x => { x with
          examCount := satAdd 16 x.examCount 1, examFirst := x.examFirst.or (some (l.code, dir, quad)) }
      | none => s
    let s := i.checks.foldl (fun s c => s.reportCheck b i c) s
    s.holdBench b c.kind i (if c.kind = .paired || c.kind = .sortCheck then 0 else c.code)

/-! Out-of-bounds counts in memory (08 R245) -/

/-- A failed add: COUNT_LOST and its ticket; no partition fault. -/
def State.countLost (s : State) (b : BenchId) (p : PartId) : State :=
  (s.modBench b fun x => { x with countLost := true }).raise 0x2 (BenchId.unit b) 0x0004 (some p)

/-- Adds the count of one descriptor to its u64 at BD_OOB_BASE + 8 i; the fault of a stained line is returned. -/
def State.oobAdd (s : State) (b : BenchId) (p : PartId) (i n : Nat) : State × Bool :=
  let base := (s.bench b).oobBase
  if base = 0 || n = 0 then (s, false)
  else
    let va := base + 8 * i
    let (r, w) := (s.work b p).leaf va
    let s := s.putWork b p w
    match r with
    | .error _ => (s.countLost b p, false)
    | .ok e =>
      let pa := e.pa + (va - e.va)
      match s.mem.reach pa with
      | .ok k o =>
        match homeTile k with
        | none => (s.countLost b p, false)
        | some t =>
          if !e.write then (s.countLost b p, false)
          else
            let (_, stained, _, m) := s.mem.atomicAt t k o pa { atop := 1, width := 8, opnd := BitVec.ofNat 64 n } 0 (s.originOf (.bench b))
            ((s.setMem m).modBench b fun x => { x with bdLines := wrapAdd 64 x.bdLines 1 }, stained)
      | _ => (s.countLost b p, false)

/-- All the adds of an order. -/
def State.oobAdds (s : State) (b : BenchId) (p : PartId) (cs : List (Nat × Nat)) : State × Bool :=
  cs.foldl (fun a c => if a.2 then a else a.1.oobAdd b p c.1 c.2) (s, false)

/-! One order -/

/-- Whether the partition runs a tally step: a training step whose number the runtime wrote to IN_STEP before it began, a
multiple of TALLY_INTERVAL (14 R403). -/
def PartInteg.inTallyStep (x : PartInteg) (interval : Nat) : Bool :=
  match x.runStep with
  | some n => interval ≠ 0 && n % interval = 0
  | none => false

/-- The 16-byte contribution of a DIGEST with LAST, held in a tally step (14 R402, R403). -/
def State.contribute (s : State) (b : BenchId) (p : PartId) (o : DigestOp) : State :=
  let x := s.bench b
  let n := (s.part p).hdr.tallyInterval
  if !(s.integOf p).inTallyStep n then s
  else s.modInteg p fun g => { g with contribs := g.contribs ++ [(x.logical, o.desc, (x.getRow o.outRow).take 16)] }

/-- What an order leaves outside its own unit once it has run. -/
def State.after (s : State) (b : BenchId) (p : PartId) (o : Order) : State :=
  match o with
  | .update q => if q.n = 0 then s else s.modPart p fun x => { x with updated := true }
  | .digest q => if q.last then s.contribute b p q else s
  | _ => s

/-- Whether an order runs on after its effect: a stream-mode COMPACT until its PRESS has read its last vector (07 R208). -/
def Order.staysOn : Order → Bool
  | .compactStream _ => true
  | _ => false

/-- An order in its slot once its effect has taken place, with what it found. -/
def InFlight.done (i : InFlight) (now : Nat) (w : Work) : InFlight :=
  let failed := w.checks.filter Compare.fails
  { i with
    ran := !Order.staysOn i.dec.body, started := Order.staysOn i.dec.body || i.started, since := now, flags := w.flags, oob := w.oob
    outRows := w.outRows, outTill := w.outTill, checks := failed, outs := if failed.isEmpty then [] else w.outs, took := w.took }

/-- Runs an order on its unit: the state, and the order as it then stands in its slot; none after a fault. A difference that
a checker found is reported beside a fault (06 R185). -/
def State.runOrder (s : State) (b : BenchId) (p : PartId) (u : Upset) (i : InFlight) : State × Option InFlight :=
  let s := s.upsetSram b p u
  let w0 := s.orderWork b p u i
  let w := Order.effect i.dec.body w0
  let i := i.done s.now w
  match w.fault with
  | some f => (((s.putWork b p (w0.undo w)).orderFault b f i.dec).upsetAfter b i, none)
  | none => (((s.putWork b p w).after b p i.dec.body).upsetAfter b i, some i)

/-- COPY mode 2 takes what the queue holds of its rows; the rest follow as they arrive (R202). -/
def State.runFromSeam (s : State) (b : BenchId) (p : PartId) (u : Upset) (o : CopyOp) (i : InFlight) : State × Option InFlight :=
  let s := s.upsetSram b p u
  let w := (s.work b p).rowsOk o.dstRow o.rows
  match w.fault with
  | some f => (s.orderFault b f i.dec, none)
  | none =>
    let (n, w) := w.takeSeam s.now o.seamEnd o.dstRow o.rows
    (s.putWork b p w, some { i with started := true, got := n, ran := n = o.rows })

/-- Whether an order runs and completes behind an earlier one of its unit (07 R194, R195). The mover and the crossing
interface run their orders concurrently. In the mangle, a quadrant's PRESS orders follow one another, and so do its LOADW
orders; a LOADW waits for the PRESS orders of its own tile, and they for it, while one into the other tile proceeds (05
R140 to R142); the mask forms follow one another, and a PRESS holds the mask that it was accepted with (07 R211). -/
def Order.queues (a b : Order) : Bool :=
  match a, b with
  | .loadwMask _, .loadwMask _ => true
  | .loadwMask _, _ | _, .loadwMask _ => false
  | .loadw p, .loadw q => p.quad = q.quad
  | .press p, .press q | .press p, .pressCompacted q | .pressCompacted p, .press q | .pressCompacted p, .pressCompacted q =>
    p.quad = q.quad
  | .loadw p, .press q | .press q, .loadw p => p.quad = q.quad && p.tile = q.tile
  | .loadw p, .pressCompacted q | .pressCompacted q, .loadw p => p.quad = q.quad
  | a, b => Order.runsOn a ≠ .mover && Order.runsOn a ≠ .crossing && Order.runsOn a = Order.runsOn b

/-- The orders issued ahead of a compacted PRESS that it waits for: an earlier PRESS of its stream identifier, and the first
stream-mode COMPACT that none has taken, until it has begun (07 R213). -/
def streamWait (before : List InFlight) (sid : Nat) : Bool :=
  before.any (fun i => !i.ran && (match i.dec.body with | .pressCompacted q => q.arow % 4 = sid | _ => false)) ||
  (match before.find? fun i => !i.ran && (match i.dec.body with | .compactStream c => c.sid = sid | _ => false) with
   | some i => !i.started
   | none => false)

/-- Whether an order waits for another before its unit can take it: for the earlier orders of its unit
(R194), a compacted PRESS for its stream (R213), and COPY mode 2 for an earlier one of its end. -/
def Bench.mustWait (x : Bench) (o : Order) (k : Nat) : Bool :=
  let before := x.inflight.take k
  before.any (fun i => !i.ran && Order.queues i.dec.body o) ||
  match o with
  | .pressCompacted q => streamWait before (q.arow % 4)
  | .copyFromSeam q =>
    before.any fun i => !i.ran && (match i.dec.body with | .copyFromSeam c => c.seamEnd = q.seamEnd | _ => false)
  | _ => false

/-- An issued order runs in its slot. -/
def State.runSlot (s : State) (b : BenchId) (p : PartId) (k : Nat) (u : Upset) : State :=
  let i := (s.bench b).inflight.getD k {}
  if (s.bench b).mustWait i.dec.body k then s
  else
    let (s, r) := match i.dec.body with
      | .copyFromSeam q => s.runFromSeam b p u q i
      | _ => s.runOrder b p u i
    match r with
    | some i => s.modBench b fun x => { x with inflight := x.inflight.set k i }
    | none => s

/-- An order that no slot holds runs and completes by itself: its static checks, its draws, its effect, its
flags and its counts. -/
def State.runDirect (s : State) (b : BenchId) (p : PartId) (o : Order) (u : Upset) : State :=
  let x := s.bench b
  match Order.check (s.checkCtx b p) o with
  | some f => s.benchFault b f (Order.opcode o) false 0
  | none =>
    let i : InFlight := { dec := { body := o, drawBase := x.draw, seq := x.nextSeq } }
    let n := s.drawsOf b p x.masks o
    let queued (q : CopyOp) : Nat :=
      match (s.part p).seams.find? fun m => m.rcd.dst = x.logical && m.rcd.dstIn = q.seamEnd with
      | some m => m.rows.length
      | none => 0
    let short : Bool := match o with | .copyFromSeam q => Nat.blt (queued q) q.rows | _ => false
    if short || (Order.runsOn o = .gather && !x.streams.isEmpty) then s
    else
      let s := s.modBench b fun x => { x with draw := x.draw + BitVec.ofNat 64 n, nextSeq := x.nextSeq + 1 }
      let (s, r) := match o with
        | .copyFromSeam q => s.runFromSeam b p u q i
        | _ => s.runOrder b p u i
      match r with
      | none => s
      | some i =>
        let s := s.modBench b fun x => { x with
          bqFlags := fOr x.bqFlags i.flags
          decMasks := match o with | .loadwMask _ => x.masks | _ => x.decMasks }
        let (s, bad) := s.oobAdds b p i.oob
        if bad then s.benchFault b 0x24 (Order.opcode o) false 0 else s

/-- An order of a bench reaches its unit: the first issued order of that form that has not run, or, where
none waits in a slot, the order by itself on a bench that is not held. -/
def State.runUnit (s : State) (b : BenchId) (o : Order) (u : Upset) : State :=
  match (s.bench b).partOf with
  | none => s
  | some p =>
    if !s.benchLive b then s
    else
      let x := s.bench b
      match x.inflight.findIdx? fun i => !i.ran && !i.started && i.dec.body = o with
      | some k => s.runSlot b p k u
      | none => if x.hold ≠ .none then s else s.runDirect b p o u

end Sys2Proof.Machine
end

