-- ==== Sys2Proof/Machine/Replica.lean ====
section
/-! DEFINITION. Tallies across replicas (14 R402 to R405) and the epoch barrier (14 R408). -/

namespace Sys2Proof.Machine

open Sys2Proof

/-- Inserts a contribution by logical bench, then by DESC (R402). -/
def insertContrib (c : Nat × Nat × List Byte) : List (Nat × Nat × List Byte) → List (Nat × Nat × List Byte)
  | [] => [c]
  | d :: ds => if c.1 < d.1 || (c.1 = d.1 && c.2.1 < d.2.1) then c :: d :: ds else d :: insertContrib c ds

/-- The module tally of a set of contributions (R402). -/
def tallyOf (cs : List (Nat × Nat × List Byte)) : List Byte :=
  let sorted := cs.foldl (fun a c => insertContrib c a) []
  (sha512 (sorted.flatMap fun c =>
    sliceAt c.2.2 0 16 ++ leBytes 1 c.1 ++ [0] ++ leBytes 2 c.2.1 ++ List.replicate 12 0)).take 16

/-- The tallies of the formed step that are present: the module's own, then the replicas' (R404). -/
def PartInteg.present_ (x : PartInteg) (ms : List Member) : List (List Byte) :=
  let reps := (ms.filter (·.isReplica)).map (·.addr)
  x.tval :: (reps.filterMap fun a => (x.tallies.find? fun t => t.1 = a && t.2.1 = x.tallyStep).map (·.2.2))

/-- The verdict of R404, coded as IN_TALLY VERDICT. -/
def tallyVerdict (replicas : Bool) (own : List Byte) (vs : List (List Byte)) : Nat :=
  let n := vs.length
  let held (v : List Byte) : Nat := (vs.filter (· == v)).length
  if !replicas then 1
  else if n < 2 then 5
  else if vs.all (· == own) then 1
  else if 2 * held own > n then 2
  else if vs.any fun v => 2 * held v > n then 3
  else 4

/-- Stops a partition for a tally verdict, of the rollback class (R405). -/
def State.tallyStop (s : State) (p : PartId) : State :=
  State.stopPart (s.modPart p fun x => if x.loaded then { x with faultClass := max x.faultClass 1 } else x) p 0 (some 0x0022) (some (0x0022, 1))

/-- What the verdict does (R405). `others` are the coordinates of the members that hold another value. -/
def State.tallyAct (s : State) (p : PartId) (v : Nat) (others : List Nat) : State :=
  match v with
  | 2 => s.raise 0x9 p.val 0x0022 (some p) [(1, .arr others)]
  | 3 => (s.raise 0x9 p.val 0x0022 (some p)).tallyStop p
  | 4 | 5 => s.tallyStop p
  | _ => s

/-- The counting house decides on the formed step (R404, R405). -/
def State.decideTally (s : State) (p : PartId) : State :=
  let x := s.integOf p
  let ms := s.members p
  let vs := x.present_ ms
  let v := tallyVerdict (ms.any (·.isReplica)) x.tval vs
  let others := (ms.filter fun m => m.isReplica &&
    (x.tallies.any fun t => t.1 = m.addr && t.2.1 = x.tallyStep && t.2.2 != x.tval)).map (·.coord)
  let s := s.modInteg p fun x => { x with
    verdict := BitVec.ofNat 3 v, present := vs.length, agreed := if v = 1 then x.tallyStep % 2 ^ 32 else x.agreed }
  s.tallyAct p v others

/-- Decides once every replica's tally is there (R404). -/
def State.tallyReady (s : State) (p : PartId) : State :=
  let x := s.integOf p
  let ms := s.members p
  if x.verdict = 6 && (x.present_ ms).length = (ms.filter (·.isReplica)).length + 1 then s.decideTally p else s

/-- Forms the tally of a step whose benches have all halted and sends it to the replicas (R402 to R404). -/
def State.formTally (s : State) (p : PartId) : State :=
  let x := s.integOf p
  let n := x.runStep.getD 0
  if x.contribs.isEmpty then
    let s := s.modInteg p fun x => { x with tallyStep := n, verdict := 5, present := 0 }
    (s.raise 0x9 p.val 0x0022 (some p) [(0, .num 1)]).tallyAct p 5 []
  else
    let t := tallyOf x.contribs
    let s := s.modInteg p fun x => { x with
      tallyStep := n, verdict := 6, tval := t, contribs := [], formedAt := s.now }
    let reps := ((s.members p).filter (·.isReplica)).map (·.addr)
    let s := s.sendPeers reps 0x20 p.val n
      (cborMap [(0, cborUint 0x20), (1, cborUint 0), (3, cborUint s.now), (4, cborUint p.val), (5, cborUint n),
        (6, cborBytes t)])
    s.tallyReady p

/-- The partition is at a step boundary: every bench has had its run of the training step and reads halted (10 R274). -/
def State.stepOver (s : State) (p : PartId) : Bool :=
  (s.benchesOf p).all fun b => (s.bench b).seqState = .halted && (s.part p).stepRuns.contains b.idx

/-- After a bench has halted: the tally when it was the last of a tally step (R402, R403). -/
def State.tallyDue (s : State) (p : PartId) : State :=
  let n := (s.part p).hdr.tallyInterval
  if (s.part p).live && s.stepOver p && (s.integOf p).inTallyStep n then s.formTally p else s

/-! The epoch barrier -/

/-- DONE once the own load has applied and every member's epoch-ready is held; GROUP_MIN is then the lowest
LOCAL (R408). -/
def State.barrierCheck (s : State) (p : PartId) : State :=
  let x := s.integOf p
  let ms := ((s.members p).filter (·.isMember)).map (·.addr)
  if x.applied && !x.barrierDone && ms.all fun a => x.ready.any fun r => r.1 = a then
    let lows := (x.ready.filter fun r => ms.contains r.1).map (·.2)
    s.modInteg p fun x => { x with barrierDone := true, groupMin := lows.foldl min x.agreed }
  else s

/-- A load has applied a new epoch: the epoch-ready goes to every member, and the barrier of that epoch
begins (R408). -/
def State.barrierStart (s : State) (p : PartId) : State :=
  let e := (s.part p).epoch
  let x := s.integOf p
  let s := s.modInteg p fun x => { x with
    barrierEpoch := e, applied := true, barrierDone := false, ready := if x.barrierEpoch = e then x.ready else [] }
  let dests := ((s.members p).filter (·.isMember)).map (·.addr)
  let s := s.sendPeers dests 0x22 p.val e.toNat
    (cborMap [(0, cborUint 0x22), (1, cborUint 0), (3, cborUint s.now), (4, cborUint p.val), (5, cborUint e.toNat),
      (6, cborUint x.agreed)])
  s.barrierCheck p

/-- An epoch-ready arrives for an epoch not yet left (R408): it is held for the barrier of its epoch. -/
def State.barrierReady (s : State) (p : PartId) (from_ : BitVec 128) (epoch : BitVec 16) (loc : Nat) : State :=
  let x := s.integOf p
  let own := (s.part p).epoch
  if !(s.part p).loaded then s
  else if x.barrierEpoch = epoch then
    let s := s.modInteg p fun x => { x with ready := if x.ready.any fun r => r.1 = from_ then x.ready else x.ready ++ [(from_, loc)] }
    s.barrierCheck p
  else if (epoch - own).toNat < 32768 && epoch ≠ own then
    s.modInteg p fun x => { x with barrierEpoch := epoch, applied := false, barrierDone := false, ready := [(from_, loc)] }
  else s

end Sys2Proof.Machine
end

