-- ==== Sys2Proof/Machine/Sequencer.lean ====
section
/-! DEFINITION. The sequencer of a bench: order lines and the queue (07 R190), decode with loops (07 R191,
R192, R207, R233), issue (07 R193 to R199), completion (07 R200, R203, R234), the synchronization orders (07
R228), starting and stopping (07 R197), and the fills and walks behind it (08 R241, R249). -/

namespace Sys2Proof.Machine

open Sys2Proof

/-! Order lines and walks -/

/-- Whether a translation of an address is at hand. -/
def Bench.hasLeaf (x : Bench) (va : Nat) : Bool := x.tlb.any fun e => e.covers va

/-- Starts a walk for an address that misses, unless four run or one for its page does (08 R249); it begins below what the
walk cache holds. -/
def Bench.startWalk (x : Bench) (book now va : Nat) : Bench :=
  if x.hasLeaf va || 4 ≤ x.walks.length || x.walks.any fun w => w.va / 2 ^ 21 = va / 2 ^ 21 then x
  else
    let (level, table) := x.walkFrom book va
    { x with walks := x.walks ++ [{ va := va, level := level, table := table, since := now }] }

/-- Requests the next order lines while 64 or more entries are free, up to 16 outstanding (R190). -/
def Bench.refillGo (book now : Nat) : Nat → Bench → Bench
  | 0, x => x
  | n + 1, x =>
    if 16 ≤ x.lineReqs.length || x.queue.length + 4 * x.lineReqs.length + 4 > 256 then x
    else
      let x := { x with lineReqs := x.lineReqs ++ [(x.fetchPc, now)], fetchPc := (x.fetchPc + 64) % 2 ^ 48 }
      Bench.refillGo book now n (x.startWalk book now (x.lineReqs.getLastD (0, 0)).1)

/-- Requests the line of the order that decode waits for, where no other request brings it: a loop body of 255 orders leaves
too little room for the lines ahead (R191, R233). -/
def Bench.want (x : Bench) (book now : Nat) : Bench :=
  let line := lineBase x.pc
  if x.queue.any (fun q => q.va = x.pc) || x.lineReqs.any (fun r => r.1 = line) || 16 ≤ x.lineReqs.length then x
  else { x with lineReqs := x.lineReqs ++ [(line, now)] }.startWalk book now line

def Bench.refill (x : Bench) (book now : Nat) : Bench :=
  if x.seqState = .running && !x.stopped && x.haltCode.isNone then
    (if x.queue.length + 64 ≤ 256 then Bench.refillGo book now 16 x else x).want book now
  else x

/-- Decode goes on at an address whose line has still to arrive (R190, R233). -/
def Bench.redirect (x : Bench) (pc : Nat) : Bench :=
  { x with pc := pc, fetchPc := lineBase pc, queue := [], lineReqs := [] }

/-- A fault of the fetch path, at the order that decode waits for. -/
def State.fetchFault (s : State) (b : BenchId) (f : OFault) : State :=
  s.orderFault b f { va := (s.bench b).pc, body := .illegal 0 }

/-- A request that a load waits for returns; once none of the replaced partitions waits for one, the rinse
begins (03 R96). -/
def State.memSettled (s : State) : State :=
  if s.loader.phase = LoadPhase.memWait && s.loader.toRinse.all fun p => (s.part p).pendReqs.isEmpty then
    { s with loader := { s.loader with phase := LoadPhase.rinse } }
  else s

def State.pendReturn (s : State) (b : BenchId) (p : PartId) (va : Nat) : State :=
  (s.modPart p fun x => { x with pendReqs := x.pendReqs.filter fun r => r.bench ≠ b.idx || r.pa ≠ va }).memSettled

/-- A requested order line arrives (R190): translated, read at its home, and its orders from the decode
address on enter the queue. A line that decode does not stand at and that is refused is dropped, and asked
for again when decode reaches it. -/
def State.lineArrive (s : State) (b : BenchId) (line : Nat) : State :=
  match (s.bench b).partOf with
  | none => s
  | some p =>
    let x := s.bench b
    let va := lineBase line
    if (s.part p).pendReqs.any fun r => r.bench = b.idx && r.pa = va then s.pendReturn b p va
    else if !s.benchLive b || !(x.lineReqs.any fun r => r.1 = va) then s
    else
      let s := s.modBench b fun x => { x with
        lineReqs := x.lineReqs.filter fun r => r.1 ≠ va
        walks := x.walks.filter fun w => w.va / 2 ^ 21 ≠ va / 2 ^ 21 }
      let (d, w) := (s.work b p).fetchLine va
      match w.fault with
      | some f =>
        if va = lineBase x.pc then (s.putWork b p w).fetchFault b f
        else s.modBench b fun x => { x with fetchPc := min x.fetchPc va }
      | none =>
        let s := s.putWork b p w
        let has (v : Nat) : Bool := x.queue.any fun q => q.va = v
        let news : List QEntry := (List.range 4).filterMap fun i =>
          let v := va + 16 * i
          if v < x.pc || has v then none else some { va := v, word := BitVec.ofNat 128 (leAt d (16 * i) 16) }
        let room := 256 - x.queue.length
        s.modBench b fun x => { x with
          queue := x.queue ++ news.take room
          fetchPc := if room < news.length then min x.fetchPc va else x.fetchPc }.refill (s.part p).hdr.addrBook s.now

/-- One read of a walk returns (08 R249): the walker refuses the entry, goes a level down, or installs the
leaf. A refused walk is a fault of the fetch path when decode waits for its page. -/
def State.walkStep (s : State) (b : BenchId) (i : Nat) : State :=
  match (s.bench b).partOf, (s.bench b).walks[i]? with
  | some p, some k =>
    if !s.benchLive b then s
    else
      let drop (s : State) : State := s.modBench b fun x => { x with walks := removeAt x.walks i, tcMiss := wrapAdd 64 x.tcMiss 1 }
      let refuse (s : State) (f : OFault) : State :=
        let s := drop s
        if k.va / 2 ^ 21 = (s.bench b).pc / 2 ^ 21 then
          (s.modBench b fun x => x.recordBd f.bd).fetchFault b f
        else s
      let bad (c : Nat) : OFault := { code := 0x08, bd := some (c, 0xFFFF, false, lineBase k.va) }
      match s.mem.readIn (k.table + 8 * bookIndex k.level k.va) 8 (s.originOf (.bench b)) with
      | none => refuse s { code := 0x08 }
      | some (d, _, m) =>
        let s := (s.setMem m).modBench b fun x => { x with bdLines := wrapAdd 64 x.bdLines 1 }
        match bookEntry k.level (leNat d) with
        | .notMapped => refuse s (bad 2)
        | .refused => refuse s (bad 4)
        | .table pa => s.modBench b fun x =>
            { x with walks := x.walks.set i { k with level := k.level + 1, table := pa, since := s.now } }.keepTables
              [{ va := k.va, level := k.level, table := pa }]
        | .page pa wr od =>
          let size := if k.level = 1 then 2 ^ 30 else 2 ^ 21
          let w := (s.work b p).install { va := k.va / size * size, big := k.level = 1, pa := pa, write := wr, orders := od }
          let w := { w with x := { w.x with
            tcMiss := wrapAdd 64 w.x.tcMiss 1, walks := removeAt w.x.walks i
            lineReqs := w.x.lineReqs.map fun r => if r.1 / 2 ^ 21 = k.va / 2 ^ 21 then (r.1, s.now) else r } }
          s.putWork b p w
  | _, _ => s

/-- Whether an order names a descriptor. -/
def Order.namesDesc (i : Nat) (o : Order) : Bool := (Order.descs o).contains i

/-- The memory requests of the orders that name a descriptor go on from its arrival (02 R62). -/
def Bench.filled (x : Bench) (i now : Nat) : Bench :=
  { x with inflight := x.inflight.map fun q => if !q.ran && Order.namesDesc i q.dec.body then { q with since := now } else q }

/-- A descriptor read completes (08 R241): checked and placed in the descriptor cache. A parity error in the
entry discards it first (14 R393). A breach is the fault of the order that names it. -/
def State.descFill (s : State) (b : BenchId) (i : Nat) (parity : Bool) : State :=
  match (s.bench b).partOf with
  | none => s
  | some p =>
    if !s.benchLive b then s
    else
      let s := if parity then s.modBench b fun x => { x with
          dcache := x.dcache.filter fun c => c.1 ≠ i, ownerLines := x.ownerLines.filter fun c => c.1 ≠ i, sram := x.sram.modify 2 fun n => satAdd 16 n 1 } else s
      let x := s.bench b
      let (d, w) := (s.work b p).rawDesc i
      let w := if w.ok then w.checkDesc (parseDesc d) else w
      let s := s.putWork b p w
      match w.fault with
      | none => s.modBench b fun x => x.filled i s.now
      | some f =>
        match x.inflight.find? fun q => Order.namesDesc i q.dec.body with
        | some q => s.orderFault b f q.dec
        | none => s.orderFault b f { va := x.pc, body := .illegal 0 }

/-! Decode -/

/-- The address after an order, with the loops advanced (R233): a body that ends begins again while its count
lasts, else its level closes. Loops stand innermost first. -/
def advanceLoops : Nat → List LoopLevel → List LoopLevel × Nat
  | pc, [] => ([], pc)
  | pc, l :: ls =>
    if pc = l.first + 16 * l.body then
      if l.iter + 1 < l.count then ({ l with iter := l.iter + 1 } :: ls, l.first) else advanceLoops pc ls
    else (l :: ls, pc)

/-- Decode goes on at an address; orders that no open loop can replay leave the queue (R191). -/
def Bench.advance (x : Bench) (pc : Nat) : Bench :=
  let (ls, pc) := advanceLoops pc x.loops
  let keep := match ls.getLast? with | some l => l.first | none => pc
  { x with pc := pc, loops := ls, queue := x.queue.filter fun q => keep ≤ q.va }

/-- The loop sums of an order with LX set (R207). -/
def loopSums (ls : List LoopLevel) : Int × Int :=
  ls.foldl (fun a l => (a.1 + l.iter * l.rs, a.2 + l.iter * l.es)) (0, 0)

/-- LOOP, JUMP and HALT at decode (R233); none for an order that issues. -/
def Bench.control (x : Bench) (o : Order) : Option (Except Nat Bench) :=
  match o with
  | .loop q =>
    let first := x.pc + 16
    let end_ := first + 16 * q.body
    let past := match x.loops with | l :: _ => end_ > l.first + 16 * l.body | [] => false
    if q.body = 0 || 4 ≤ x.loops.length || past then some (.error 0x09)
    else if q.count = 0 then some (.ok (x.advance end_))
    else some (.ok { x with
      pc := first, loops := { first := first, body := q.body, count := q.count, rs := q.rs, es := q.es } :: x.loops })
  | .jump d =>
    if x.loops.isEmpty then some (.ok (x.redirect (((x.pc : Int) + 16 * d) % 2 ^ 48).toNat)) else some (.error 0x09)
  | .halt c => some (.ok { x with haltCode := some (c, x.pc), lineReqs := [], walks := [], queue := [], loops := [] })
  | _ => none

/-- LOOP, JUMP or HALT at the decode address acts (R191, R233). -/
def State.decodeControl (s : State) (b : BenchId) (p : PartId) (o : Order) : State :=
  let x := s.bench b
  match x.control o with
  | some (.ok x) => s.setBench b (x.refill (s.part p).hdr.addrBook s.now)
  | some (.error f) => s.orderFault b { code := f } { va := x.pc, body := o }
  | none => s

/-- Whether decode runs. -/
def State.decodes (s : State) (b : BenchId) : Bool :=
  let x := s.bench b
  s.benchLive b && x.seqState = .running && !x.stopped && x.haltCode.isNone

/-- The order that a word gives at decode with its fields adjusted, and the fault that it carries (R204 to
R208, R235): a fault of an order that issues is taken when it issues, an illegal opcode at once. -/
def State.decodeWord (s : State) (b : BenchId) (p : PartId) (w : Nat) : Order × Option Nat :=
  let (o, clean) := bodyOf w
  match o with
  | .illegal _ => (o, Order.check (s.checkCtx b p) o)
  | _ =>
    if !clean then (o, some 0x02)
    else
      let (rs, es) := if bit w 31 then loopSums (s.bench b).loops else (0, 0)
      match Order.adjust rs es o with
      | .error f => (o, some f)
      | .ok o => (o, Order.check (s.checkCtx b p) o)

/-- The next order in program order is decoded: into its stream with its fields and its draws fixed, or at
once for LOOP, JUMP and HALT (R191, R192). A parity error in its entry discards the entry and asks for its
line again (14 R393). -/
def State.decodeNext (s : State) (b : BenchId) (parity : Bool) : State :=
  match (s.bench b).partOf with
  | none => s
  | some p =>
    let x := s.bench b
    match x.queue.find? fun q => q.va = x.pc with
    | none => s
    | some q =>
      if !s.decodes b then s
      else if parity then
        s.modBench b fun x => { x with
          queue := x.queue.filter fun e => e.va ≠ x.pc, lineReqs := x.lineReqs ++ [(lineBase x.pc, s.now)]
          sram := x.sram.modify 2 fun n => satAdd 16 n 1 }
      else
        let w := q.word.toNat
        let (o, f) := s.decodeWord b p w
        if f = some 0x01 then s.orderFault b { code := 0x01 } { hdr := headerOf w, va := x.pc, body := o }
        else
        match o with
        | .loop _ | .jump _ | .halt _ =>
          match f with
          | some f => s.orderFault b { code := f } { va := x.pc, body := o }
          | none => s.decodeControl b p o
        | _ =>
          let hdr := headerOf w
          if 32 ≤ (if hdr.stream then x.bStream else x.fStream).length then s
          else
            let n := if f.isSome then 0 else s.drawsOf b p x.decMasks o
            let d : DecOrder := { hdr := hdr, body := o, va := x.pc, seq := x.nextSeq, drawBase := x.draw, staticFault := f }
            s.modBench b fun x =>
              let x := { x with
                draw := x.draw + BitVec.ofNat 64 n, nextSeq := x.nextSeq + 1
                fStream := if hdr.stream then x.fStream else x.fStream ++ [d]
                bStream := if hdr.stream then x.bStream ++ [d] else x.bStream
                decMasks := match o with
                  | .loadwMask m => x.decMasks.set m.m { rows := m.rowMask, cols := m.colMask, tail := BitVec.ofNat 8 m.tail }
                  | _ => x.decMasks }
              (x.advance (x.pc + 16)).refill (s.part p).hdr.addrBook s.now

/-! Issue -/

/-- Whether every earlier order of a stream, or of both, has completed (R228): none is in flight and none
waits before it. -/
def Bench.earlierDone (x : Bench) (d : DecOrder) (both : Bool) : Bool :=
  let mine (e : DecOrder) : Bool := e.seq < d.seq && (both || e.hdr.stream = d.hdr.stream)
  (x.inflight.all fun i => !mine i.dec) && (x.fStream.all fun e => !mine e) && (x.bStream.all fun e => !mine e)

/-- The release condition of SIGNAL, EVENT and FENCE (R228, R233). -/
def Bench.released (x : Bench) (d : DecOrder) : Bool :=
  match d.body with
  | .signal _ | .event _ => x.earlierDone d false
  | .fence scope => x.earlierDone d scope
  | _ => true

/-- Whether an earlier FENCE of SCOPE 1 is incomplete (R193). -/
def Bench.fenced (x : Bench) (d : DecOrder) : Bool :=
  let fence (e : DecOrder) : Bool := e.seq < d.seq && (match e.body with | .fence true => true | _ => false)
  (x.inflight.any fun i => fence i.dec) || x.fStream.any fence || x.bStream.any fence

/-- Whether the unit of an order has a free slot (R195); an unfinished WAIT or FENCE holds its stream, and so does a FOLD that
has not walked its blocks yet, for it may find no room (13 R373, R375). -/
def Bench.slotFree (x : Bench) (d : DecOrder) : Bool :=
  let u := Order.runsOn d.body
  let same (i : InFlight) : Bool :=
    Order.runsOn i.dec.body = u && (u ≠ .sequencer || i.dec.hdr.stream = d.hdr.stream)
  let holds (i : InFlight) : Bool :=
    i.dec.hdr.stream = d.hdr.stream && (match i.dec.body with | .wait _ | .fence _ => true | .fold _ => !i.started && !i.ran | _ => false)
  (x.inflight.filter same).length < u.slots && !(x.inflight.any holds)

/-- A stream head is ready (R193, R199). To a FOLD that waits for the staging pool its slot is not free (13 R375). -/
def Bench.ready (x : Bench) (d : DecOrder) : Bool :=
  (!d.hdr.needEn || 1 ≤ (x.tokens.getD d.hdr.need 0).toNat) && x.released d && !x.fenced d && x.slotFree d && x.poolWaits.all (·.1 ≠ d.seq)

/-- The head that issues: the older of those ready (R193). -/
def Bench.chosen (x : Bench) : Option DecOrder :=
  match (x.fStream.head?).filter x.ready, (x.bStream.head?).filter x.ready with
  | some f, some g => some (if f.seq < g.seq then f else g)
  | some f, none => some f
  | none, g => g

/-- Takes a head off its stream. -/
def Bench.popHead (x : Bench) (d : DecOrder) : Bench :=
  if d.hdr.stream then { x with bStream := x.bStream.drop 1 } else { x with fStream := x.fStream.drop 1 }

/-- The mask register that the mangle takes with a PRESS: as the mask forms issued before it leave it (R211). -/
def Bench.acceptMask (x : Bench) (o : Order) : Option MaskReg :=
  let at_ (m : Nat) : MaskReg :=
    x.inflight.foldl (fun r i => match i.dec.body with
      | .loadwMask q => if !i.ran && q.m = m then { rows := q.rowMask, cols := q.colMask, tail := BitVec.ofNat 8 q.tail } else r
      | _ => r) (x.masks.getD m {})
  match o with
  | .press q | .pressCompacted q => some (at_ q.mask)
  | _ => none

/-- A ready stream head issues (R193, R199): NEED is consumed, the order takes its slot, and a fault of its
fields, of its draws' descriptor or of its signal's bench is taken now (R201, R235). -/
def State.issue (s : State) (b : BenchId) : State :=
  match (s.bench b).partOf with
  | none => s
  | some p =>
    let x := s.bench b
    if !s.benchLive b || x.seqState ≠ .running || x.stopped || x.hold ≠ .none || (s.part p).quiescing then s
    else
      match x.chosen with
      | none => s
      | some d =>
        let waited := Config.stepsTaken s.freeCtr
        let s := (s.modBench b fun x => { x.popHead d with
          tokens := if d.hdr.needEn then x.tokens.modify d.hdr.need (· - 1) else x.tokens
          issuedCount := wrapAdd 64 x.issuedCount 1, headWait := wrapAdd 64 x.headWait waited }).tick
        match d.staticFault with
        | some f => s.orderFault b { code := f } d
        | none =>
          if d.hdr.sigEn && d.hdr.sigBench ≥ (s.part p).benches.length then s.orderFault b { code := 0x0B } d
          else s.modBench b fun x => { x with inflight := x.inflight ++ [{ dec := d, since := s.now, mask := x.acceptMask d.body }] }

/-! Completion -/

/-- Whether an order that has run may complete: in the order of its unit, and COPY mode 1 once its rows are queued (R194,
R200, R208). -/
def Bench.mayComplete (x : Bench) (k : Nat) (i : InFlight) : Bool :=
  i.ran && (x.inflight.take k).all (fun e => !Order.queues e.dec.body i.dec.body) &&
  (match i.dec.body with
   | .copyToSeam c => i.got = c.rows
   | _ => true)

/-- Whether the header signal of an order is withheld: the bench is held and the order is the held one or a
later one (05 R150). -/
def Bench.withholds (x : Bench) (d : DecOrder) : Bool :=
  x.hold ≠ .none && (match x.heldOrder with | some h => h.dec.seq ≤ d.seq | none => true)

/-- After STOP the bench reads halted once every issued order has completed (R197). -/
def State.stopDone (s : State) (b : BenchId) (p : PartId) : State :=
  let x := s.bench b
  if x.stopped && x.seqState = .running && x.inflight.isEmpty then
    (s.modBench b fun x => { x with seqState := .halted }).tallyDue p
  else s

/-- The issued order of a slot completes (R200): its out-of-bounds counts are added, its flags are ORed, its
completion record is written, and its header signal is sent or withheld. -/
def State.complete (s : State) (b : BenchId) (k : Nat) : State :=
  match (s.bench b).partOf, (s.bench b).inflight[k]? with
  | some p, some i =>
    let x := s.bench b
    if !s.benchLive b || !x.mayComplete k i then s
    else
      let (s, bad) := s.oobAdds b p i.oob
      if bad then s.orderFault b { code := 0x24 } i.dec
      else
        let s := s.modBench b fun x => { x with inflight := removeAt x.inflight k, bqFlags := fOr x.bqFlags i.flags }
        let s := if i.dec.hdr.evt then s.benchEvent b 0x01 0 i.flags (Order.opcode i.dec.body) i.dec.va else s
        let s :=
          if !i.dec.hdr.sigEn then s
          else if (s.bench b).withholds i.dec then
            s.modBench b fun x => { x with withheld := x.withheld ++ [{ ctr := i.dec.hdr.sig, bench := i.dec.hdr.sigBench }] }
          else s.signalTo b i.dec.hdr.sigBench i.dec.hdr.sig 1
        if (s.part p).live then s.stopDone b p else s
  | _, _ => s

/-- A signal from another bench reaches its counter, in the order sent (R201). -/
def State.deliver (s : State) (b : BenchId) (src : Nat) : State :=
  let x := s.bench b
  match x.sigIn.find? fun c => c.1 = src with
  | none => s
  | some c =>
    if !s.benchLive b then s
    else
      (s.modBench b fun x => { x with sigIn := x.sigIn.eraseP fun e => e.1 = src }).addToken b c.2.1 c.2.2

/-- HALT: every decoded order has completed, the HALT record is written and the bench reads halted (R233);
with the last bench of a tally step the tally forms (14 R402). -/
def State.haltDone (s : State) (b : BenchId) : State :=
  match (s.bench b).partOf, (s.bench b).haltCode with
  | some p, some (code, va) =>
    let x := s.bench b
    if !s.benchLive b || x.seqState ≠ .running || !x.fStream.isEmpty || !x.bStream.isEmpty || !x.inflight.isEmpty then s
    else
      let s := s.benchEvent b 0x03 code {} 0x53 va
      (s.modBench b fun x => { x with seqState := .halted }).tallyDue p
  | _, _ => s

/-! Synchronization orders (R228) and EVENT (R233) -/

/-- The slot of the first issued order of a form that has not run. -/
def Bench.slotOf (x : Bench) (o : Order) : Option Nat := x.inflight.findIdx? fun i => !i.ran && !i.started && i.dec.body = o

/-- An order of the sequencer: in the slot of the first issued one of its form, or by itself on a bench that
is not held; `cond` says whether its condition holds, `act` is what it does with the order of the slot. -/
def State.runSync (s : State) (b : BenchId) (o : Order) (cond : Bench → Bool) (act : State → PartId → Option DecOrder → State) : State :=
  match (s.bench b).partOf with
  | none => s
  | some p =>
    let x := s.bench b
    if !s.benchLive b || !cond x then s
    else
      match x.slotOf o with
      | some k =>
        let d := (x.inflight.getD k {}).dec
        act (s.modBench b fun x => { x with inflight := x.inflight.modify k fun i => { i with ran := true } }) p (some d)
      | none =>
        if x.hold ≠ .none then s
        else
          match Order.check (s.checkCtx b p) o with
          | some f => s.benchFault b f (Order.opcode o) false 0
          | none => act s p none

/-- SIGNAL adds its VALUE; on a held bench the token of a later order is withheld (05 R150). -/
def State.runSignal (s : State) (b : BenchId) (o : SignalOp) : State :=
  s.runSync b (.signal o) (fun _ => true) fun s _ d =>
    if d.any (s.bench b).withholds then
      s.modBench b fun x => { x with withheld := x.withheld ++ [{ ctr := o.ctr, bench := o.bench, value := o.value.toNat }] }
    else s.signalTo b o.bench o.ctr o.value.toNat

/-- WAIT: its condition is that the counter is at least THRESH; CONSUME subtracts it. -/
def State.runWait (s : State) (b : BenchId) (o : WaitOp) : State :=
  s.runSync b (.wait o) (fun x => o.thresh.toNat ≤ (x.tokens.getD o.ctr 0).toNat) fun s _ _ =>
    if o.consume then s.modBench b fun x => { x with tokens := x.tokens.modify o.ctr (· - o.thresh) } else s

def State.runFence (s : State) (b : BenchId) (scope : Bool) : State :=
  s.runSync b (.fence scope) (fun _ => true) fun s _ _ => s

def State.runEvent (s : State) (b : BenchId) (o : EventOp) : State :=
  s.runSync b (.event o) (fun _ => true) fun s _ d => s.benchEvent b 0x02 o.code {} 0x52 (match d with | some d => d.va | none => 0) o.data

/-- A LOOP, JUMP or HALT at the decode address of a running bench acts. -/
def State.runControl (s : State) (b : BenchId) (o : Order) : State :=
  match (s.bench b).partOf with
  | some p => if s.decodes b then s.decodeControl b p o else s
  | none => s

/-! Starting and stopping (R197) -/

/-- A bench as START leaves it: running at BQ_PC, with an empty queue, empty streams and an empty descriptor
cache (R197; 08 R241). -/
def Bench.begin_ (x : Bench) : Bench :=
  { x.redirect x.pc with
    seqState := .running, stopped := false, haltCode := none, loops := [], fStream := [], bStream := [], inflight := []
    dcache := [], ownerLines := [], walks := [], decMasks := x.masks, recvs := [], exchanges := [], folds := [], streams := [] }

/-- BQ_CTL START: on an idle or halted bench of a live partition; elsewhere it is ignored and ticketed as a
misuse. The first bench to start after a step boundary begins the training step, which has one run of each bench (10 R274;
14 R403, R407). -/
def State.startBench (s : State) (b : BenchId) : State :=
  let x := s.bench b
  match x.partOf with
  | none => s.misuse
  | some p =>
    if x.seqState = .running || x.hold ≠ .none || !(s.part p).live then s.misuse
    else
      let first := (s.part p).stepRuns.isEmpty || s.stepOver p
      let s := if first then
          (s.modPart p fun x => { x with updated := false, stateLost := false, stepRuns := [] }).modInteg p
            fun x => { x with runStep := if x.stepSet then some x.step.toNat else none }
        else s
      let s := s.modPart p fun x => { x with stepRuns := setInsert x.stepRuns b.idx }
      let s := s.modBench b fun x => x.begin_.refill (s.part p).hdr.addrBook s.now
      if x.pc % 16 ≠ 0 then s.orderFault b { code := 0x08 } { va := x.pc, body := .illegal 0 } else s

/-- A WAIT whose condition is unmet: it holds its stream, and is no order in flight (R228; 03 R96). -/
def Bench.unmet (x : Bench) (i : InFlight) : Bool :=
  match i.dec.body with
  | .wait o => !i.ran && (x.tokens.getD o.ctr 0).toNat < o.thresh.toNat
  | _ => false

/-- BQ_CTL STOP: decode and issue end; the bench reads halted when its issued orders have completed, a WAIT among them when
its condition holds. -/
def State.stopBench (s : State) (b : BenchId) : State :=
  let x := s.bench b
  match x.partOf with
  | none => s
  | some p =>
    if x.seqState ≠ .running || x.stopped then s
    else
      let s := s.modBench b fun x => { x with
        stopped := true, fStream := [], bStream := [], queue := [], lineReqs := [], walks := [], loops := [], haltCode := none }
      s.stopDone b p

/-- BQ_CTL CLR_TOKENS, ignored while running (R238). -/
def State.clearTokens (s : State) (b : BenchId) : State :=
  s.modBench b fun x => if x.seqState = .running then x else { x with tokens := List.replicate 64 0 }

/-- A write of BQ_SEED: the seed and a draw counter of zero; ignored and ticketed while running (R197,
R238). -/
def State.writeSeed (s : State) (b : BenchId) (v : BitVec 64) : State :=
  if (s.bench b).seqState = .running then s.misuse
  else s.modBench b fun x => { x with seed := v, draw := 0 }

/-- The address book of a bench's partition. -/
def State.bookOf (s : State) (b : BenchId) : Nat :=
  match (s.bench b).partOf with
  | some p => (s.part p).hdr.addrBook
  | none => 0

/-- The walks in progress begin again at the root: what they have read may be old (08 R249). -/
def Bench.walkAnew (x : Bench) (book : Nat) : Bench :=
  { x with walks := x.walks.map fun w => { w with level := 0, table := book } }

/-- BD_TC_CTL INVAL_ALL (08 R249). -/
def State.invalAll (s : State) (b : BenchId) : State :=
  s.modBench b fun x => { x.walkAnew (s.bookOf b) with tlb := [], wcache := [], invalWaits := x.lineReqs.map (·.1) }

/-- BD_TC_CTL INVAL_VA: the entries that cover the address, and the walk cache (08 R249, R255). -/
def State.invalVa (s : State) (b : BenchId) (va : Nat) : State :=
  let a := va / 2 ^ 21 * 2 ^ 21
  s.modBench b fun x => { x.walkAnew (s.bookOf b) with
    tlb := x.tlb.filter fun e => !e.covers a, wcache := []
    invalWaits := (x.lineReqs.map (·.1)).filter fun l => x.tlb.any fun e => e.covers a && e.covers l }

/-! Seams -/

/-- A row on the way enters the queue of its seam while it has room, and goes on to the first COPY mode 2 of
its end that waits for it (R202). -/
def State.seamRowArrives (s : State) (p : PartId) (k : Nat) : State :=
  match (s.part p).seams[k]? with
  | none => s
  | some m =>
    match m.onTheWay with
    | [] => s
    | r :: rest =>
      let from_ := m.senders.head?
      if !(s.part p).live || s.supply.hold || 64 ≤ m.rows.length then s
      else
        let m := { m with rows := m.rows ++ [r], onTheWay := rest, senders := m.senders.drop 1, since := if m.rows.isEmpty then s.now else m.since }
        let s := s.modPart p fun x => { x with seams := x.seams.set k m }
        let s := match s.benchOfLogical p m.rcd.src with
          | none => s
          | some a => s.modBench a fun x =>
            match x.inflight.findIdx? fun i => from_ = some i.dec.seq && (match i.dec.body with | .copyToSeam _ => true | _ => false) with
            | some j => { x with inflight := x.inflight.modify j fun i => { i with got := i.got + 1 } }
            | none => x
        match s.benchOfLogical p m.rcd.dst with
        | none => s
        | some b =>
          let wants (i : InFlight) : Bool :=
            i.started && !i.ran && (match i.dec.body with | .copyFromSeam c => c.seamEnd = m.rcd.dstIn | _ => false)
          match (s.bench b).inflight.findIdx? wants with
          | none => s
          | some j =>
            let i := (s.bench b).inflight.getD j {}
            match i.dec.body with
            | .copyFromSeam c =>
              let (n, w) := (s.work b p).takeSeam s.now c.seamEnd (c.dstRow + i.got) (c.rows - i.got)
              let s := s.putWork b p w
              s.modBench b fun x => { x with
                inflight := x.inflight.set j { i with got := i.got + n, ran := i.got + n = c.rows } }
            | _ => s

end Sys2Proof.Machine
end

