-- ==== Sys2Proof/Machine/BenchRows.lean ====
section
/-! DEFINITION. The rows of the opcode table that bench orders and the sequencer make: one meaning for each,
each one call of the operation that carries it out. -/

namespace Sys2Proof.Machine

open Sys2Proof

abbrev Result := Host.Outcome State Fault Refusal

/-! Orders of the mover, the mangle and the darner units -/

/-- FETCH (07 R209): elements or block scales of a tensor into rows. -/
def execFetch (b : BenchId) (o : MoveOp) (u : Upset) (s : State) : Result := .next (s.runUnit b (.fetch o) u)

/-- STORE (07 R209): rows to a tensor. -/
def execStore (b : BenchId) (o : MoveOp) (u : Upset) (s : State) : Result := .next (s.runUnit b (.store o) u)

/-- COPY mode 0 (07 R210): rows to rows. -/
def execCopyShelf (b : BenchId) (o : CopyOp) (u : Upset) (s : State) : Result := .next (s.runUnit b (.copyShelf o) u)

/-- COPY mode 1 (07 R202): rows onto an outgoing seam. -/
def execCopyToSeam (b : BenchId) (o : CopyOp) (u : Upset) (s : State) : Result := .next (s.runUnit b (.copyToSeam o) u)

/-- COPY mode 2 (07 R202): rows from an incoming seam. -/
def execCopyFromSeam (b : BenchId) (o : CopyOp) (u : Upset) (s : State) : Result := .next (s.runUnit b (.copyFromSeam o) u)

/-- COPY mode 3 (07 R210): elements from one format to another. -/
def execCopyConvert (b : BenchId) (o : CopyOp) (u : Upset) (s : State) : Result := .next (s.runUnit b (.copyConvert o) u)

/-- LOADW, weight form (05 R139; 07 R211): fills a tile. -/
def execLoadw (b : BenchId) (o : LoadwOp) (u : Upset) (s : State) : Result := .next (s.runUnit b (.loadw o) u)

/-- LOADW, mask form (05 R144; 07 R211): writes a mask register. -/
def execLoadwMask (b : BenchId) (o : MaskOp) (u : Upset) (s : State) : Result := .next (s.runUnit b (.loadwMask o) u)

/-- PRESS (07 R212): vectors against a tile, to the shelf or the till. -/
def execPress (b : BenchId) (o : PressOp) (u : Upset) (s : State) : Result := .next (s.runUnit b (.press o) u)

/-- PRESS with CMP (07 R213; 06 R166): the loads of a compacted stream. -/
def execPressCompacted (b : BenchId) (o : PressOp) (u : Upset) (s : State) : Result := .next (s.runUnit b (.pressCompacted o) u)

/-- COMPACT, count (06 R157). -/
def execCompactCount (b : BenchId) (o : CompactOp) (u : Upset) (s : State) : Result := .next (s.runUnit b (.compactCount o) u)

/-- COMPACT, plan (06 R161). -/
def execCompactPlan (b : BenchId) (o : CompactOp) (u : Upset) (s : State) : Result := .next (s.runUnit b (.compactPlan o) u)

/-- COMPACT, stream (06 R164). -/
def execCompactStream (b : BenchId) (o : CompactOp) (u : Upset) (s : State) : Result := .next (s.runUnit b (.compactStream o) u)

/-- COMPACT, compress (06 R176). -/
def execCompactCompress (b : BenchId) (o : CompactOp) (u : Upset) (s : State) : Result := .next (s.runUnit b (.compactCompress o) u)

/-- MERGE (06 R170; 07 R216). -/
def execMerge (b : BenchId) (o : MergeOp) (u : Upset) (s : State) : Result := .next (s.runUnit b (.merge o) u)

/-- SORT (06 R158; 07 R217). -/
def execSort (b : BenchId) (o : SortOp) (u : Upset) (s : State) : Result := .next (s.runUnit b (.sort o) u)

/-- SCAN (06 R159; 07 R218). -/
def execScan (b : BenchId) (o : ScanOp) (u : Upset) (s : State) : Result := .next (s.runUnit b (.scan o) u)

/-- VEC, element form (07 R219, R220). -/
def execVec (b : BenchId) (o : VecOp) (u : Upset) (s : State) : Result := .next (s.runUnit b (.vec o) u)

/-- VEC 0x20 (07 R221; 04 R122): soft-maximum forward. -/
def execVecSoftmaxForward (b : BenchId) (o : FusedOp) (u : Upset) (s : State) : Result := .next (s.runUnit b (.softmaxForward o) u)

/-- VEC 0x21 (07 R221; 06 R179): soft-maximum backward. -/
def execVecSoftmaxBackward (b : BenchId) (o : FusedOp) (u : Upset) (s : State) : Result := .next (s.runUnit b (.softmaxBackward o) u)

/-- VEC 0x22 (07 R221; 04 R122): normalization forward. -/
def execVecNormForward (b : BenchId) (o : FusedOp) (u : Upset) (s : State) : Result := .next (s.runUnit b (.normForward o) u)

/-- VEC 0x23 (07 R221; 06 R179): normalization backward. -/
def execVecNormBackward (b : BenchId) (o : FusedOp) (u : Upset) (s : State) : Result := .next (s.runUnit b (.normBackward o) u)

/-- SIZE (07 R222; 04 R123). -/
def execSize (b : BenchId) (o : SizeOp) (u : Upset) (s : State) : Result := .next (s.runUnit b (.size o) u)

/-- QUANT (07 R223; 04 R123). -/
def execQuant (b : BenchId) (o : QuantOp) (u : Upset) (s : State) : Result := .next (s.runUnit b (.quant o) u)

/-- STAT (07 R224; 06 R182). -/
def execStat (b : BenchId) (o : StatOp) (u : Upset) (s : State) : Result := .next (s.runUnit b (.stat o) u)

/-- UPDATE (07 R225, R226; 04 R124). -/
def execUpdate (b : BenchId) (o : UpdateOp) (u : Upset) (s : State) : Result := .next (s.runUnit b (.update o) u)

/-- DIGEST (07 R227; 06 R183). -/
def execDigest (b : BenchId) (o : DigestOp) (u : Upset) (s : State) : Result := .next (s.runUnit b (.digest o) u)

/-! Synchronization and control orders -/

/-- SIGNAL (07 R228). -/
def execSignal (b : BenchId) (o : SignalOp) (s : State) : Result := .next (s.runSignal b o)

/-- WAIT (07 R228). -/
def execWait (b : BenchId) (o : WaitOp) (s : State) : Result := .next (s.runWait b o)

/-- FENCE (07 R228). -/
def execFence (b : BenchId) (scope : Bool) (s : State) : Result := .next (s.runFence b scope)

/-- LOOP (07 R233). -/
def execLoop (b : BenchId) (o : LoopOp) (s : State) : Result := .next (s.runControl b (.loop o))

/-- JUMP (07 R233). -/
def execJump (b : BenchId) (disp : Int) (s : State) : Result := .next (s.runControl b (.jump disp))

/-- EVENT (07 R233). -/
def execEvent (b : BenchId) (o : EventOp) (s : State) : Result := .next (s.runEvent b o)

/-- HALT (07 R233). -/
def execHalt (b : BenchId) (code : Nat) (s : State) : Result := .next (s.runControl b (.halt code))

/-- The bench reads halted after HALT (07 R233). -/
def execBenchHalted (b : BenchId) (s : State) : Result := .next (s.haltDone b)

/-- An order line arrives (07 R190). -/
def execOrderLineFetch (b : BenchId) (line : Nat) (s : State) : Result := .next (s.lineArrive b line)

/-- The next order is decoded (07 R191). -/
def execOrderDecode (b : BenchId) (parity : Bool) (s : State) : Result := .next (s.decodeNext b parity)

/-- A ready stream head issues (07 R193). -/
def execOrderIssue (b : BenchId) (s : State) : Result := .next (s.issue b)

/-- An issued order completes (07 R200). -/
def execOrderComplete (b : BenchId) (slot : Nat) (s : State) : Result := .next (s.complete b slot)

/-- A signal from another bench reaches its counter (07 R201). -/
def execSignalDeliver (b : BenchId) (src : Nat) (s : State) : Result := .next (s.deliver b src)

/-- A descriptor read completes (08 R241). -/
def execDescriptorFill (b : BenchId) (desc : Nat) (parity : Bool) (s : State) : Result := .next (s.descFill b desc parity)

/-- A walk read returns (08 R249). -/
def execTranslationWalk (b : BenchId) (walk : Nat) (s : State) : Result := .next (s.walkStep b walk)

/-- A row reaches its seam queue (07 R202). -/
def execSeamRowArrive (p : PartId) (seam : Nat) (s : State) : Result := .next (s.seamRowArrives p seam)

/-- BQ_CTL START (07 R197). -/
def execBqStart (b : BenchId) (s : State) : Result := .next (s.byClerk fun s => s.inTile b.tile.val fun s => s.startBench b)

/-- BQ_CTL STOP (07 R197). -/
def execBqStop (b : BenchId) (s : State) : Result := .next (s.byClerk fun s => s.inTile b.tile.val fun s => s.stopBench b)

/-- BQ_CTL CLR_TOKENS (07 R198). -/
def execBqClrTokens (b : BenchId) (s : State) : Result := .next (s.byClerk fun s => s.inTile b.tile.val fun s => s.clearTokens b)

/-- A write of BQ_SEED (07 R238). -/
def execBqSeedWrite (b : BenchId) (seed : BitVec 64) (s : State) : Result :=
  .next (s.byClerk fun s => s.inTile b.tile.val fun s => s.writeSeed b seed)

/-- BD_TC_CTL INVAL_ALL (08 R249). -/
def execInvalAll (b : BenchId) (s : State) : Result := .next (s.byClerk fun s => s.inTile b.tile.val fun s => s.invalAll b)

/-- BD_TC_CTL INVAL_VA (08 R249). -/
def execInvalVa (b : BenchId) (va : Nat) (s : State) : Result :=
  .next (s.byClerk fun s => s.inTile b.tile.val fun s => s.invalVa b va)

end Sys2Proof.Machine
end

