-- ==== Sys2Proof/Machine/Integrity.lean ====
section
/-! DEFINITION. Arbiter runs (14 R395 to R399, R417), self-tests and re-admission (14 R411 to R414), the rinse
of a bench (03 R98) and the power gating of a mangle (05 R146). -/

namespace Sys2Proof.Machine

open Sys2Proof

/-! The rinse of a bench -/

/-- The rinse (03 R98): zeros in the shelf, the tiles, the till, the masks, the row file, the layer slots, the
queue, the counters and the caches, every stain mark cleared, no program, seed and draw counter zero (07
R197). What counts since reset release, and what firmware set, stays. -/
def Bench.rinse (x : Bench) : Bench :=
  { x with
    shelf := [], shelfStain := [], seqState := .idle, stopped := false, haltCode := none, seed := 0, draw := 0
    tokens := List.replicate 64 0, queue := [], lineReqs := [], loops := [], fStream := [], bStream := [], inflight := []
    withheld := [], sigIn := [], dcache := [], ownerLines := [], tlb := [], wcache := [], walks := [], invalWaits := []
    tiles := List.replicate 8 {}, masks := List.replicate 8 {}, decMasks := List.replicate 8 {}, till := [], tillStain := []
    rowFile := [], rowMarks := [], accGamma := [], accBeta := [], scaleQueue := [], scaleMark := false, slots := List.replicate 8 {}, sha := none, sizing := none, shadowStep := 0
    dnFaultStands := false, streams := [], rxStore := [], broken := [], recvs := [], exchanges := [], folds := [], poolWaits := []
    hold := .none, heldOrder := none, heldLine := 0, arbitrating := false, closingRinse := false }

/-- A self-test begins (R411). -/
def Bench.startTest (x : Bench) (extra : Bool) : Bench := { x with testing := true, testPending := none, testExtra := extra }

/-- Whether a self-test may run: on a bench that is free, held in reserve or retired, and serves no arbiter run
(R411, R417). -/
def Bench.mayTest (x : Bench) : Bool :=
  x.partOf.isNone && !x.arbiter && !x.closingRinse && x.rinsing.isNone

/-- A pending test starts as soon as it may. -/
def Bench.takePending (x : Bench) : Bench :=
  match x.testPending with
  | some extra => if x.mayTest then x.startTest extra else x
  | none => x

/-- A bench leaves its partition (03 R99; 14 R397, R414): free, or retired where it was retired or unchecked;
its checkers come back. -/
def Bench.vacate (x : Bench) : Bench :=
  { x with
    asg := if x.asg = Assign.retired || x.unchecked then .retired else .free
    examEn := x.examEn || x.checkerOff = HoldKind.examiner, shadowEn := x.shadowEn || x.checkerOff = HoldKind.shadow
    pairedEn := x.pairedEn || x.checkerOff = HoldKind.paired, checkerOff := .none, unchecked := false, rinsing := none, snapshot := false }

/-- It leaves, and a pending self-test starts. -/
def Bench.leave (x : Bench) : Bench := x.vacate.takePending

/-! Arbiter runs -/

/-- A bench that can serve an arbiter run (R395). -/
def State.canArbitrate (s : State) (b : BenchId) : Bool :=
  let x := s.bench b
  s.tileIsOn b.tile.val && !x.testing && !x.arbiter && !x.closingRinse && x.rinsing.isNone && x.hold = .none

/-- The bench that R395 takes: a reserve of the partition on the tile, any reserve of it, a free bench on the
tile, any free bench; among equals the lowest. -/
def State.arbiterFor (s : State) (b : BenchId) (p : PartId) : Option BenchId :=
  let ok := allBenches.filter s.canArbitrate
  let pick (f : BenchId → Bool) : Option BenchId := ok.find? f
  let held (c : BenchId) : Bool := (s.bench c).asg = .held p
  let free (c : BenchId) : Bool := (s.bench c).asg = .free
  (pick fun c => held c && c.tile = b.tile) <|> (pick held) <|> (pick fun c => free c && c.tile = b.tile) <|> (pick free)

def State.runFor (s : State) (b : BenchId) : Option ArbRun := s.integ.runs.find? fun r => r.held = b.idx

/-- An arbiter run starts for a held bench that still waits for its verdict (R395); with ARB_EN clear, or with no bench
available, the verdict is unarbitrated (R397). -/
def execArbiterStart (b : BenchId) (s : State) : Result :=
  let x := s.bench b
  match x.partOf with
  | none => .next s
  | some p =>
    if !s.clerkTime || !x.unjudged || (s.runFor b).isSome then .next s
    else
      match if s.integ.arbEn then s.arbiterFor b p else none with
      | none => .next (s.verdict b none x.hold p (s.part p).epoch 4 none none)
      | some a =>
        let s := s.modBench a fun x => { x with arbiter := true }
        let s := s.modBench b fun x => { x with arbitrating := true }
        let run : ArbRun := {
          held := b.idx, arb := a.idx, kind := x.hold, part := p, epoch := (s.part p).epoch, at_ := s.now
          order := x.heldOrder.getD {}, line := x.heldLine, quad := x.quad, seed := x.seed }
        .next { s with integ := { s.integ with runs := s.integ.runs ++ [run] } }

/-- The rows that the arbiter copies, by first row and count (R396): of an examiner hold the operand rows of the PRESS and
the rows of the LOADW that filled its tile, of a compacted PRESS every row that may hold its list, pieces and blocks; of a
sort-check hold the input rows. The inputs of a disagreeing or shadowed result travel with the hold. -/
def Bench.operandRows (x : Bench) (i : InFlight) : List (Nat × Nat) :=
  match i.dec.body with
  | .press q =>
    let w : Work := { id := ⟨0, 0⟩, x := x, m := default, pt := default, geo := {}, mask := i.mask }
    let p := w.pressCtx q ((Fmt.ofCode q.afmt).getD .e4m3)
    let pl : OutLayout := { fwd := p.fwd, per := p.per, width := 6 }
    let cells := p.side * p.side
    let load := match p.tile.row, p.tile.fmt with
      | some r, some f => [(r, ceilDiv (cells * cellBytes f p.two8) 512 + ceilDiv (cells * cellScales f p.two8) 512)]
      | _, _ => []
    [(q.arow, ceilDiv (q.n * p.vecBytes) 512 + ceilDiv (p.scaleBytes q.n) 512)] ++
      (if q.pin = 2 then [(q.prow, pl.rows q.n)] else []) ++ load
  | .pressCompacted _ => [(0, shelfRows)]
  | .sort q => if q.mem then [] else [(q.src, ceilDiv (8 * q.n) 512)]
  | .scan q => [(q.srcRow, ceilDiv (scanBytes q.typ * q.n) 512)]
  | _ => []

/-- The copy of the operands is complete, and the arbiter runs the order (R396): the rows stand in the arbiter's shelf as
the held bench's shelf gave them when it was read, with the till and the tiles that a PRESS takes. -/
def execArbiterCopyDone (b : BenchId) (s : State) : Result :=
  match s.runFor b with
  | some run =>
    if !s.clerkTime || run.copied then .next s
    else
      let x := s.bench b
      let rows := x.operandRows run.order
      let here (a : Nat) : Bool := rows.any fun r => 512 * r.1 ≤ a && a < 512 * (r.1 + r.2)
      let press := Order.isPress run.order.dec.body
      let copy (y : Bench) : Bench := { y with
        shelf := x.shelf.filter (fun c => here c.1)
        till := if press then x.till else y.till
        tiles := if press then x.tiles.map (fun t => { t with stained := false }) else y.tiles }
      .next { s with benches := s.benches.modify run.arb copy, integ := { s.integ with
        runs := s.integ.runs.map fun r => if r.held = b.idx then { r with copied := true } else r } }
  | none => .next s

/-- The work of the arbiter on the held order: its own units on the copied rows, in the shape and with the draws of the held
bench and every checker on. A tile that a LOADW order filled is loaded from the copied rows. -/
def State.arbiterWork (s : State) (run : ArbRun) (u : Upset) : Work :=
  let i := run.order
  let y := { s.benches.getD run.arb default with
    asg := .assigned run.part 0 run.quad, seed := run.seed, examEn := true, pairedEn := true, shadowEn := true, streams := i.took.toList }
  let w : Work := {
    id := ⟨⟨run.arb / 34 % 4, Nat.mod_lt _ (by decide)⟩, ⟨run.arb % 34, Nat.mod_lt _ (by decide)⟩⟩, x := y, m := s.mem, pt := s.part run.part
    geo := s.geo, now := s.now, drawNo := i.dec.drawBase.toNat, u := u, seq := i.dec.seq, mask := i.mask.or (some {}) }
  match i.dec.body with
  | .press q =>
    let t := y.tiles.getD (tileAt q.quad q.tile) {}
    match t.row, t.fmt with
    | some r, some f => w.loadwOp { tile := q.tile, quad := q.quad, fmt := Fmt.code f, two8 := t.two8, row := r }
    | _, _ => w
  | _ => w

/-- What a PRESS presses on the arbiter, for the capture (R399). -/
def Work.pressedBy (w : Work) : Order → List Pressed
  | .press q => w.pressed q ((Fmt.ofCode q.afmt).getD .e4m3)
  | .pressCompacted q =>
    match w.x.streams.head? with
    | none => []
    | some st =>
      let c := w.streamOf st
      let us := (w.readPlan c.par.planRow).1
      CPress.all { op := q, s := c, ctx := w.pressCtx q c.af, grad := w.m.freeCtr } w.x ((c.par.mine us).flatMap fun u => u.loadsOf w.x.side)
  | _ => []

/-- The triples of vector `v` on a line: of each cell along it the weight slice, the piece of the vector, the weight scales
and the piece's scales (R399). -/
def triples (qs : List Pressed) (line v : Nat) : List (List Byte) :=
  match qs.find? fun q => q.base ≤ v && v < q.base + q.vecs.length with
  | none => []
  | some q =>
    let p := q.p
    let wf := p.tile.fmt.getD .e4m3
    let cb := cellBytes wf p.two8
    let cs := cellScales wf p.two8
    let x := q.vecs.getD (v - q.base) ([], [])
    let at_ := line - (if p.fwd then p.c0 else p.r0)
    (List.range p.side).map fun k =>
      let cell := if p.fwd then p.side * k + at_ else p.side * at_ + k
      let pb := pieceBytes p.af p.two8
      let sc := cellScales p.af p.two8
      sliceAt p.tile.data (cb * cell) cb ++
        (if p.fwd then sliceAt x.1 (pb * k) pb
         else leBytes 4 (elemAt p.af.width k (leNat x.1))) ++
        sliceAt p.tile.scales (cs * cell) cs ++
        (if p.fwd then sliceAt x.2 (sc * k) sc else if p.af.isMx then sliceAt x.2 k 1 else [])

/-- The outputs of one line of a PRESS, by vector: a vector holds `stride` outputs. -/
def lineOutputs (p : PressCtx) (stride line : Nat) (outs : List Nat) : List (Nat × Nat) :=
  let at_ := line - (if p.fwd then p.c0 else p.r0)
  (outs.zipIdx.filter fun o => (if p.fwd then o.2 % stride % p.side else o.2 % stride / p.k) = at_).map fun o => (o.2 / stride, o.1)

/-- The first vector whose output on the held line differs between the held bench and the arbiter (R399). -/
def differs (qs : List Pressed) (compacted : Bool) (line : Nat) (held arb : List Nat) : Option Nat :=
  match qs with
  | [] => none
  | q :: _ =>
    let stride := if q.p.fwd && compacted then 4 * q.p.side else q.p.per
    (((lineOutputs q.p stride line held).zip (lineOutputs q.p stride line arb)).find? fun o => o.1.2 ≠ o.2.2).map (·.1.1)

/-- The verdict on three values (R397), and with `sound` false an operand fault. -/
def verdictOf (sound : Bool) (a o c : List Nat) : Nat := if !sound then 3 else if a = o then 1 else if a = c then 2 else 3

/-- The arbiter's recompute of a held order (R396, R397, R399): the verdict, the first differing output and the captured
records. `u` is what strikes the arbiter's own run. -/
def State.recompute (s : State) (run : ArbRun) (u : Upset) : Nat × Option Nat × List (List Byte) :=
  let i := run.order
  let mine := i.checks.filter fun c => c.kind = run.kind
  let first : Compare := mine.head?.getD {}
  let bent (mask : Nat) : List Nat := first.right.map fun r => Nat.xor r mask
  let w0 := s.arbiterWork run u
  let w := Order.effect i.dec.body w0
  match run.kind with
  | .examiner =>
    let lines := mine.map fun c => (w.checks.find? fun d => d.kind = .examiner && d.code = c.code).getD { chk := [8191] }
    let v := verdictOf (lines.all fun d => d.orig = d.chk) (lines.flatMap (·.orig)) (mine.flatMap (·.orig)) (mine.flatMap (·.chk))
    let qs := w0.pressedBy i.dec.body
    let d := differs qs (match i.dec.body with | .pressCompacted _ => true | _ => false) run.line i.outs w.outs
    (v, d, match d with | some k => triples qs run.line k | none => [])
  | .paired =>
    let a := bent (match u.pair with | some e => if e.second then 0 else e.mask | none => 0)
    (verdictOf true a first.orig first.chk, some first.index, [sliceAt first.ops 0 (roundUp first.ops.length 4)])
  | .shadow =>
    let a := bent (match u.lane with | some e => if e.inShadow then 0 else e.mask | none => 0)
    (verdictOf true a first.orig first.chk, some first.index, [sliceAt first.ops 0 (roundUp first.ops.length 4)])
  | .sortCheck =>
    let d := firstDiff 0 first.orig w.outs
    let recs := match i.dec.body with
      | .sort _ => match d with | some k => [leBytes 8 (w.outs.getD k 0)] | none => []
      | .scan q => (elems (scanBytes q.typ) q.n (w0.x.shelfRead (512 * q.srcRow) (scanBytes q.typ * q.n))).map (leBytes (scanBytes q.typ))
      | _ => []
    (verdictOf true w.outs first.orig first.chk, d, recs)
  | .none => (3, none, [])

/-- The verdict on the comparison of A with O and C (R397). -/
def execArbiterVerdict (b : BenchId) (u : Upset) (s : State) : Result :=
  match s.runFor b with
  | some run =>
    if !s.clerkTime || !run.copied then .next s
    else
      let (v, index, recs) := s.recompute run u
      let capture := (s.arbiterWork run u).x.capture run.kind run.order.dec.body run.line recs
      .next ((s.endRun run).verdict b (some run.arb) run.kind run.part run.epoch v index (some capture))
  | none => .next s

/-- No verdict within 2 ms of the hold: unarbitrated (R397). -/
def execArbiterTimeout (b : BenchId) (s : State) : Result :=
  let x := s.bench b
  match s.runFor b with
  | some run =>
    if !s.clerkTime || !s.passed (if x.hold = .none then run.at_ else x.holdSince) (ms 2) then .next s
    else .next ((s.endRun run).verdict b (some run.arb) run.kind run.part run.epoch 4 none none)
  | none =>
    match x.partOf with
    | none => .next s
    | some p =>
      if !s.clerkTime || !x.unjudged || !s.passed x.holdSince (ms 2) then .next s
      else .next (s.verdict b none x.hold p (s.part p).epoch 4 none none)

/-- The closing rinse of an arbiter bench ends: it is available again, and a pending self-test starts (R395,
R417). -/
def execArbiterRinseDone (b : BenchId) (s : State) : Result :=
  if !s.clerkTime || !(s.bench b).closingRinse then .next s
  else .next (s.modBench b fun x => x.rinse.takePending)

/-! Self-tests -/

/-- BI_TEST GO (R411, R418): refused while a test is pending or runs, pending where it may not start yet. -/
def State.requestTest (s : State) (b : BenchId) (extra : Bool) : State :=
  s.modBench b fun x =>
    if x.testing || x.testPending.isSome then { x with testResult := 3 }
    else { x with testPending := some extra }.takePending

/-- BI_TEST GO; on an unpowered tile the access is a misuse (01 R38). -/
def execBiTestGo (b : BenchId) (extra : Bool) (s : State) : Result :=
  .next (s.byClerk fun s => s.inTile b.tile.val fun s => s.requestTest b extra)

/-- The unit for which a self-test fails, 0 where the bench passes (R412, R418): cells that no two rows and two
columns cover (01 R26), fewer than 64 merge leaves (01 R27), a shelf row without a spare of its own in its bank
(01 R28). -/
def TestOutcome.failing : TestOutcome → Nat
  | .fail unit => unit
  | .pass cells rows cols leaves shelf =>
    let spares := shelf.map (·.2)
    if 2 < rows.length || 2 < cols.length || !(rows ++ cols).all (· < 34) ||
        !cells.all (fun c => rows.contains c.1 || cols.contains c.2) then 1
    else if 4 < leaves.length || !leaves.all (· < 68) then 2
    else if !shelf.all (fun r => r.1 < shelfRows && r.2 < 64 && r.1 % 4 = r.2 % 4) || !(spares.zipIdx.all fun e => !(spares.take e.2).contains e.1) then 3
    else 0

def TestOutcome.passes (r : TestOutcome) : Bool :=
  match r with
  | .pass .. => TestOutcome.failing r = 0
  | .fail _ => false

/-- The outcome of a self-test (R412): a bench that passes reads free with its new exclusions, one that fails
reads retired. -/
def Bench.tested (x : Bench) (r : TestOutcome) : Bench :=
  let x := { x.rinse with testing := false, testExtra := false }
  match r with
  | .pass _ rows cols leaves shelf =>
    if TestOutcome.passes r then { x with
      asg := .free, exclRows := rows, exclCols := cols, leavesOut := leaves, shelfSpares := shelf, testResult := 1, failUnit := 0 }
    else { x with asg := .retired, testResult := 2, failUnit := BitVec.ofNat 3 (TestOutcome.failing r) }
  | .fail unit => { x with asg := .retired, testResult := 2, failUnit := BitVec.ofNat 3 unit }

/-! Physical units behind the logical ones (01 R26 to R28): every order, mask and report names logical units. -/

/-- The first `serve` of `phys` physical units in order, those excluded left out. -/
def servingOf (phys serve : Nat) (excluded : List Nat) : List Nat :=
  ((List.range phys).filter fun i => !excluded.contains i).take serve

/-- The physical cell of a logical row and column (01 R26). -/
def Bench.physCell (x : Bench) (row col : Fin 32) : Nat × Nat :=
  ((servingOf 34 32 x.exclRows).getD row.val 0, (servingOf 34 32 x.exclCols).getD col.val 0)

/-- The physical merge leaf of a logical one (01 R27). -/
def Bench.physLeaf (x : Bench) (leaf : Fin 64) : Nat := (servingOf 68 64 x.leavesOut).getD leaf.val 0

/-- The physical shelf row of a logical one: itself, or past row 16,383 its spare (01 R28). -/
def Bench.physRow (x : Bench) (row : Nat) : Nat :=
  match x.shelfSpares.find? fun e => e.1 = row with
  | some e => shelfRows + e.2
  | none => row

/-- A self-test completes, its closing rinse included; a failure is ticketed (R412, R414; 15 R435). -/
def execSelfTestDone (b : BenchId) (r : TestOutcome) (s : State) : Result :=
  if !s.clerkTime || !(s.bench b).testing then .next s
  else
    let s := s.modBench b (·.tested r)
    .next (if TestOutcome.passes r then s else s.raise 0x2 (BenchId.unit b) 0x0024)

/-! Power gating -/

/-- The mangle gates logical lines that no vector has used for 4,096 steps; nothing else changes (05 R146). -/
def execManglePowerGate (b : BenchId) (rows cols : BitVec 32) (s : State) : Result :=
  if !s.tileIsOn b.tile.val then .next s
  else .next (s.modBench b fun x => { x with gatedRows := x.gatedRows ||| rows, gatedCols := x.gatedCols ||| cols })

end Sys2Proof.Machine
end

