-- ==== Sys2Proof/Machine/Pattern.lean ====
section
/-! DEFINITION. The pattern bit-stream (03 R75 to R91) and its validation in stream order (03 R92 to R95). A
rejection is a code of R93, the section index and the byte offset of the first failing field. -/

namespace Sys2Proof.Machine

open Sys2Proof

/-- Where a check failed. -/
structure Reject where
  code : Nat
  sect : Nat
  off : Nat
  deriving DecidableEq, Repr

abbrev Check := Except Reject

/-- What the validator knows of the stream so far. -/
structure VState where
  sec : Nat := 0
  pos : Nat := 64
  modSec : Option ModSection := none
  named : List (Nat × Nat) := []
  rates : List (Nat × Nat) := []
  trees : Nat := 0
  locked : Bool := false
  parts : List PartImage := []

/-- What it knows of the module. -/
structure VCtx where
  d : List Byte
  s : State
  kind : Nat := 0
  mask : Nat := 0
  total : Nat := 0

def VCtx.u (c : VCtx) (off w : Nat) : Nat := leAt c.d off w

def need (sec : Nat) (ok : Bool) (code off : Nat) : Check Unit := if ok then .ok () else .error ⟨code, sec, off⟩

/-- Code 0x06 at the first byte of a range that is not zero. -/
def VCtx.zero (c : VCtx) (sec off n : Nat) : Check Unit :=
  match (List.range n).find? fun i => c.u (off + i) 1 ≠ 0 with
  | some i => .error ⟨0x06, sec, off + i⟩
  | none => .ok ()

/-- Runs checks over a list. -/
def eachCheck {α : Type} (f : α → Check Unit) : List α → Check Unit
  | [] => .ok ()
  | a :: as => do f a; eachCheck f as

/-- Folds a state through checks over a list. -/
def foldCheck {α β : Type} (f : β → α → Check β) : β → List α → Check β
  | b, [] => .ok b
  | b, a :: as => do let b ← f b a; foldCheck f b as

/-- Whether a partition is replaced by the stream. -/
def VCtx.replaces (c : VCtx) (p : PartId) : Bool := bit c.mask p.val && (c.s.part p).loaded

/-- Whether a bench can be named (R93 code 0x07): not retired, not assigned to or held by a partition that the
stream does not replace, not rinsing or testing or in an arbiter run, on a powered tile. -/
def State.benchFree (s : State) (mask : Nat) (t b : Nat) : Bool :=
  let x := s.benches.getD (34 * t + b) {}
  let mine (p : PartId) : Bool := bit mask p.val && (s.part p).loaded
  s.tileIsOn t && x.rinsing.isNone && !x.testing && !x.arbiter && !x.closingRinse &&
  (match x.asg with
   | .retired => false
   | .free => true
   | .assigned p _ _ => mine p
   | .held p => mine p)

/-! The stream header (R75) -/

/-- The checks of the header. DESIGN CHOICE (log 124): the header lies before section 0, and a failure in it reports 0. -/
def VCtx.header (c : VCtx) (len : Nat) : Check VCtx := do
  need 0 (c.u 0 4 = 0x5708FA77) 0x01 0
  need 0 (c.u 4 2 = 1) 0x01 4
  need 0 (c.u 6 2 = 0x5708) 0x01 6
  let total := c.u 8 4
  need 0 (total = len && total % 64 = 0 && 192 ≤ total && total ≤ 1048576) 0x02 8
  let kind := c.u 0x0C 1
  need 0 (1 ≤ kind && kind ≤ 3) 0x01 0x0C
  need 0 (kind ≠ 1 || c.s.parts.all fun p => !p.loaded) 0x0E 0x0C
  need 0 (kind ≠ 2 || c.s.loader.geometry.isSome) 0x12 0x0C
  let mask := c.u 0x0D 1
  need 0 ((kind ≠ 2 || mask ≠ 0) && (kind ≠ 3 || mask = 0)) 0x05 0x0D
  c.zero 0 0x0E 50
  pure { c with kind := kind, mask := mask, total := total }

/-! The module section (R79, R81) -/

/-- The checks of the module section in the order of its bytes. DEDUCED (log 125): a value outside the list of its field, and
a PEER byte of a port that is not express, have 0x05 before any other code; the product of the DIM bytes stands at DIM_X. -/
def VCtx.modSection (c : VCtx) (sec s : Nat) : Check ModSection := do
  let dim := (List.range 3).map fun i => c.u (s + i) 1
  let old := if c.kind = 3 then c.s.loader.geometry else none
  eachCheck (fun i => do
    need sec (1 ≤ dim.getD i 0 && dim.getD i 0 ≤ 64) 0x05 (s + i)
    need sec (match old with | some g => g.dim.getD i 0 = dim.getD i 0 | none => true) 0x0E (s + i)) (List.range 3)
  need sec (dim.foldl (· * ·) 1 ≤ 32768) 0x05 s
  c.zero sec (s + 3) 1
  let coord := (List.range 3).map fun i => c.u (s + 4 + i) 1
  eachCheck (fun i => do
    need sec (coord.getD i 0 < dim.getD i 0) 0x05 (s + 4 + i)
    need sec (match old with | some g => g.coord.getD i 0 = coord.getD i 0 | none => true) 0x0E (s + 4 + i)) (List.range 3)
  c.zero sec (s + 7) 1
  let pd := (List.range 6).map fun d => c.u (s + 8 + d) 1
  eachCheck (fun d => do
    let v := pd.getD d 0
    need sec (v ≤ 7 || v = 0x0F) 0x05 (s + 8 + d)
    need sec (if dim.getD (d / 2) 1 = 1 then v = 0x0F else v ≠ 0x0F && !(pd.take d).contains v) 0x0B (s + 8 + d)) (List.range 6)
  c.zero sec (s + 0x0E) 2
  let det := (List.range 6).map fun d => c.u (s + 0x10 + d) 1
  let role (n : Nat) : Nat := c.u (s + 0x20 + 4 * n) 1
  eachCheck (fun d => do
    let v := det.getD d 0
    need sec (v ≤ 7 || v = 0x0E || v = 0x0F) 0x05 (s + 0x10 + d)
    need sec (if pd.getD d 0 = 0x0F then v = 0x0F else v = 0x0E || v = 0x0F || role v = 1) 0x0C (s + 0x10 + d)) (List.range 6)
  c.zero sec (s + 0x16) 10
  eachCheck (fun n => do
    let o := s + 0x20 + 4 * n
    let peer := (List.range 3).map fun i => c.u (o + 1 + i) 1
    need sec (role n ≤ 4) 0x05 o
    need sec ((role n = 0) = pd.contains n) 0x0B o
    eachCheck (fun i => need sec (if role n = 2 then peer.getD i 0 < dim.getD i 0 else peer.getD i 0 = 0) 0x05 (o + 1 + i)) (List.range 3)
    need sec (role n ≠ 2 || peer ≠ coord) 0x0B (o + 1)) (List.range 8)
  pure { dim := dim, coord := coord, portDir := pd, detour := det
         ports := (List.range 8).map fun n => (role n, (List.range 3).map fun i => c.u (s + 0x21 + 4 * n + i) 1) }

/-! Partition sections (R82 to R91) -/

/-- The partition header. ADDR_BOOK_BASE lies in the populated part of a stack whose tile is powered (R82; 16 R450). -/
def VCtx.partHeader (c : VCtx) (sec s : Nat) (p : PartId) : Check PartHdr := do
  let e := c.u s 2
  let old := c.s.part p
  need sec (!old.loaded || BitVec.ofNat 16 e = old.epoch || BitVec.ofNat 16 e = old.epoch + 1) 0x0F s
  let range (off w lo hi : Nat) : Check Unit := need sec (lo ≤ c.u (s + off) w && c.u (s + off) w ≤ hi) 0x05 (s + off)
  range 2 1 0 1
  range 3 1 0 1
  range 4 1 0 1
  c.zero sec (s + 5) 1
  range 6 2 1 1000
  range 8 2 1 1000
  range 0x0A 2 1 10000
  range 0x0C 2 5 200
  range 0x0E 2 25 1000
  range 0x10 2 1 256
  range 0x12 2 32 1024
  c.zero sec (s + 0x14) 4
  let book := c.u (s + 0x18) 8
  need sec (book % 4096 = 0 && (match c.s.mem.reach book with | .ok _ _ => true | _ => false)) 0x10 (s + 0x18)
  c.zero sec (s + 0x20) 32
  pure { epoch := BitVec.ofNat 16 e, quiesce := c.u (s + 2) 1, stainPolicy := c.u (s + 3) 1, strictPolicy := c.u (s + 4) 1
         drainMs := c.u (s + 6) 2, tSeamMs := c.u (s + 8) 2, tTokenMs := c.u (s + 0x0A) 2, tMem := c.u (s + 0x0C) 2
         tCreditMs := c.u (s + 0x0E) 2, tallyInterval := c.u (s + 0x10) 2, splitThreshold := c.u (s + 0x12) 2, addrBook := book }

/-- A bench named by the stream: once, and available. -/
def VCtx.name (c : VCtx) (v : VState) (t b off : Nat) : Check VState := do
  need v.sec (!v.named.contains (t, b)) 0x08 off
  need v.sec (c.s.benchFree c.mask t b) 0x07 off
  pure { v with named := v.named ++ [(t, b)] }

def VCtx.benches (c : VCtx) (s n : Nat) (v : VState) : Check (VState × List BenchRec) :=
  foldCheck (fun (a : VState × List BenchRec) i => do
    let r := s + 8 * i
    let t := c.u r 1
    let b := c.u (r + 1) 1
    let l := c.u (r + 2) 1
    need v.sec (t ≤ 3) 0x05 r
    need v.sec (b ≤ 33) 0x05 (r + 1)
    let v ← c.name a.1 t b r
    need v.sec (l < n && a.2.all fun q => q.logical ≠ l) 0x08 (r + 2)
    need v.sec (c.u (r + 3) 1 ≤ 1) 0x05 (r + 3)
    c.zero v.sec (r + 4) 4
    pure (v, a.2 ++ [{ tile := t, phys := b, logical := l, shape := c.u (r + 3) 1 }])) (v, []) (List.range n)

/-- The seam records. DEDUCED (log 125): a SEAM_ID or an end out of range has 0x05 before 0x09. -/
def VCtx.seams (c : VCtx) (sec s n : Nat) (bs : List BenchRec) : Check (List SeamRec) :=
  let tileOf (l : Nat) : Option Nat := (bs.find? fun q => q.logical = l).map (·.tile)
  foldCheck (fun (a : List SeamRec) i => do
    let r := s + 8 * i
    let m : SeamRec := { id := c.u r 2, src := c.u (r + 2) 1, srcOut := c.u (r + 3) 1, dst := c.u (r + 4) 1, dstIn := c.u (r + 5) 1 }
    need sec (m.id ≤ 511) 0x05 r
    need sec (a.all fun q => q.id ≠ m.id) 0x09 r
    need sec (tileOf m.src).isSome 0x09 (r + 2)
    need sec (m.srcOut ≤ 3) 0x05 (r + 3)
    need sec (a.all fun q => q.src ≠ m.src || q.srcOut ≠ m.srcOut) 0x09 (r + 3)
    need sec ((tileOf m.dst).isSome && m.dst ≠ m.src && tileOf m.dst = tileOf m.src) 0x09 (r + 4)
    need sec (m.dstIn ≤ 3) 0x05 (r + 5)
    need sec (a.all fun q => q.dst ≠ m.dst || q.dstIn ≠ m.dstIn) 0x09 (r + 5)
    c.zero sec (r + 6) 2
    pure (a ++ [m])) [] (List.range n)

def VCtx.regs (c : VCtx) (s n : Nat) (v : VState) : Check (VState × List RegRec) :=
  foldCheck (fun (a : VState × List RegRec) i => do
    let r := s + 8 * i
    let t := c.u r 1
    let rate := c.u (r + 2) 2
    let rates := addCount a.1.rates t rate
    need v.sec (t ≤ 13 || (0x20 ≤ t && t ≤ 0x27)) 0x05 r
    need v.sec (a.2.all fun q => q.target ≠ t) 0x05 r
    c.zero v.sec (r + 1) 1
    need v.sec (rate ≤ 1024) 0x05 (r + 2)
    need v.sec (rates.all fun q => q.1 ≠ t || q.2 ≤ 1024) 0x0A (r + 2)
    need v.sec (1 ≤ c.u (r + 4) 2) 0x05 (r + 4)
    c.zero v.sec (r + 6) 2
    pure ({ a.1 with rates := rates }, a.2 ++ [{ target := t, rate := rate, depth := c.u (r + 4) 2 }])) (v, []) (List.range n)

/-- The tree records. DEDUCED (log 125): a field out of range has 0x05 before 0x0D. -/
def VCtx.trees (c : VCtx) (s n : Nat) (v : VState) : Check (VState × List TreeRec) :=
  let g := (v.modSec.or c.s.loader.geometry).getD {}
  let dead (d : Nat) : Bool := g.portDir.getD d 0x0F = 0x0F
  foldCheck (fun (a : VState × List TreeRec) i => do
    let r := s + 16 * i
    let id := c.u r 1
    let modes := c.u (r + 1) 1
    let parent := c.u (r + 2) 1
    let k := c.u (r + 3) 1
    let kids := (List.range 6).map fun j => c.u (r + 4 + j) 1
    need v.sec (id ≤ 15) 0x05 r
    need v.sec ((a.2.all fun q => q.id ≠ id) && a.1.trees < 32) 0x0D r
    need v.sec (modes ≤ 7 && bit modes 1) 0x05 (r + 1)
    need v.sec (parent ≤ 5 || parent = 0x0F) 0x05 (r + 2)
    need v.sec (parent = 0x0F || !dead parent) 0x0D (r + 2)
    need v.sec (k ≤ 6) 0x05 (r + 3)
    eachCheck (fun j => do
      let x := kids.getD j 0
      need v.sec (k ≤ j || x ≤ 5) 0x05 (r + 4 + j)
      need v.sec (if j < k then x ≠ parent && !(kids.take j).contains x && !dead x else x = 0x0F) 0x0D (r + 4 + j)) (List.range 6)
    let rep := c.u (r + 0x0A) 2
    need v.sec (if bit modes 2 then 2 ≤ rep && rep ≤ 16 else 1 ≤ rep && rep ≤ 32768) 0x05 (r + 0x0A)
    c.zero v.sec (r + 0x0C) 4
    pure ({ a.1 with trees := a.1.trees + 1 },
      a.2 ++ [{ id := id, modes := modes, parent := parent, children := kids.take k, replicas := rep }])) (v, []) (List.range n)

def VCtx.reserves (c : VCtx) (s n : Nat) (v : VState) : Check (VState × List (Nat × Nat)) :=
  foldCheck (fun (a : VState × List (Nat × Nat)) i => do
    let r := s + 2 * i
    need v.sec (c.u r 1 ≤ 3) 0x05 r
    need v.sec (c.u (r + 1) 1 ≤ 33) 0x05 (r + 1)
    let v ← c.name a.1 (c.u r 1) (c.u (r + 1) 1) r
    pure (v, a.2 ++ [(c.u r 1, c.u (r + 1) 1)])) (v, []) (List.range n)

/-! Sections in their order (R76, R77) -/

/-- Record size and COUNT range of a section type (R77). -/
def sectionShape (typ : Nat) : Nat × Nat × Nat :=
  match typ with
  | 0x01 | 0x10 => (64, 1, 1)
  | 0x11 => (8, 1, 128)
  | 0x12 => (8, 0, 512)
  | 0x13 => (8, 0, 22)
  | 0x14 => (16, 0, 16)
  | 0x15 => (4, 16, 16)
  | 0x16 => (4, 64, 64)
  | 0x17 => (2, 0, 32)
  | _ => (48, 1, 1)

/-- The records of a section. -/
def VCtx.body (c : VCtx) (typ part s n : Nat) (v : VState) : Check VState :=
  let setPart (v : VState) (f : PartImage → PartImage) : VState :=
    { v with parts := v.parts.map fun x => if x.part = part then f x else x }
  let cur := (v.parts.find? fun x => x.part = part).getD {}
  match typ with
  | 0x01 => do let g ← c.modSection v.sec s; pure { v with modSec := some g }
  | 0x10 => do
    let h ← c.partHeader v.sec s (Fin.ofNat 8 part)
    pure { v with parts := v.parts ++ [{ part := part, hdr := h }] }
  | 0x11 => do
    let (v, bs) ← c.benches s n v
    pure (setPart v fun x => { x with benches := bs, benchesAt := (v.sec, s) })
  | 0x12 => do let ms ← c.seams v.sec s n cur.benches; pure (setPart v fun x => { x with seams := ms })
  | 0x13 => do let (v, rs) ← c.regs s n v; pure (setPart v fun x => { x with regs := rs })
  | 0x14 => do let (v, ts) ← c.trees s n v; pure (setPart v fun x => { x with trees := ts })
  | 0x15 => do
    need v.sec (c.u s 4 = 0) 0x11 s
    pure (setPart v fun x => { x with fill := (List.range 16).map fun i => BitVec.ofNat 32 (c.u (s + 4 * i) 4) })
  | 0x16 => do
    eachCheck (fun i => need v.sec (1 ≤ c.u (s + 4 * i) 4 && c.u (s + 4 * i) 4 ≤ 1048576) 0x05 (s + 4 * i)) (List.range 64)
    pure (setPart v fun x => { x with caps := (List.range 64).map fun i => c.u (s + 4 * i) 4 })
  | 0x17 => do let (v, rs) ← c.reserves s n v; pure (setPart v fun x => { x with reserves := rs })
  | _ => do
    need v.sec (c.u s 4 = crc32c (c.d.take s)) 0x03 s
    c.zero v.sec (s + 4) 44
    pure v

/-- One section: its header, its records and its padding. -/
def VCtx.oneSection (c : VCtx) (v : VState) (tp : Nat × Nat) : Check VState := do
  let (typ, part) := tp
  let p := v.pos
  let (size, lo, hi) := sectionShape typ
  need v.sec (p + 16 ≤ c.total && c.u p 1 = typ) 0x04 p
  need v.sec (typ ≠ 0x11 || v.locked || (c.s.stackSet.take 12).all (·.lock)) 0x13 p
  need v.sec (c.u (p + 1) 1 = part) 0x04 (p + 1)
  c.zero v.sec (p + 2) 2
  let len := c.u (p + 4) 4
  let n := c.u (p + 8) 4
  need v.sec (len = roundUp (16 + n * size) 64 && p + len ≤ c.total) 0x02 (p + 4)
  need v.sec (lo ≤ n && n ≤ hi) 0x05 (p + 8)
  c.zero v.sec (p + 12) 4
  let v ← c.body typ part (p + 16) n { v with locked := v.locked || typ = 0x11 }
  c.zero v.sec (p + 16 + n * size) (len - 16 - n * size)
  pure { v with pos := p + len, sec := v.sec + 1 }

/-- The validator (R92): the parsed pattern, or the first failing check. -/
def State.validate (s : State) (d : List Byte) (len : Nat) : Check PatImage := do
  let c ← VCtx.header { d := d, s := s } len
  let parts := (List.range 8).filter fun j => bit c.mask j
  let stay := (allParts.filter fun p => (s.part p).loaded && !bit c.mask p.val).map s.part
  let v0 : VState := {
    rates := stay.foldl (fun a p => p.regs.foldl (fun a r => addCount a r.target r.rate) a) []
    trees := (stay.map fun p => p.trees.length).foldl (· + ·) 0 }
  let order := (if c.kind = 2 then [] else [(0x01, 0xFF)]) ++
    parts.flatMap (fun j => (List.range 8).map fun k => (0x10 + k, j)) ++ [(0xFF, 0xFF)]
  let v ← foldCheck c.oneSection v0 order
  need v.sec (v.pos = c.total) 0x02 v.pos
  pure { kind := c.kind, modSec := v.modSec, parts := v.parts, digest := sha512 d }

/-- The second check of bench availability (R94): the place of the first bench that the stream names and that
is no longer available. -/
def State.recheck (s : State) (img : PatImage) : Option Reject :=
  let mask := (img.parts.map fun p => 2 ^ p.part).foldl (· + ·) 0
  let places := img.parts.flatMap fun p =>
    let (sec, at_) := p.benchesAt
    let next (o n size : Nat) : Nat := o + roundUp (16 + n * size) 64
    let res := next (next (next (next (next (next at_ p.benches.length 8) p.seams.length 8) p.regs.length 8) p.trees.length 16) 16 4) 64 4
    (p.benches.zipIdx.map fun b => (b.1.tile, b.1.phys, sec, at_ + 8 * b.2)) ++
    (p.reserves.zipIdx.map fun b => (b.1.1, b.1.2, sec + 6, res + 2 * b.2))
  (places.find? fun q => !s.benchFree mask q.1 q.2.1).map fun q => ⟨0x07, q.2.2.1, q.2.2.2⟩

end Sys2Proof.Machine
end

