-- ==== Sys2Proof/Machine/Loader.lean ====
section
/-! DEFINITION. The pattern loader (03 R96 to R104): its commands, the phases of a load, the rinse of a
replaced or unloaded partition, and the routes of a staged routes load (03 R81). -/

namespace Sys2Proof.Machine

open Sys2Proof

/-! Credits of frames that leave a receive buffer (12 R343) -/

/-- Cells of a receive buffer that a frame takes (R343). -/
def frCells (f : Frame) : Nat := 1 + f.plen

/-- A frame has left the receive buffer of its port: its cells go back to the sender (R343). -/
def State.payCredit (s : State) (n : Option PortId) (f : Frame) : State :=
  match n with
  | none => s
  | some n => s.modPort n fun x => { x with owe := x.owe ++ [(frPair f, f.shr, frCells f)] }

/-- The cells of frames that wait in receive stores are paid back and the frames dropped. -/
def State.dropStored (s : State) (fs : List (Option PortId × Frame)) : State := fs.foldl (fun s e => s.payCredit e.1 e.2) s

/-! Routes (R81) and the routes a returned port has back (12 R335) -/

/-- The module section that a partition's own traffic follows. -/
def State.routesOf (s : State) (p : PartId) : ModSection :=
  match s.loader.staged with
  | some g => if (s.part p).ownMoved then g else s.geo
  | none => s.geo

/-- The ROLE under which a port trains: that of the section in force, else that of a staged one (12 R333). -/
def State.trainRole (s : State) (n : Nat) : Nat :=
  if roleOf s.geo n ≠ 4 then roleOf s.geo n else match s.loader.staged with | some g => roleOf g n | none => 4

/-- Whether the ports may work at all (12 R327, R334). -/
def State.portsOn (s : State) : Bool := s.loader.geometry.isSome && s.time.clkMode.toNat ≤ 1

/-- A port is off without a ROLE and down once it has one (12 R334). -/
def State.portsByRole (s : State) : State :=
  allPorts.foldl (fun s n => s.modPort n fun x =>
    if !s.portsOn || s.trainRole n.val = 4 then { x with state := 0, everTrained := false }
    else if x.state = 0 then { x with state := 1 } else x) s

/-- The staged section comes into force once every partition loaded at staging has moved (R81). -/
def State.settleRoutes (s : State) : State :=
  match s.loader.staged with
  | some g =>
    if s.loader.stagedFor.isEmpty then
      State.portsByRole { s with loader := { s.loader with geometry := some g, staged := none } }
    else s
  | none => s

/-- A ready port serves once every partition's own traffic and the transit traffic have returned (12 R335). -/
def Port.settle (x : Port) : Port :=
  if x.state = 4 && x.returned.all id then { x with transitBack := true, state := 5 } else x

/-- A partition has changed its epoch or has been unloaded: its own traffic moves to staged routes (R81) and
returns to ready ports (12 R335). -/
def State.epochMoved (s : State) (p : PartId) : State :=
  let s := s.modPart p fun x => { x with ownMoved := true }
  let s := { s with
    loader := { s.loader with stagedFor := s.loader.stagedFor.filter (· ≠ p) }
    ports := s.ports.map fun (x : Port) => ({ x with returned := x.returned.set p.val true } : Port).settle }
  s.settleRoutes

/-! The end of a command -/

/-- A LOAD ends with a result and, after a rejection, its code and place (R92, R104). -/
def State.finishLoad (s : State) (result : BitVec 3) (r : Reject) : State :=
  { s with loader := { s.loader with
      busy := false, phase := .idle, result := result, code := r.code, sect := r.sect, offset := r.off
      lastTime := (s.now - s.loader.cmdAt) % 2 ^ 32, image := none, toRinse := [] } }

/-! Apply (R96, R99) -/

/-- Whether an image names a partition. -/
def PatImage.names (img : PatImage) (p : PartId) : Bool := img.parts.any fun x => x.part = p.val

/-- The module section of the image: in force at once, or staged behind the loaded partitions (R81). DESIGN CHOICE (log
126): while one is staged a second takes its place, and waits for every loaded partition again. -/
def State.applyGeometry (s : State) (img : PatImage) : State :=
  match img.modSec with
  | none => s
  | some g =>
    let loaded := allParts.filter fun p => (s.part p).loaded
    if img.kind = 3 && !loaded.isEmpty then
      let s := { s with loader := { s.loader with staged := some g, stagedFor := loaded } }
      (loaded.foldl (fun s p => s.modPart p fun x => { x with ownMoved := false }) s).portsByRole
    else State.portsByRole { s with loader := { s.loader with geometry := some g, staged := none, stagedFor := [] } }

/-- What a bench is assigned to by the image. -/
def PatImage.asgOf (img : PatImage) (b : BenchId) : Option Assign :=
  img.parts.findSome? fun x =>
    let p : PartId := Fin.ofNat 8 x.part
    match x.benches.find? fun q => q.tile = b.tile.val && q.phys = b.phys.val with
    | some q => some (.assigned p q.logical (q.shape = 1))
    | none => if x.reserves.contains (b.tile.val, b.phys.val) then some (.held p) else none

/-- The benches take their new states (R99); one that had run holds no program (R98). -/
def State.applyBenches (s : State) (img : PatImage) (old : List PartId) : State :=
  allBenches.foldl (fun s b =>
    let was := match (s.bench b).ownerOf with | some p => old.contains p | none => false
    match img.asgOf b with
    | some a => s.modBench b fun x =>
      let x := if x.partOf.isSome then x.rinse else x
      { x with asg := a }
    | none => if was then s.modBench b fun x => (if x.partOf.isSome then x.rinse else x).leave else s) s

/-- The new regulator records of a partition start full (11 R301, R324). -/
def State.fillBuckets (s : State) (p : PartId) (rs : List RegRec) : State :=
  let full (r : RegRec) (b : Bucket) : Bucket := { b with lvl := b.lvl.set p.val (r.depth * 1024) }
  rs.foldl (fun s r =>
    if r.target < 14 then { s with stackSet := s.stackSet.modify r.target fun x => { x with bucket := full r x.bucket } }
    else { s with ports := s.ports.modify (r.target - 0x20) fun x => { x with
        txBucket := full r x.txBucket, rxBucket := full r x.rxBucket } }) s

/-- A partition takes its new structure and timers; a new or changed epoch begins its barrier (14 R408). DESIGN CHOICE (log
126): one that is first loaded while routes are staged sends by the staged routes. -/
def State.applyPart (s : State) (img : PatImage) (x : PartImage) : State :=
  let p : PartId := Fin.ofNat 8 x.part
  let old := s.part p
  let fresh : Partition := {
    loaded := true, rinsing := old.rinsing, snapshot := old.snapshot, epoch := x.hdr.epoch, hdr := x.hdr, benches := x.benches
    seams := x.seams.map fun m => { rcd := m, since := s.now }
    regs := x.regs, trees := x.trees, fill := x.fill, caps := x.caps
    reserves := x.reserves.map fun r => (Fin.ofNat 4 r.1, Fin.ofNat 34 r.2)
    digest := img.digest, ownMoved := old.ownMoved, keptSeams := old.keptSeams }
  let s := (s.modPart p fun _ => fresh).modInteg p fun g => { g with contribs := [] }
  let s := s.fillBuckets p x.regs
  if old.loaded && old.epoch == x.hdr.epoch then s
  else (s.epochMoved p).barrierStart p

/-- The load applies, unless a bench that it names is no longer available (R94). -/
def State.applyLoad (s : State) (img : PatImage) : State :=
  match s.recheck img with
  | some r => s.finishLoad 2 r
  | none =>
    let old := allParts.filter fun p => (s.part p).loaded && img.names p
    let s := (s.applyGeometry img).applyBenches img old
    (img.parts.foldl (fun s x => s.applyPart img x) s).finishLoad 1 ⟨0, 0, 0⟩

/-! Quiesce (R96, R97) -/

/-- The partitions that quiesce with drain. -/
def PatImage.drains (img : PatImage) (p : PartId) : Bool := img.parts.any fun x => x.part = p.val && x.hdr.quiesce = 0

/-- A partition's orders are cancelled; what its benches wait for in memory stays outstanding. -/
def State.abortPart (s : State) (p : PartId) : State :=
  let bs := s.benchesOf p
  let reqs := bs.flatMap fun b =>
    ((s.bench b).lineReqs.map fun r => ({ bench := b.idx, pa := r.1, since := r.2 } : MemWait)) ++
    (s.bench b).walks.map fun w => ({ bench := b.idx, pa := w.va, since := w.since } : MemWait)
  let s := s.dropStored ((s.part p).redFrames.map fun e => (e.1, e.2.1))
  let s := s.modPart p fun x => { x with pendReqs := x.pendReqs ++ reqs, reds := [], redFrames := [], brokenReds := [] }
  (bs.foldl State.cancelFolds s).modBenches bs fun x => { x.cancel with stopped := true, haltCode := none, fStream := [], bStream := [], queue := [], loops := [] }

/-- The wait for memory begins; with nothing outstanding the rinse follows at once. -/
def State.memPhase (s : State) : State :=
  State.memSettled { s with loader := { s.loader with phase := .memWait, phaseAt := s.now } }

/-- The second phase: the replaced partitions stop issuing, and drain or cancel. -/
def State.startQuiesce (s : State) (img : PatImage) : State :=
  let reps := allParts.filter fun p => (s.part p).loaded && img.names p
  let s := { s with loader := { s.loader with image := some img, toRinse := reps, phaseAt := s.now, phase := .drain } }
  if reps.isEmpty then s.applyLoad img
  else
    let s := reps.foldl (fun s p => s.modPart p fun x => { x with quiescing := true }) s
    let s := (reps.filter fun p => !img.drains p).foldl State.abortPart s
    if reps.any img.drains then s else s.memPhase

def Order.isWait : Order → Bool
  | .wait _ => true
  | _ => false

/-- A stream stands at a WAIT: an issued one holds it, or one heads it. -/
def Bench.atWait (x : Bench) (stream : Bool) : Bool :=
  (x.inflight.any fun i => i.dec.hdr.stream = stream && Order.isWait i.dec.body) ||
  (match (if stream then x.bStream else x.fStream).head? with | some d => Order.isWait d.body | none => false)

/-- A bench has reached HALT or WAIT with no order in flight (R96): it runs no program, or has decoded HALT with its
streams empty, or stands at a WAIT with no other stream that holds orders. -/
def Bench.atRest (x : Bench) : Bool :=
  let done (stream : Bool) : Bool := (if stream then x.bStream else x.fStream).isEmpty
  (x.inflight.all fun i => Order.isWait i.dec.body) &&
  (x.seqState ≠ .running || (x.haltCode.isSome && x.inflight.isEmpty && done false && done true) ||
    ((x.atWait false || x.atWait true) && (x.atWait false || done false) && (x.atWait true || done true)))

/-- Whether every bench of a partition has reached HALT or WAIT with no order in flight. -/
def State.drained (s : State) (p : PartId) : Bool := (s.benchesOf p).all fun b => (s.bench b).atRest

/-- The drain is over: what is left is cancelled. -/
def State.endDrain (s : State) (img : PatImage) : State :=
  ((s.loader.toRinse.filter img.drains).foldl State.abortPart s).memPhase

/-! Rinse (R98, R100) -/

/-- The lines of a tile cache that a partition wrote leave it; `back` says whether they are written back. -/
def State.dropLines (s : State) (p : PartId) (back : Bool) : State :=
  let m := s.mem
  let mine := (m.caches.flatMap (·.lines)).filter fun l => l.writer = some p
  let m := if back then mine.foldl MemSys.writeBack m else m
  s.setMem { m with caches := m.caches.map fun c => { c with lines := c.lines.filter fun l => l.writer ≠ some p } }

/-- A bench's staging lines are released (13 R375). -/
def State.freeStaging (s : State) (b : BenchId) : State :=
  let s := s.modCache b.tile fun c => { c with stageLines := c.stageLines.filter fun e => e.2 ≠ b.phys }
  let free := 524288 - (s.cache b.tile).stageLines.length
  s.modBenches (allBenches.filter fun c => c.tile = b.tile && !(s.bench c).poolWaits.isEmpty) fun x =>
    { x with poolWaits := x.poolWaits.filter fun e => free < e.2 }

/-- The old set of a loaded partition: its benches, and those retired while they served it. -/
def State.oldSet (s : State) (p : PartId) : List BenchId :=
  allBenches.filter fun b =>
    (s.bench b).partOf = some p ||
    ((s.bench b).asg = .retired && (s.part p).benches.any fun q => q.tile = b.tile.val && q.phys = b.phys.val)

/-- The rinse of a replaced partition ends (R98). -/
def State.rinseOld (s : State) (p : PartId) : State :=
  let bs := s.oldSet p
  let s := (s.dropStored ((s.part p).redFrames.map fun e => (e.1, e.2.1))).dropStored (bs.flatMap fun b => (s.bench b).rxStore)
  let s := (bs.foldl State.freeStaging s).modBenches bs Bench.rinse
  let s := s.modPart p fun x => { x with
    seams := x.seams.map fun q => { q with rows := [], onTheWay := [], senders := [] }, reds := [], redFrames := [], brokenReds := [], pendReqs := [] }
  s.dropLines p true

/-- The rinse of an unloaded partition ends (R100): its old benches can be named again. Benches whose snapshot stands keep
their shelves until RELEASE (R101). -/
def State.rinseGone (s : State) (p : PartId) : State :=
  let all := allBenches.filter fun b => (s.bench b).rinsing = some p
  let bs := all.filter fun b => !(s.bench b).snapshot
  let kept := all.filter fun b => (s.bench b).snapshot
  let s := s.dropStored (all.flatMap fun b => (s.bench b).rxStore)
  let s := (all.foldl State.freeStaging s).modBenches kept fun x => { x.rinse with shelf := x.shelf, shelfStain := x.shelfStain }
  let s := s.modBenches bs fun x => { x.rinse with rinsing := none }.takePending
  s.modPart p fun x => { x with rinsing := false, keptSeams := if x.snapshot then x.keptSeams else [] }

/-! UNLOAD, UNLOAD_SNAPSHOT and RELEASE -/

/-- A command that is refused because of what it names (R104). -/
def State.refuseLoader (s : State) (result : BitVec 3) : State := { s with loader := { s.loader with result := result } }

/-- A command other than LOAD is done. -/
def State.doneLoader (s : State) : State :=
  { s with loader := { s.loader with result := 1, code := 0, sect := 0, offset := 0, lastTime := 0 } }

/-- The partition is removed (R100, R101): orders cancelled, benches free or retired, shares, trees and epoch
gone. `snap` keeps shelves, seam queues and tile-cache lines until RELEASE. -/
def State.unload (s : State) (p : PartId) (snap : Bool) : State :=
  let old := s.part p
  let bs := s.oldSet p
  let s := s.abortPart p
  let s := allBenches.foldl (fun s b =>
    if bs.contains b then s.modBench b fun x => { x.vacate with rinsing := some p, snapshot := snap }
    else if (s.bench b).ownerOf = some p then s.modBench b Bench.leave else s) s
  let s := s.modPart p fun _ =>
    { rinsing := true, snapshot := old.snapshot || snap, keptSeams := if snap then old.seams else old.keptSeams }
  let s := if snap then s else s.dropLines p false
  (s.epochMoved p).doneLoader

/-! The rows -/

/-- PL_CMD LOAD (R96): validation starts; refused while a command runs. -/
def execPlLoad (s : State) : Result :=
  if !s.clerkTime then .next s
  else if s.loader.busy then .next (s.refuseLoader 3)
  else .next { s with loader := { s.loader with
      busy := true, phase := .validate, cmdAt := s.now, phaseAt := s.now, cmdSrc := s.loader.src, cmdLen := s.loader.len
      drainTimeout := false } }

/-- PL_CMD UNLOAD (R100). -/
def execPlUnload (p : PartId) (s : State) : Result :=
  if !s.clerkTime then .next s
  else if s.loader.busy then .next (s.refuseLoader 3)
  else if !(s.part p).loaded then .next (s.refuseLoader 4)
  else .next (s.unload p false)

/-- PL_CMD UNLOAD_SNAPSHOT (R101): in MAKER and RETURN only. DESIGN CHOICE (log 127): refused while an earlier snapshot of
the partition stands. -/
def execPlUnloadSnapshot (p : PartId) (s : State) : Result :=
  let open_ : Bool := match s.nv.life with | .maker | .return_ => true | _ => false
  if !s.clerkTime then .next s
  else if s.loader.busy then .next (s.refuseLoader 3)
  else if !(s.part p).loaded || (s.part p).snapshot || !open_ then .next (s.refuseLoader 4)
  else .next (s.unload p true)

/-- PL_CMD RELEASE (R101): what UNLOAD_SNAPSHOT kept is rinsed as UNLOAD does. -/
def execPlRelease (p : PartId) (s : State) : Result :=
  if !s.clerkTime then .next s
  else if s.loader.busy then .next (s.refuseLoader 3)
  else if !(s.part p).snapshot then .next (s.refuseLoader 4)
  else
    let s := { s with benches := s.benches.map fun (x : Bench) => if x.rinsing = some p then { x with snapshot := false } else x }
    let s := s.modPart p fun x => { x with snapshot := false, rinsing := true }
    .next ((s.dropLines p false).doneLoader)

/-- Validation ends (R92): the rejection, or the start of the next phase. DESIGN CHOICE (log 128): a stream with stained lines
is validated as its bytes read. -/
def execLoadValidateDone (s : State) : Result :=
  let l := s.loader
  if !s.clerkTime || l.phase ≠ .validate then .next s
  else
    match if l.cmdSrc % 64 = 0 then s.mem.readBytes l.cmdSrc (max 64 l.cmdLen) Origin.hub else none with
    | none => .next (s.finishLoad 2 ⟨0x02, 0, 0⟩)
    | some (d, _, m) =>
      let s := s.setMem m
      match s.validate d l.cmdLen with
      | .error r => .next (s.finishLoad 2 r)
      | .ok img => .next (s.startQuiesce img)

/-- Every bench of the draining partitions is at HALT or WAIT with no order in flight (R96). -/
def execLoadDrainDone (s : State) : Result :=
  match s.loader.phase, s.loader.image with
  | .drain, some img =>
    if !s.clerkTime || !(s.loader.toRinse.filter img.drains).all s.drained then .next s else .next (s.endDrain img)
  | _, _ => .next s

/-- DRAIN_MS passes: the loader goes on as for abort (R97). -/
def execLoadDrainTimeout (s : State) : Result :=
  match s.loader.phase, s.loader.image with
  | .drain, some img =>
    let ds := s.loader.toRinse.filter img.drains
    let late (p : PartId) : Bool :=
      img.parts.any fun x => x.part = p.val && s.passed s.loader.phaseAt (ms x.hdr.drainMs)
    if !s.clerkTime || ds.all s.drained || !(ds.all fun p => s.drained p || late p) then .next s
    else .next (State.endDrain { s with loader := { s.loader with drainTimeout := true } } img)
  | _, _ => .next s

/-- After 2 ms the requests still outstanding are discarded (R96). -/
def execLoadMemoryWaitExpiry (s : State) : Result :=
  if !s.clerkTime || s.loader.phase ≠ .memWait || !s.passed s.loader.phaseAt (ms 2) then .next s
  else
    .next (s.loader.toRinse.foldl (fun s p => s.modPart p fun x => { x with pendReqs := [] }) s).memSettled

/-- A rinse completes: of a partition that was unloaded or released, and of one that a load replaces; after
the last of these the load applies (R96, R98, R100). -/
def execRinseComplete (p : PartId) (s : State) : Result :=
  if !s.clerkTime then .next s
  else
    let s := if (s.part p).rinsing then s.rinseGone p else s
    match s.loader.image with
    | some img =>
      if s.loader.phase = LoadPhase.rinse && s.loader.toRinse.contains p then
        let s := s.rinseOld p
        let left := s.loader.toRinse.filter (· ≠ p)
        let s := { s with loader := { s.loader with toRinse := left } }
        .next (if left.isEmpty then s.applyLoad img else s)
      else .next s
    | none => .next s

end Sys2Proof.Machine
end

