-- ==== Sys2Proof/Machine/Memory.lean ====
section
/-! DEFINITION. The stacks and the tile caches (11): interleave and lock, zero fill, atomic windows, line
requests, error correction, scrub, spare channels, and the regulator's choice. -/

namespace Sys2Proof.Machine

open Sys2Proof

/-- The tile on which a stack stands is powered; H0 and H1 need none (01 R38; 16 R450). -/
def State.stackOn (s : State) (k : StackId) : Bool :=
  match homeTile k with | some t => s.tileIsOn t.val | none => true

/-- Stacks and caches serve requests: the module runs outside hold (R324). -/
def State.memTime (s : State) (k : StackId) : Bool := s.power = .running && !s.supply.hold && s.stackOn k

/-- A fresh 64-bit value that the spec leaves open. -/
def State.freeDouble (s : State) : BitVec 64 × State :=
  ((Config.freeWord s.freeCtr).setWidth 64 ++ Config.freeWord (s.freeCtr + 1) |>.setWidth 64, { s with freeCtr := s.freeCtr + 2 })

/-! ST_CTL (R294, R295) -/

/-- A write of ST_CTL: refused when locked; a reserved mode is ticketed and leaves the mode. -/
def execStCtlWrite (k : StackId) (v : BitVec 64) (s : State) : Result :=
  if !s.clerkTime then .next s
  else if !s.stackOn k || (s.stack k).lock then .next s.misuse
  else
    let mode := v.setWidth 2
    let s := s.modStack k fun x => { x with lock := v.getLsbD 2, mode := if mode = 3 then x.mode else mode }
    .next (if mode = 3 then s.reservedCode else s)

/-! Zero fill (R323) -/

/-- The window offset of a channel address, inverse to `channelOf` (R294). -/
def offsetOf (mode ch ca : Nat) : Nat :=
  if mode = 1 then
    let hi := ca / 256
    hi * 4096 + (ch ^^^ bits hi 3 0 ^^^ bits hi 7 4 ^^^ bits hi 11 8) % 16 * 256 + ca % 256
  else if mode = 2 then (ca / 512) * 8192 + ch * 512 + ca % 512
  else (ca / 256) * 4096 + ch * 256 + ca % 256

/-- Whether a cell key of a stack lies in a range of its offsets. -/
def inRange (k : StackId) (mode base len key : Nat) : Bool :=
  let o := offsetOf mode (key / 2 ^ 33 % 16) (key % 2 ^ 33)
  key / 2 ^ 33 / 16 = k.val && base ≤ o && o < base + len

/-- A legal range: BASE a multiple of 2 MiB, LEN one or reaching the end of the populated part. -/
def zeroOk (base len : Nat) : Bool :=
  base % 2 ^ 21 = 0 && base + len ≤ stackBytes && (len % 2 ^ 21 = 0 || base + len = stackBytes)

/-- ZERO_GO: the home cache drops every line of the range, and the fill runs. Ignored and ticketed while one
runs or for an illegal range. -/
def execZeroGo (k : StackId) (s : State) : Result :=
  let x := s.stack k
  if !s.clerkTime then .next s
  else if !s.stackOn k || x.zeroBusy || !zeroOk x.zeroBase x.zeroLen then .next s.misuse
  else
    let at_ := k.val * stackWindow + x.zeroBase
    let s := match homeTile k with
      | some t => s.modCache t fun c => { c with lines := c.lines.filter fun l => l.addr < at_ || at_ + x.zeroLen ≤ l.addr }
      | none => s
    .next (s.modStack k fun x => { x with zeroBusy := true, zeroRun := (x.zeroBase, x.zeroLen), zeroAt := x.zeroBase })

/-- What a home cache still holds of a range that has been filled: no clean line; a line written while the fill ran may be lost
(R323). -/
def TileCache.zeroed (c : TileCache) (base len n : Nat) : TileCache :=
  { c with lines := c.lines.filter fun l =>
      l.addr < base || base + len ≤ l.addr || (l.dirty && Config.lineDone (n + l.addr / 64)) }

/-- The fill has reached an offset: every line before it reads as clean zeros, the lines behind it as they were; at the end of
the range the fill ends. -/
def execZeroFillDone (c : FillStep) (s : State) : Result :=
  let k := c.stack
  let x := s.stack k
  if !s.memTime k || !x.zeroBusy then .next s
  else
    let (base, len) := x.zeroRun
    let to_ := max x.zeroAt (min (base + len) (c.upto / 64 * 64))
    let n := to_ - x.zeroAt
    let gone := inRange k x.mode.toNat x.zeroAt n
    let s := { s with cells := s.cells.filter fun c => !gone c.1, lineStain := s.lineStain.filter fun c => !gone c }
    let ctr := s.freeCtr
    let s := match homeTile k with
      | some t => s.tick.modCache t (·.zeroed (k.val * stackWindow + x.zeroAt) n ctr)
      | none => s
    .next (s.modStack k fun x => { x with
      zeroBusy := to_ ≠ base + len, zeroAt := to_, writeLines := wrapAdd 64 x.writeLines (n / 64) })

/-! Atomics (R308 to R312) -/

/-- The ticket of a stained tile-cache line (R311; 14 R390). -/
def State.stainTicket (s : State) (t : TileId) (p : Option PartId := none) : State := s.raise 0x1 t.val 0x0031 p

/-- STAT of a GO that is refused (R311): an address whose home is off, one homed elsewhere or nowhere, a reserved code, a
misaligned address. -/
def State.amoStat (s : State) (t : TileId) (pa : Nat) (a : AtomicOp) : Nat :=
  match stackOf pa with
  | none => 1
  | some (k, _) =>
    if !s.stackOn k then 5
    else if homeTile k ≠ some t then 1
    else if !atomicOk a then 3
    else if pa % a.width ≠ 0 then 2
    else 0

/-- TC_AMO_GO: the window's atomic at the home of its address. `disagree` counts how often the halves of the
FP32 adder differed. -/
def execTcAmoGo (t : TileId) (c : CoreId) (v : BitVec 64) (disagree : Nat) (s : State) : Result :=
  if !s.clerkTime then .next s
  else if !s.tileIsOn t.val then .next s.misuse
  else
    let w := (s.cache t).amo.getD c.val {}
    let g := v.toNat
    let a : AtomicOp := { atop := bits g 3 0, width := bits g 7 4, signed := bit g 8, opnd := w.opnd, exp := w.exp }
    let put (s : State) (old : BitVec 64) (stat : Nat) : State := s.modCache t fun x => { x with
      amo := x.amo.modify c.val fun w => { w with old := old, stat := BitVec.ofNat 4 stat } }
    match s.amoStat t w.addr a, stackOf w.addr with
    | 0, some (k, o) =>
      let (old, stained, twice, m) := s.mem.atomicAt t k o w.addr a disagree Origin.hub
      let s := s.setMem m
      if stained then
        let (f, s) := s.freeDouble
        .next ((put s f 4).stainTicket t)
      else
        let s := put s (BitVec.ofNat 64 old) 0
        .next (if twice then s.stainTicket t else s)
    | n, _ => .next (put s 0 n)

/-- Whether a clerk core runs. -/
def State.coreRuns (s : State) (c : CoreId) : Bool := s.power = .running && s.house.active.getLsbD c.val

/-- What an access through a clerk core returns. -/
def State.reply (s : State) (data : BitVec 64) : State := { s with bus := { data := data, exc := none } }

def State.except_ (s : State) (e : ClerkExc) : State := { s with bus := { data := 0, exc := some e } }

/-- The atomic of R308 to which a clerk-core instruction maps (R309). -/
def amoMapped (op : ClerkAmo) (width : Nat) (opnd : BitVec 64) : Option AtomicOp :=
  match op with
  | .add => some { atop := 1, width := width, opnd := opnd }
  | .min_ => some { atop := 3, width := width, signed := true, opnd := opnd }
  | .max_ => some { atop := 4, width := width, signed := true, opnd := opnd }
  | .minu => some { atop := 3, width := width, opnd := opnd }
  | .maxu => some { atop := 4, width := width, opnd := opnd }
  | .swap => some { atop := 5, width := width, opnd := opnd }
  | _ => none

/-- The value that an instruction stores in the cores' own caches (01 R35). -/
def amoValue (op : ClerkAmo) (width : Nat) (opnd : BitVec 64) (old : Nat) : Nat :=
  let x := opnd.toNat % 2 ^ (8 * width)
  match op with
  | .and_ => old &&& x
  | .or_ => old ||| x
  | .xor_ => old ^^^ x
  | op => match amoMapped op width opnd with | some a => atomicValue a old | none => x

/-- A value as a core register holds it: sign-extended from its width (15 R420: RV64). -/
def rvExtend (width v : Nat) : BitVec 64 := BitVec.ofInt 64 (sext (8 * width) v)

/-- Whether an instruction only loads. -/
def amoLoads : ClerkAmo → Bool
  | .lr => true
  | _ => false

/-- A clerk-core atomic on H0 or H1, performed in the cores' own caches (01 R35). A reservation holds while the
stack has taken no write. -/
def State.hubAmo (s : State) (c : CoreId) (k : StackId) (pa : Nat) (op : ClerkAmo) (width : Nat) (opnd : BitVec 64) : State :=
  match s.mem.readIn pa width Origin.hub with
  | none => s
  | some (d, _, m) =>
    let s := s.setMem m
    let old := leNat d
    let drop (s : State) : State := { s with house := { s.house with reserve := s.house.reserve.filter fun r => r.1 ≠ c.val } }
    let put (s : State) (v : Nat) : State :=
      match s.mem.writeIn pa (leBytes width v) false Origin.hub with
      | some m => s.setMem m
      | none => s
    match op with
    | .lr =>
      let s := drop s
      let s := { s with house := { s.house with reserve := (c.val, pa, (s.stack k).writeLines) :: s.house.reserve } }
      s.reply (rvExtend width old)
    | .sc =>
      let holds := s.house.reserve.any fun r => r.1 = c.val && r.2.1 = pa && r.2.2 = (s.stack k).writeLines
      let s := drop s
      if holds then (put s (opnd.toNat % 2 ^ (8 * width))).reply 0 else s.reply 1
    | op => (put s (amoValue op width opnd old)).reply (rvExtend width old)

/-- A clerk-core atomic instruction on memory (R309; 01 R34, R35): misaligned and unreachable ones take their exceptions,
those that tile caches do not perform an access fault. It is performed at its home, not in the cores' caches. -/
def State.memAmo (s : State) (c : CoreId) (pa : Nat) (op : ClerkAmo) (width : Nat) (opnd : BitVec 64) : State :=
  let fault : ClerkExc := if amoLoads op then .loadAccess else .storeAccess
  if pa % max 1 width ≠ 0 then s.except_ (if amoLoads op then .loadMisaligned else .storeMisaligned)
  else
    match s.mem.reach pa with
    | .ok k o =>
      match homeTile k with
      | none => s.hubAmo c k pa op width opnd
      | some t =>
        match amoMapped op width opnd with
        | none => s.except_ fault
        | some a =>
          let (old, stained, _, m) := s.mem.atomicAt t k o pa a 0 Origin.hub
          let s := (s.setMem m).reply (rvExtend width old)
          if stained then s.stainTicket t else s
    | _ => s.except_ fault

/-! Line requests (R296, R312) -/

/-- An atomic consumed a stained line: its partition faults, or a clerk core's is ticketed (03 R83; 11 R311). -/
def State.stainConsumed (s : State) (r : Requester) (t : TileId) : State :=
  match r with
  | .bench b => s.benchFault b 0x24 0 false 0
  | .crossing p => s.stopPart p 0x24 none (some (0x0020, (s.part p).cls))
  | .clerk _ | .hub => s.stainTicket t

/-- An error strikes a line that its home tile cache holds (R317). -/
def State.cacheStruck (s : State) (k : StackId) (pa : Nat) (e : CacheError) : State :=
  match homeTile k with
  | none => s
  | some t =>
    match s.mem.cacheError t pa e with
    | (some p, m) => (s.setMem m).stainTicket t p
    | (none, m) => s.setMem m

/-- A line request at a stack whose home serves: a read, a write of a whole line or of part of it, or an atomic. A bench
atomic without a home is a failed counter add, and no line request (R310). -/
def State.serveLine (s : State) (k : StackId) (o : Nat) (q : LineRequest) (e : LineEvents) : State :=
  let s := s.cacheStruck k q.pa e.err
  let v := s.originOf q.sender
  match q.op with
  | .read =>
    match s.mem.readLine q.pa v with
    | some (d, _, m) => (s.setMem m).reply (BitVec.ofNat 64 (leAt d (q.pa % 64 / 8 * 8) 8))
    | none => s
  | .write data mask stain =>
    match s.mem.writeLine q.pa (sliceAt data 0 64) ((mask ++ List.replicate 64 false).take 64) stain v with
    | some m => s.setMem m
    | none => s
  | .atomic a =>
    match homeTile k, q.sender with
    | none, .bench b => match (s.bench b).partOf with | some p => s.countLost b p | none => s
    | none, _ => s
    | some t, r =>
      if !atomicOk a || q.pa % a.width ≠ 0 then s
      else
        let (old, stained, twice, m) := s.mem.atomicAt t k o q.pa a e.disagree v
        let s := (s.setMem m).reply (BitVec.ofNat 64 old)
        if stained then s.stainConsumed r t else if twice then s.stainTicket t v.part else s

/-- A line request arrives at its home and is performed (R312), with the error that its home finds in the line. -/
def execLineRequestArrive (r : Requester) (pa : Nat) (op : LineOp) (e : LineEvents) (s : State) : Result :=
  match s.mem.reach pa with
  | .ok k o => if !s.memTime k then .next s else .next (s.serveLine k o ⟨r, pa, op⟩ e)
  | _ => .next s

/-- The requests of a list that wait at a stack. -/
def MemSys.waitingAt (m : MemSys) (k : StackId) (ws : List LineRequest) : List (Nat × LineRequest) :=
  ws.filterMap fun q => match m.reach q.pa with
    | .ok j o => if j = k then some (o, q) else none
    | _ => none

/-- A stack chooses the next unit among the requests that wait at it (R301) and performs it: of a partition the first to
arrive. -/
def State.serveStack (s : State) (k : StackId) (ws : List LineRequest) (e : LineEvents) : State :=
  let here := s.mem.waitingAt k ws
  let parts : List (Option PartId × Nat × LineRequest) := here.map fun q => ((s.originOf q.2.sender).part, q)
  let rec_ (p : PartId) : Option RegRec := (s.mem.regs.getD p.val []).find? fun r => r.target = k.val
  let (bucket, who) := (s.stack k).bucket.serve rec_ (fun p => parts.any fun q => q.1 = some p) (parts.any fun q => q.1 = none)
  match who.bind fun p => parts.find? fun q => q.1 = p with
  | none => s
  | some q => (s.serveLine k q.2.1 q.2.2 e).modStack k fun x => { x with bucket := bucket }

/-! Error correction and scrub (R313 to R318) -/

/-- The codeword of a line: 64 data bytes and 8 check bytes, which a stained line stores XORed with the stain pattern (R313,
R314). -/
def stainPattern : List Byte := List.replicate 64 0 ++ List.replicate 8 0xC3

def xorBytes (a b : List Byte) : List Byte := List.zipWith (· ^^^ ·) a b

def codeword (data : List Byte) (stain : Bool) : List Byte :=
  let w := sliceAt data 0 64 ++ sliceAt (Config.checkBytes (sliceAt data 0 64)) 0 8
  if stain then xorBytes w stainPattern else w

/-- Errors as a word of 72 symbols. -/
def errorWord (es : SymbolErrors) : List Byte := es.foldl (fun w e => w.modify e.1 (· ^^^ e.2)) (List.replicate 72 0)

/-- Symbols that differ from zero. -/
def symbolWeight (w : List Byte) : Nat := w.countP (· ≠ 0)

/-- A line as its decoder delivers it, in one of the outcomes of R315. -/
inductive Decoded where
  | clean (data : List Byte)
  | corrected (data : List Byte)
  | stained (data : List Byte)
  | uncorrectable (data : List Byte)
  deriving DecidableEq, Repr

/-- The decoder on what a stack returns for a line (R314). A word and its difference from a codeword have one syndrome, so
that the readings go by the difference from the line's own clean codeword: its distance from the code and from the stained
image of the code. Two symbols are corrected; the code is at least nine symbols wide, so that a difference of up to six is
neither; beyond that the reading is the code's own. -/
def decodeWith (data : List Byte) (stain : Bool) (es : SymbolErrors) : Decoded :=
  let clean := codeword data false
  let got := xorBytes (codeword data stain) (errorWord es)
  let v := xorBytes got clean
  let u := xorBytes v stainPattern
  let fixed (e : List Byte) : List Byte := (xorBytes got e).take 64
  let reads (e : List Byte) : Decoded := if symbolWeight e = 0 then .clean (fixed e) else .corrected (fixed e)
  if symbolWeight v ≤ 2 then reads v
  else if symbolWeight u ≤ 2 then .stained (fixed u)
  else if symbolWeight v ≤ 6 || symbolWeight u ≤ 6 then .uncorrectable (got.take 64)
  else match Config.rsReading v with
    | some (false, e) => reads (sliceAt e 0 72)
    | some (true, e) => .stained (fixed (sliceAt e 0 72))
    | none => .uncorrectable (got.take 64)

/-- The window counts of a stack at a time: they restart at each 10 s window (R320). -/
def Stack.windowed (x : Stack) (now : Nat) : Stack :=
  if x.ceWinAt + sec 10 ≤ now then
    { x with ceWin := List.replicate 17 0, ceWinAt := x.ceWinAt + (now - x.ceWinAt) / sec 10 * sec 10 }
  else x

/-- A corrected error of a channel is counted, in its register and in its window (R320). -/
def Stack.countCe (x : Stack) (now ch : Nat) : Stack :=
  let x := x.windowed now
  { x with ce := x.ce.modify ch fun n => satAdd 32 n 1, ceWin := x.ceWin.modify ch (· + 1) }

/-- The physical channel that serves a channel index at an address (R321). -/
def Stack.channel (x : Stack) (ch ca : Nat) : Nat :=
  if ch = x.replaced && (x.spareState = 2 || (x.spareState = 1 && ca / 64 < x.pointer)) then 16 else ch

/-- A line is decoded where it stands in its stack (R315, R318): what is delivered, with its mark; a corrected line is
rewritten and counted, an uncorrectable one rewritten stained, counted and ticketed. `scrub` is DETAIL key 1. -/
def State.decodeLine (s : State) (k : StackId) (o : Nat) (errs : SymbolErrors) (scrub : Bool) : List Byte × Bool × State :=
  let x := s.stack k
  let (ch, ca) := channelOf x.mode.toNat o
  let key := cellKey k x.mode.toNat o
  match decodeWith (memRead 0 s.cells key 64) (s.lineStain.contains key) errs with
  | .clean d => (d, false, { s with cells := memWrite 0 s.cells key d, lineStain := setErase s.lineStain key })
  | .corrected d =>
    let s := { s with cells := memWrite 0 s.cells key d, lineStain := setErase s.lineStain key }
    let now := s.now
    (d, false, s.modStack k fun x => x.countCe now (x.channel ch ca))
  | .stained d => (d, true, s)
  | .uncorrectable d =>
    let s := { s with cells := memWrite 0 s.cells key d, lineStain := setInsert s.lineStain key }
    let s := s.modStack k fun x => { x with ue := satAdd 32 x.ue 1, ueAddr := x.ueAddr.or (some o) }
    (d, true, s.raise 0x4 k.val 0x0030 none [(0, .num o), (1, .num (b2n scrub))])

/-- Whether a decoder reads a line as stained: ST_STAIN_READS counts those, not the uncorrectable ones (R315). -/
def Decoded.isStained : Decoded → Bool
  | .stained _ => true
  | _ => false

/-- A line read returns from a stack (R315): decoded, and held by its home tile cache as delivered, where that does not hold
the line already. -/
def execMemoryResponse (k : StackId) (line : Nat) (errs : SymbolErrors) (s : State) : Result :=
  let o := 64 * line
  if !s.memTime k || stackBytes ≤ o then .next s
  else
    let key := cellKey k (s.stack k).mode.toNat o
    let marked := (decodeWith (memRead 0 s.cells key 64) (s.lineStain.contains key) errs).isStained
    let (d, st, s) := s.decodeLine k o errs false
    let s := s.modStack k fun x => { x with
      readLines := wrapAdd 64 x.readLines 1, stainReads := wrapAdd 64 x.stainReads (b2n marked) }
    let pa := k.val * stackWindow + o
    .next (match homeTile k with
      | none => s
      | some t => if ((s.cache t).find pa).isSome then s else s.setMem (s.mem.allocate t { addr := pa, data := d, stain := st }))

/-- Lines that the scrubber walks: 16 channels of 78,125,000 lines. -/
def scrubLines : Nat := 16 * 78125000

/-- The scrubber reads the next line in channel-address order (R318). -/
def execScrubRead (k : StackId) (errs : SymbolErrors) (s : State) : Result :=
  if !s.memTime k then .next s
  else
    let x := s.stack k
    let o := offsetOf x.mode.toNat (x.scrubPos % 16) (x.scrubPos / 16 * 64)
    let (_, _, s) := s.decodeLine k o errs true
    .next (s.modStack k fun x => { x with scrubPos := (x.scrubPos + 1) % scrubLines })

/-! Spare channels (R320 to R322) -/

/-- Swaps CH16 in for a channel, or, where CH16 is taken or has itself failed, reports the stack degraded once for
it. -/
def State.swapChannel (s : State) (k : StackId) (ch : Nat) : State :=
  let x := s.stack k
  if x.spareState = 0 && ch ≠ 16 && !x.degradedCh.contains 16 then
    (s.modStack k fun x => { x with spareState := 1, replaced := ch, pointer := 0 }).raise 0x5 (32 * k.val + ch) 0x0034
  else if (x.spareState ≠ 0 && ch = x.replaced) || x.degradedCh.contains ch then s
  else
    (s.modStack k fun x => { x with degraded := true, degradedCh := setInsert x.degradedCh ch }).raise 0x5 (32 * k.val + ch) 0x0033

/-- A channel's window count has reached ST_CE_THRESH. -/
def execChannelCeThreshold (k : StackId) (ch : Nat) (s : State) : Result :=
  let x := (s.stack k).windowed s.now
  if !s.memTime k || 17 ≤ ch || x.ceWin.getD ch 0 < x.ceThresh then .next s else .next (s.swapChannel k ch)

/-- A channel has returned no response for 1 ms. -/
def execChannelNoResponse (k : StackId) (ch : Nat) (s : State) : Result :=
  if !s.memTime k || 17 ≤ ch then .next s else .next (s.swapChannel k ch)

/-- Lines of one channel. -/
def channelLines : Nat := 78125000

/-- The copy into CH16 has reached a line of the channel, and ends at the last (R321). The lines that the replaced channel
returned uncorrectable, or did not return, are written stained, with bytes that the spec leaves open. -/
def execSpareCopyDone (c : CopyStep) (s : State) : Result :=
  let k := c.stack
  let x := s.stack k
  if !s.memTime k || x.spareState ≠ 1 then .next s
  else
    let to_ := max x.pointer (min channelLines c.upto)
    let bad := c.lost.filter fun l => x.pointer ≤ l && l < to_
    let s := bad.foldl (fun (s : State) l =>
      let key := (k.val * 16 + x.replaced) * 2 ^ 33 + 64 * l
      State.tick { s with
        cells := memWrite 0 s.cells key ((List.range 64).map (Config.badLineByte s.freeCtr)), lineStain := setInsert s.lineStain key }) s
    .next (s.modStack k fun x => { x with spareState := if to_ = channelLines then 2 else 1, pointer := to_ })

/-- The 10 s window ends (R320). -/
def execCeWindowRestart (k : StackId) (s : State) : Result :=
  if s.power ≠ .running then .next s
  else
    let now := s.now
    .next (s.modStack k fun x => x.windowed now)

/-! The regulator's choice (R301) -/

/-- The regulator record of a loaded partition for a target (03 R87). -/
def State.record (s : State) (target : Nat) (p : PartId) : Option RegRec :=
  if (s.part p).loaded then (s.part p).regs.find? fun r => r.target = target else none

end Sys2Proof.Machine
end

