-- ==== Sys2Proof/Machine/Frames.lean ====
section
/-! DEFINITION. Frames on their way out (12 R338 to R350): how a frame is made, the route of R345 with its
classes (R346), detours (R347) and express ports (R348), and the credit queues in front of the ports. -/

namespace Sys2Proof.Machine

open Sys2Proof

/-! Fields of a frame (R338, R340) -/

/-- FIDX: six bits at 0x06 and six at 0x09 (R340). -/
def frFidx (f : Frame) : Nat := f.dHi % 64 + 64 * (f.sHi % 64)

def frWithFidx (f : Frame) (k : Nat) : Frame := { f with dHi := k % 64, sHi := k / 64 % 64 }

/-- STAIN bits as a list, one for each 64-byte segment. -/
def frStains (f : Frame) : List Bool := (List.range 4).map fun i => bit f.stain i

def stainBits (st : List Bool) : Nat := (st.zipIdx.map fun x => b2n x.1 * 2 ^ x.2).foldl (· + ·) 0

/-- SRC of a storage gateway (R340). -/
def gatewayCoord : Nat := 0x3FFFF

/-- The units of a regulator that a frame counts (11 R300). -/
def frUnits (f : Frame) : Nat := max 1 (ceilDiv (16 * f.plen) 64)

/-- Frames that no partition counts (R350). -/
def frUnpart (f : Frame) : Bool := f.vc = 3

/-- Cuts a message into frames of 256 payload bytes behind one header, with FIDX from `k`; the last is shortened
to a 16-byte multiple and sets LAST when `fin` (R341, R352, R376). -/
def cutFrames (h : Frame) (fin : Bool) : Nat → Nat → List Byte → List Bool → List Frame
  | 0, _, _, _ => []
  | n + 1, k, bs, st =>
    let piece := bs.take 256
    let units := ceilDiv piece.length 16
    let end_ := bs.length ≤ 256
    let f := { frWithFidx h k with
      plen := units, stain := stainBits (st.take (ceilDiv piece.length 64)), last := fin && end_, payload := sliceAt piece 0 (16 * units) }
    f :: (if end_ then [] else cutFrames h fin n (k + 1) (bs.drop 256) (st.drop 4))

def framesOf (h : Frame) (fin : Bool) (k : Nat) (bs : List Byte) (st : List Bool) : List Frame :=
  cutFrames h fin (bs.length / 256 + 1) k bs st

/-! The route (R345) -/

/-- Whether a port sends: it serves, or it is ready and the traffic has returned to it; `own` is the partition
whose own traffic asks, none for transit and management (R335). -/
def Port.sends (x : Port) (own : Option PartId) : Bool :=
  x.state = 5 || (x.state = 4 && (match own with | some p => x.returned.getD p.val false | none => x.transitBack))

/-- Where a frame goes: here, to the queue of a port, or nowhere. -/
inductive Hop where
  | here
  | port (n : Nat) (f : Frame)
  | lost
  deriving DecidableEq, Repr

/-- Whether the step in direction `d` from coordinate `c` crosses the dateline of a ring of `n` (R346). -/
def crossesDateline (d c n : Nat) : Bool := if d % 2 = 0 then c + 1 = n else c = 0

/-- The route in the dimensions from `i` on. `arr` is the dimension in which the frame arrived: there it keeps REV
and CLASS, and it enters any other dimension with neither. -/
def State.routeFrom (s : State) (g : ModSection) (own : Option PartId) (arr : Option Nat) (f : Frame) : Nat → Nat → Hop
  | 0, _ => .here
  | k + 1, i =>
    let n := max 1 (g.dim.getD i 1)
    let cur := g.coord.getD i 0
    let dst := (coordList f.dst).getD i 0
    let delta := (dst + n - cur % n) % n
    if delta = 0 then s.routeFrom g own arr f k (i + 1)
    else
      let rev : Bool := f.rev && arr = some i
      let plus : Bool := delta < n - delta || 2 * delta = n
      let fwd := if plus != rev then 2 * i else 2 * i + 1
      let back := if fwd % 2 = 0 then fwd + 1 else fwd - 1
      let kept := f.cls && arr = some i
      let via (d : Nat) : Bool := kept || rev || crossesDateline d cur n
      let p := g.portDir.getD fwd 0x0F
      let det := g.detour.getD fwd 0x0F
      let q := g.portDir.getD back 0x0F
      let sends (n : Nat) : Bool := (s.ports.getD n {}).sends own
      let fwdFrame : Frame := { f with rev := rev, cls := via fwd }
      if 8 ≤ p then .lost
      else if sends p then .port p fwdFrame
      else if det < 8 && (s.ports.getD det {}).state = 5 then .port det fwdFrame
      else if det = 0x0E && !rev && q < 8 && sends q then .port q { f with rev := true, cls := true }
      else .port p fwdFrame

def State.route (s : State) (g : ModSection) (own : Option PartId) (arr : Option Nat) (f : Frame) : Hop :=
  s.routeFrom g own arr f 3 0

/-- The express port that takes a frame of this module (R348): every VC but collective, to its PEER. -/
def State.expressFor (s : State) (g : ModSection) (own : Option PartId) (f : Frame) : Option Nat :=
  if f.vc = 2 then none
  else (List.range 8).find? fun n =>
    roleOf g n = 2 && coordWord (g.ports.getD n (4, [])).2 = f.dst && (s.ports.getD n {}).sends own

/-! Queues in front of the ports -/

/-- Counts frames discarded at a port-down or a credit expiry (R368). -/
def State.countLostFrames (s : State) (n : Nat) : State := { s with cx := { s.cx with lost := satAdd 32 s.cx.lost n } }

/-- Sends a frame of this module, of a partition or of the counting house, by the routes in force for it. -/
def State.launch (s : State) (own : Option PartId) (f : Frame) : State :=
  let g := match own with | some p => s.routesOf p | none => s.geo
  match s.expressFor g own f with
  | some n => s.enqueue n f
  | none =>
    match s.route g own none f with
    | .here => { s with cx := { s.cx with home := s.cx.home ++ [f] } }
    | .port n f => s.enqueue n f
    | .lost => s.countLostFrames 1

def State.launchAll (s : State) (own : Option PartId) (fs : List Frame) : State := fs.foldl (fun s f => s.launch own f) s

/-- The header of a frame from a bench of a partition (R338; 07 R229). -/
def State.header (s : State) (p : PartId) (typ vc dst : Nat) : Frame :=
  { typ := typ, vc := vc, part := p.val, epoch := (s.part p).epoch, dst := dst, src := s.coord }

end Sys2Proof.Machine
end

