-- ==== Sys2Proof/Machine/Stream.lean ====
section
/-! DEFINITION. The link stream that a port sends (12 R328 to R330, R333, R337, R338): the bytes of its units, their CRCs, the
257-bit blocks dealt to the logical lanes, and the RS(544,514) codewords of each lane. -/

namespace Sys2Proof.Machine

open Sys2Proof

/-! Units as bytes -/

/-- The bytes of a frame header (R338, R340). -/
def headerBytes (f : Frame) : List Byte :=
  leBytes 1 f.typ ++ leBytes 1 (f.vc + 4 * b2n f.cls + 8 * b2n f.rev + 16 * f.part + 128 * b2n f.last) ++
  leBytes 1 (f.plen + 32 * b2n f.shr) ++ leBytes 1 f.stain ++ leBytes 2 f.epoch.toNat ++
  leBytes 3 (f.dst + 2 ^ 18 * f.dHi) ++ leBytes 3 (f.src + 2 ^ 18 * f.sHi) ++ leBytes 1 f.c ++ leBytes 1 f.d ++ leBytes 2 f.ef

/-- A frame with its trailer: LSEQ, two zero bytes, and a CRC-32C over all that stands before it (R329). -/
def frameUnit (lseq : Nat) (f : Frame) : List Byte :=
  let bs := headerBytes f ++ f.payload ++ leBytes 2 lseq ++ leBytes 2 0
  bs ++ leBytes 4 (crc32c bs)

/-- A block of 16 bytes: 14 of content, zeros where it gives fewer, and the low 16 bits of their CRC-32C (R329). -/
def blockUnit (content : List Byte) : List Byte :=
  let bs := sliceAt content 0 14
  bs ++ leBytes 2 (crc32c bs % 65536)

/-- A credit of a control block: VC, CLASS and SHR, a zero byte, and the cells (R330). -/
def creditBytes (c : Nat × Bool × Bool × Nat) : List Byte :=
  leBytes 1 (c.1 + 4 * b2n c.2.1 + 8 * b2n c.2.2.1) ++ leBytes 1 0 ++ leBytes 2 c.2.2.2

/-- The unit of a block (R330, R333, R337). -/
def LinkBlock.unit (k : LinkBlock) : List Byte :=
  match k with
  | .control c =>
    blockUnit (leBytes 1 0xC0 ++ leBytes 1 (b2n c.ackValid + 2 * b2n c.replay + 4 * b2n c.probeDone) ++ leBytes 2 c.ack ++
      leBytes 2 c.replayFrom ++ creditBytes c.creditA ++ creditBytes c.creditB)
  | .identity c =>
    blockUnit (leBytes 1 0xC1 ++ leBytes 1 (c.port + 16 * c.role) ++ leBytes 2 c.hwType ++ leBytes 3 c.coord ++
      leBytes 3 (c.dimX + 2 ^ 7 * c.dimY + 2 ^ 14 * c.dimZ) ++ leBytes 1 c.dir)
  | .takeoverRequest failed lseq => blockUnit (leBytes 1 0xC2 ++ leBytes 1 failed ++ leBytes 2 lseq)
  | .takeoverAnswer lseq => blockUnit (leBytes 1 0xC3 ++ leBytes 2 lseq)

/-- An idle unit: kind 0x00, 16 bytes (R329). -/
def idleUnit : List Byte := List.replicate 16 0

/-- Whether a unit begins with the kind of a frame: every TYPE lies below 0xC0 (R329, R339). -/
def unitIsFrame (bs : List Byte) : Bool := byteAt bs 0 ≠ 0 && byteAt bs 0 < 0xC0

/-- Whether a unit passes its CRC and has the length that its kind gives it (R329); an idle unit carries none. -/
def unitIntact (bs : List Byte) : Bool :=
  if unitIsFrame bs then
    bs.length = 24 + 16 * (byteAt bs 2 % 32) && leAt bs (bs.length - 4) 4 = crc32c (bs.take (bs.length - 4))
  else bs.length = 16 && byteAt bs 0 < 0xC4 && (byteAt bs 0 = 0 || leAt bs 14 2 = crc32c (bs.take 14) % 65536)

/-! RS(544,514) over GF(2^10), as IEEE 802.3 defines the code: the field polynomial x^10 + x^3 + 1, and the generator with the
roots 1, α, ..., α^29 -/

/-- A product in GF(2^10), over the low `n` bits of the first factor. -/
def gfMul : Nat → Nat → Nat → Nat
  | 0, _, _ => 0
  | n + 1, a, b =>
    let r := 2 * gfMul n (a / 2) b
    let r := if 1024 ≤ r then r ^^^ 0x409 else r
    if a % 2 = 1 then r ^^^ b else r

/-- α to the `n`. -/
def gfPow : Nat → Nat
  | 0 => 1
  | n + 1 => gfMul 10 2 (gfPow n)

/-- A polynomial, highest coefficient first, times x - r. -/
def polyTimes (r : Nat) (p : List Nat) : List Nat :=
  ((p ++ [0]).zip (0 :: p)).map fun (c : Nat × Nat) => c.1 ^^^ gfMul 10 c.2 r

/-- The generator, highest coefficient first: 31 coefficients, the first 1. -/
def rsGenerator : List Nat := (List.range 30).foldl (fun p j => polyTimes (gfPow j) p) [1]

/-- One step of the division: the remainder, highest coefficient first, after one more message symbol. -/
def rsStep (g rem : List Nat) (m : Nat) : List Nat :=
  let k := m ^^^ rem.headD 0
  ((rem.drop 1 ++ [0]).zip g).map fun (c : Nat × Nat) => c.1 ^^^ gfMul 10 k c.2

/-- The 30 parity symbols of 514 message symbols, in the order sent. -/
def rsParity (ms : List Nat) : List Nat :=
  let g := rsGenerator.drop 1
  ms.foldl (rsStep g) (List.replicate 30 0)

/-! Blocks and lanes -/

/-- A 257-bit block of 32 bytes of the stream: the header bit of a block that holds data alone, then its bits, the low bit of
each byte first. -/
def transcode (bs : List Byte) : BitVec 257 := BitVec.ofNat 257 (1 + 2 * leNat bs)

/-- The codeword of 20 blocks of one lane: 5,140 bits as 514 symbols in the order sent, and the parity. -/
def codewordOf (blocks : List (BitVec 257)) : List (BitVec 10) :=
  let v := (blocks.zipIdx.map fun b => b.1.toNat * 2 ^ (257 * b.2)).foldl (· + ·) 0
  let ms := (List.range 514).map fun i => v / 2 ^ (10 * i) % 1024
  (ms ++ rsParity ms).map (BitVec.ofNat 10)

/-- A block goes to the next logical lane; the twentieth completes the lane's codeword (R328). -/
def LinkStream.deal (x : LinkStream) (b : BitVec 257) : LinkStream :=
  let here := x.blocks.getD x.lane [] ++ [b]
  let next := (x.lane + 1) % 8
  if here.length = 20 then
    { x with blocks := x.blocks.set x.lane [], lane := next, codewords := x.codewords ++ [(x.lane, codewordOf here)] }
  else { x with blocks := x.blocks.set x.lane here, lane := next }

/-- Bytes join the stream: each 32 of them make a block. -/
def LinkStream.push (x : LinkStream) (bs : List Byte) : LinkStream :=
  let all := x.pending ++ bs
  let n := all.length / 32
  (List.range n).foldl (fun x i => x.deal (transcode ((all.drop (32 * i)).take 32))) { x with pending := all.drop (32 * n) }

/-! What a port sends -/

/-- A frame leaves on a port under an LSEQ. -/
def State.emitFrame (s : State) (n : PortId) (lseq : Nat) (f : Frame) : State :=
  let s := { s with framesOut := s.framesOut ++ [(n, lseq, f)] }
  s.modPort n fun x => { x with stream := x.stream.push (frameUnit lseq f) }

/-- A block leaves on a port. -/
def State.emitBlock (s : State) (n : PortId) (k : LinkBlock) : State :=
  let s := { s with linkOut := s.linkOut ++ [(n, k)] }
  s.modPort n fun x => { x with stream := x.stream.push k.unit }

/-- An idle unit leaves on a port (R330). -/
def State.emitIdle (s : State) (n : PortId) : State := s.modPort n fun x => { x with stream := x.stream.push idleUnit }

end Sys2Proof.Machine
end

