-- ==== Sys2Proof/Machine/Cross.lean ====
section
/-! DEFINITION. What SEND and RECV (07 R230; 12 R351) and EXCHANGE in both modes (09 R256 to R271) do with rows,
tables and frames. -/

namespace Sys2Proof.Machine

open Sys2Proof

/-! Orders of the crossing interface -/

/-- Whether two crossing orders must start in issue order: SENDs or RECVs of one peer and tag (07 R230),
EXCHANGEs or FOLDs of one tag (09 R272), REDUCEs of one tree (12 R358). -/
def Order.sameFlow : Order → Order → Bool
  | .send a, .send b => a.peer = b.peer && a.tag = b.tag
  | .recv a, .recv b => a.peer = b.peer && a.tag = b.tag
  | .exchange a, .exchange b => a.tag = b.tag
  | .fold a, .fold b => a.tag = b.tag
  | .reduce a, .reduce b => a.tree = b.tree
  | _, _ => false

/-- A crossing order completes its work, with its flags and out-of-bounds counts: its slot holds them until it
completes; an order that no slot holds, of opcode `op`, completes at once. -/
def State.crossDone (s : State) (b : BenchId) (seq : Nat) (flags : Flags := {}) (oob : List (Nat × Nat) := []) (op : Nat := 0) : State :=
  if (s.bench b).inflight.any fun i => i.dec.seq = seq then
    s.modBench b fun x => { x with inflight := x.inflight.map fun i =>
      if i.dec.seq = seq then { i with ran := true, flags := flags, oob := oob } else i }
  else
    match (s.bench b).partOf with
    | none => s
    | some p =>
      let (s, bad) := (s.modBench b fun x => { x with bqFlags := fOr x.bqFlags flags }).oobAdds b p oob
      if bad then s.benchFault b 0x24 op false 0 else s

/-- An order of the crossing interface starts: in the slot of the first issued one of its form, or by itself on
a bench that is not held. -/
def State.runCross (s : State) (b : BenchId) (o : Order) (act : State → PartId → DecOrder → State) : State :=
  match (s.bench b).partOf with
  | none => s
  | some p =>
    let x := s.bench b
    if !s.benchLive b then s
    else
      match x.slotOf o with
      | some k =>
        if (x.inflight.take k).any fun i => !i.ran && !i.started && Order.sameFlow i.dec.body o then s
        else
          let d := (x.inflight.getD k {}).dec
          act (s.modBench b fun x => { x with inflight := x.inflight.modify k fun i => { i with started := true } }) p d
      | none =>
        if x.hold ≠ .none then s
        else
          match Order.check (s.checkCtx b p) o with
          | some f => s.benchFault b f (Order.opcode o) false 0
          | none =>
            act (s.modBench b fun x => { x with nextSeq := x.nextSeq + 1 }) p { body := o, seq := x.nextSeq }

/-- A fault of a crossing order, with the first cause that EX_FAULT keeps (09 R273). -/
def State.exFail (s : State) (b : BenchId) (d : DecOrder) (code cause index : Nat) : State :=
  let s := s.modBench b fun x => { x with exFault := x.exFault.or (some (cause, index % 2 ^ 32)) }
  s.orderFault b { code := code } d

/-- The order that a sequence number names, for its fault record. -/
def Bench.orderOf (x : Bench) (seq : Nat) (body : Order) : DecOrder :=
  match x.inflight.find? fun i => i.dec.seq = seq with
  | some i => i.dec
  | none => { body := body, seq := seq }

/-- The peer word of a bench (07 R229). -/
def peerWord (coord logical : Nat) : Nat := coord + 2 ^ 18 * logical

/-! SEND -/

/-- Marks of the segments of rows. -/
def Bench.rowsStain (x : Bench) (row n : Nat) : List Bool := (List.range n).flatMap fun i => x.rowStain (row + i)

/-- SEND: two MSG frames a row to the peer (12 R351). -/
def State.sendRows (s : State) (b : BenchId) (p : PartId) (o : MsgOp) (d : DecOrder) : State :=
  let x := s.bench b
  let w := o.peer.toNat
  if o.row + o.rows > shelfRows then s.orderFault b { code := 0x06 } d
  else
    let h : Frame := { s.header p 0x01 0 (w % 2 ^ 18) with c := bits w 24 18, d := x.logical, ef := o.tag }
    let fs := if o.rows = 0 then [] else framesOf h true 0 (x.readRows o.row o.rows) (x.rowsStain o.row o.rows)
    (s.launchAll (some p) fs).crossDone b d.seq

/-! Messages (12 R341) -/

/-- The kind of message that a frame belongs to: of a SEND, of an EXCHANGE or of a FOLD. -/
def frKind (f : Frame) : Nat := match f.typ with | 1 => 1 | 4 => 4 | _ => 2

/-- The stream of messages that a frame belongs to: kind, source, source bench and TAG. -/
def frFlow (f : Frame) : Nat × Nat × Nat × Nat := (frKind f, f.src, f.d, f.ef)

/-- The frames of a list up to the first that ends its message, those of flow `k` left out: what is left, and what went. -/
def dropMessage (k : Nat × Nat × Nat × Nat) : List (Option PortId × Frame) → List (Option PortId × Frame) × List (Option PortId × Frame)
  | [] => ([], [])
  | e :: es =>
    if frFlow e.2 ≠ k then let (keep, gone) := dropMessage k es; (e :: keep, gone)
    else if e.2.last then (es, [e])
    else let (keep, gone) := dropMessage k es; (keep, e :: gone)

/-- A frame breaks the sequence of its message (R341): the rest of the message is discarded, what waits of it and what is still
to come, and its cells go back. -/
def State.breakFlow (s : State) (b : BenchId) (f : Frame) : State :=
  if f.last then s
  else
    let (keep, gone) := dropMessage (frFlow f) (s.bench b).rxStore
    let s := s.modBench b fun x => { x with
      rxStore := keep, broken := if gone.any (·.2.last) then x.broken else x.broken ++ [frFlow f] }
    gone.foldl (fun s e => s.payCredit e.1 e.2) s

/-- Order fault 0x21 of the order that awaits a frame out of sequence. -/
def State.sequenceFault (s : State) (b : BenchId) (d : DecOrder) (f : Frame) : State :=
  (s.breakFlow b f).orderFault b { code := 0x21 } d

/-! RECV -/

/-- A stained row arrives in a shelf: a fault under STAIN_POLICY 1 (03 R83). -/
def State.stainArrives (s : State) (b : BenchId) (p : PartId) (d : DecOrder) (stained : Bool) : State :=
  if stained && (s.part p).hdr.stainPolicy = 1 then s.orderFault b { code := 0x24 } d else s

/-- A frame of the awaited message: the next in sequence goes to its half row; any other is fault 0x21
(12 R341, R351). -/
def State.recvFrame (s : State) (b : BenchId) (p : PartId) (c : RecvCtx) (f : Frame) : State :=
  let o : MsgOp := { row := c.row, rows := c.total / 2, peer := c.source, tag := c.tag }
  let d := (s.bench b).orderOf c.seq (.recv o)
  if frFidx f ≠ c.got % 4096 || f.last ≠ (c.got + 1 = c.total : Bool) then s.sequenceFault b d f
  else
    let a := 512 * c.row + 256 * c.got
    let s := s.modBench b fun x =>
      let x := x.shelfWrite a (sliceAt f.payload 0 256)
      let x := (List.range 4).foldl (fun x i => x.shelfMark (a / 64 + i) (bit f.stain i)) x
      { x with recvs := x.recvs.map fun r => if r.seq = c.seq then { r with got := r.got + 1, since := s.now } else r }
    let s := if c.got + 1 = c.total then
        (s.modBench b fun x => { x with recvs := x.recvs.filter fun r => r.seq ≠ c.seq }).crossDone b c.seq
      else s
    s.stainArrives b p d (f.stain ≠ 0)

/-! The tables of an EXCHANGE -/

/-- `n` little-endian u32 values from the first byte of a row. -/
def Bench.words (x : Bench) (row n : Nat) : List Nat := elems 4 n (x.shelfRead (512 * row) (4 * n))

/-- Writes bytes at a shelf address; a segment that they cover whole is clean afterwards. -/
def Bench.putBytes (x : Bench) (a : Nat) (bs : List Byte) : Bench :=
  let first := ceilDiv a 64
  let last := (a + bs.length) / 64
  { x.shelfWrite a bs with shelfStain := x.shelfStain.filter fun g => g < first || last ≤ g }

def Bench.putWords (x : Bench) (row : Nat) (ws : List Nat) : Bench := x.putBytes (512 * row) (ws.flatMap (leBytes 4))

/-- The dispatch descriptor at byte 0 of a row (09 R259), and whether its reserved bytes are zero and its fields
legal. -/
def parseDisp (d : List Byte) : DispDesc × Bool × Bool :=
  let u (o w : Nat) : Nat := leAt d o w
  let x : DispDesc := {
    mode := u 0 1, k := u 1 1, cap := u 2 1, strict := bit (u 3 1) 0, segEn := bit (u 3 1) 1, layout := u 4 1, locals_ := u 6 2
    tokens := u 8 4, routes := u 0x0C 4, experts := u 0x10 4, rcvLimit := u 0x14 4, routeRow := u 0x18 2, histRow := u 0x1A 2
    offRow := u 0x1C 2, mapRow := u 0x1E 2, ovfRow := u 0x20 2, rcvRow := u 0x22 2, segRow := u 0x24 2 }
  let rsvd := u 5 1 = 0 && (List.range 26).all fun i => u (0x26 + i) 1 = 0
  let rows := [x.routeRow, x.histRow, x.offRow, x.mapRow, x.ovfRow, x.rcvRow, x.segRow].all (· < shelfRows)
  let ok := x.mode ≤ 1 && 1 ≤ x.k && x.k ≤ 8 && x.cap ≤ 63 && u 3 1 ≤ 3 && x.layout ≤ (if x.mode = 1 then 0 else 5) &&
    x.locals_ ≤ 1024 && x.tokens ≤ 1048575 && x.routes ≤ 4194304 && 1 ≤ x.experts && x.experts ≤ 65536 &&
    x.rcvLimit ≤ 16777215 && rows
  (x, rsvd, ok)

/-- Rows that bytes take. -/
def rowsFor (n : Nat) : Nat := ceilDiv n 512

/-- Scale bytes per piece of a scale-row layout, and the tokens of one row (09 R261). -/
def scaleOf (layout : Nat) : Nat := if layout = 3 then 1 else if layout = 4 then 2 else 4

/-- Rows that the receive area of `t` tokens takes. -/
def layoutRows (layout tokq t : Nat) : Nat :=
  if layout = 0 then rowsFor (t * tokq * 64)
  else if layout = 1 then ceilDiv t 16 * (2 * tokq)
  else if layout = 2 then ceilDiv t 8 * tokq
  else ceilDiv t (512 / scaleOf layout) * (64 * tokq / scaleOf layout)

/-- The shelf pieces of segment `off` of token `τ`: address and bytes taken from the segment (09 R261). -/
def layoutPieces (layout dst tokq τ off : Nat) : List (Nat × Nat × Nat) :=
  if layout = 0 then [(512 * dst + (τ * tokq + off) * 64, 0, 64)]
  else if layout = 1 then
    (List.range 2).map fun i => (512 * (dst + τ / 16 * (2 * tokq) + 2 * off + i) + τ % 16 * 32, 32 * i, 32)
  else if layout = 2 then [(512 * (dst + τ / 8 * tokq + off) + τ % 8 * 64, 0, 64)]
  else
    let n := scaleOf layout
    (List.range (64 / n)).map fun i =>
      (512 * (dst + τ / (512 / n) * (64 * tokq / n) + 64 / n * off + i) + τ % (512 / n) * n, n * i, n)

/-- Writes a received segment of a token; a segment of the shelf takes its stain, with those of its other bytes
(11 R314). -/
def Bench.placeSeg (x : Bench) (layout dst tokq τ off : Nat) (bs : List Byte) (st : Bool) : Bench :=
  (layoutPieces layout dst tokq τ off).foldl (fun x q =>
    let (a, i, n) := q
    let x := x.shelfWrite a (sliceAt bs i n)
    if n = 64 then x.shelfMark (a / 64) st else if st then x.shelfMark (a / 64) true else x) x

/-- The marks of the shelf segments that `t` received tokens cover whole are cleared. -/
def Bench.clearCovered (x : Bench) (layout dst tokq t : Nat) : Bench :=
  let each (n : Nat) (x : Bench) : Bench := (List.range (t / n * n)).foldl (fun x τ =>
    (List.range tokq).foldl (fun x off =>
      (layoutPieces layout dst tokq τ off).foldl (fun x q => x.shelfMark (q.1 / 64) false) x) x) x
  if layout = 1 then each 2 x else if 3 ≤ layout then each (64 / scaleOf layout) x else x

/-- The expert map: PEER and LOCAL of each expert (09 R260). -/
def Bench.expertMap (x : Bench) (d : DispDesc) : List (Nat × Nat) :=
  (x.words d.mapRow d.experts).map fun w => (w % 65536, w / 65536)

/-- How many experts a peer hosts: those that the map gives it. -/
def localsOf (m : List (Nat × Nat)) (q : Nat) : Nat := (m.filter fun e => e.1 = q).length

/-- One kept route: peer, local expert, token, choice. -/
abbrev Kept := Nat × Nat × Nat × Nat

/-- What a walk of the route list finds (09 R262): the kept routes in sorted order, the overflow count of each
expert, the out-of-bounds routes, and the first of them under a strict policy, which ends the walk (08 R244). -/
structure Walked where
  kept : List Kept := []
  excess : List Nat := []
  oob : Nat := 0
  strictAt : Option Nat := none

/-- Walks one expert's segment. -/
def walkSegment (x : Bench) (d : DispDesc) (strict : Bool) (cap e : Nat) (m : Nat × Nat) :
    Nat → Nat → Nat → Walked → Walked
  | 0, _, _, w => w
  | n + 1, i, kept, w =>
    let r := x.shelfRead (512 * d.routeRow + 8 * i) 8
    let key := leAt r 0 4
    let t := leAt r 4 4 % 2 ^ 24
    let j := bits (leAt r 4 4) 26 24
    if key ≠ e || d.tokens ≤ t || d.k ≤ j then
      walkSegment x d strict cap e m n (i + 1) kept { w with
        oob := if w.strictAt.isSome then w.oob else w.oob + 1, strictAt := if strict then w.strictAt.or (some i) else none }
    else if kept < cap then
      walkSegment x d strict cap e m n (i + 1) (kept + 1) { w with kept := w.kept ++ [(m.1, m.2, t, j)] }
    else walkSegment x d strict cap e m n (i + 1) kept { w with excess := w.excess.modify e (· + 1) }

def walkRoutes (x : Bench) (d : DispDesc) (strict : Bool) (cap : Nat) (hist : List Nat) (m : List (Nat × Nat)) : Walked :=
  let start : Walked := { excess := List.replicate d.experts 0 }
  (hist.zipIdx.foldl (fun (a : Nat × Walked) h =>
    (a.1 + h.1, walkSegment x d strict cap h.2 (m.getD h.2 (0, 0)) h.1 a.1 0 a.2)) (0, start)).2

/-- The first breach of R262 in the tables: fault cause and index. -/
def tableBreach (d : DispDesc) (hist off : List Nat) (m : List (Nat × Nat)) (peers : List Nat) : Option (Nat × Nat) :=
  let sum := hist.foldl (· + ·) 0
  let sums := (hist.foldl (fun (a : Nat × List Nat) h => (a.1 + h, a.2 ++ [a.1])) (0, [])).2
  let badMap := (m.zipIdx.any fun e => peers.length ≤ e.1.1 || localsOf m e.1.1 ≤ e.1.2)
  let twice := peers.zipIdx.any fun w => (peers.take w.2).contains w.1
  if sum ≠ d.routes then some (2, min sum d.routes)
  else match (sums.zip off).find? fun q => q.1 ≠ q.2 with
    | some q => some (2, q.1)
    | none => if badMap || twice then some (1, 0) else none

/-! EXCHANGE: sending -/

/-- The header and the data of one message (12 R352). -/
def exMessage (h : Frame) (counts : List Nat) (data : List Byte) (st : List Bool) : List Frame :=
  let hs := framesOf { h with typ := 0x02 } data.isEmpty 0 (counts.flatMap (leBytes 4)) []
  hs ++ (if data.isEmpty then [] else framesOf { h with typ := 0x03 } true hs.length data st)

/-- `n` tokens' bytes and marks from rows, at the given positions (token-major). -/
def Bench.tokensAt (x : Bench) (row tokq : Nat) (ts : List Nat) : List Byte × List Bool :=
  (ts.flatMap fun t => x.shelfRead (512 * row + t * tokq * 64) (tokq * 64),
   ts.flatMap fun t => (List.range tokq).map fun i => x.shelfStain.contains (8 * row + t * tokq + i))

/-- The receive table that a dispatch left (09 R265): FIRST and COUNT by local expert and peer. -/
def Bench.receiveTable (x : Bench) (d : DispDesc) (peers : Nat) : List Nat × List (List Nat) :=
  let r := rowsFor (4 * d.locals_)
  let cs := x.words (d.rcvRow + 2 * r) (d.locals_ * peers)
  (x.words (d.rcvRow + r) d.locals_, (List.range d.locals_).map fun e => (cs.drop (e * peers)).take peers)

/-- The local experts of a bench in the order in which a message carries their tokens: by the number of the expert in the map
(09 R263); `own` is the bench's place among the peer words. -/
def localOrder (m : List (Nat × Nat)) (own : Option Nat) (n : Nat) : List Nat :=
  let mine := match own with
    | some q => (((m.filter fun e => e.1 = q).map (·.2)).filter (· < n)).eraseDups
    | none => []
  mine ++ (List.range n).filter fun l => !mine.contains l

/-- The positions of a peer's tokens, expert by expert (09 R264, R266). -/
def peerPositions (order first : List Nat) (count : List (List Nat)) (q : Nat) : List Nat :=
  order.flatMap fun l =>
    let ns := count.getD l []
    let base := first.getD l 0 + (ns.take q).foldl (· + ·) 0
    (List.range (ns.getD q 0)).map (base + ·)

/-- Whether any row that the order names passes the end of the shelf. -/
def exRowsBad (d : DispDesc) (o : ExchangeOp) : Bool :=
  let past (row bytes : Nat) : Bool := row + rowsFor bytes > shelfRows
  past o.peerRow (4 * o.peers) || past d.routeRow (8 * d.routes) || past d.histRow (4 * d.experts) || past d.offRow (4 * d.experts) ||
  past d.mapRow (4 * d.experts) || past d.ovfRow (4 * d.experts) ||
  d.rcvRow + 2 * rowsFor (4 * d.locals_) + rowsFor (4 * d.locals_ * o.peers) > shelfRows ||
  (d.segEn && d.segRow + d.locals_ > shelfRows) ||
  (if d.mode = 0 then past o.srcRow (d.tokens * o.tokq * 64) else past o.dstRow (d.tokens * d.k * o.tokq * 64))

/-! EXCHANGE: receiving -/

/-- Position and whether it is written: in return mode a route that a later one of the list names again is not
(09 R266). -/
def ExCtx.target (c : ExCtx) (first : List Nat) (count : List (List Nat)) (q i : Nat) : Option Nat :=
  if c.ret then
    match (c.kept.getD q [])[i]? with
    | some (τ, n) => if c.kept.any fun ks => ks.any fun k => k.1 = τ && n < k.2 then none else some τ
    | none => none
  else (peerPositions c.order first count q)[i]?

/-- FIRST and COUNT in force while the exchange receives: of the headers in dispatch mode (09 R264). -/
def ExCtx.table (c : ExCtx) : List Nat × List (List Nat) :=
  let count := (List.range c.desc.locals_).map fun e => c.rx.map fun r => (r.counts.getD []).getD e 0
  let total := count.map fun cs => cs.foldl (· + ·) 0
  ((total.foldl (fun (a : Nat × List Nat) t => (a.1 + t, a.2 ++ [a.1])) (0, [])).2, count)

/-- Tokens of the message of a peer. -/
def ExCtx.tokensOf (c : ExCtx) (q : Nat) : Nat := (((c.rx.getD q {}).counts.getD []).foldl (· + ·) 0)

/-- Writes the segments that follow the first `k` of the message of peer `q`. -/
def ExCtx.writeSegs (c : ExCtx) (q k : Nat) (bs : List Byte) (st : List Bool) (x : Bench) : Bench :=
  let (first, count) := c.table
  (List.range (bs.length / 64)).foldl (fun x i =>
    let g := k + i
    match c.target first count q (g / c.ex.tokq) with
    | some τ => x.placeSeg c.desc.layout c.ex.dstRow c.ex.tokq τ (g % c.ex.tokq) (sliceAt bs (64 * i) 64) (st.getD i false)
    | none => x) x

def ExCtx.own (c : ExCtx) (me : Nat) : Option Nat := c.peers.findIdx? fun w => w.toNat = me

/-- Every header is in hand and every token has come. -/
def ExCtx.complete (c : ExCtx) : Bool := c.started && c.rx.all (·.done)

def State.putEx (s : State) (b : BenchId) (c : ExCtx) : State :=
  s.modBench b fun x => { x with exchanges := x.exchanges.map fun e => if e.seq = c.seq then c else e }

/-- Ends an exchange once everything has come. -/
def State.exFinish (s : State) (b : BenchId) (seq : Nat) : State :=
  match (s.bench b).exchanges.find? fun c => c.seq = seq with
  | some c =>
    if c.complete then (s.modBench b fun x => { x with exchanges := x.exchanges.filter fun e => e.seq ≠ seq }).crossDone b seq else s
  | none => s

/-- With every header in hand: the limits of R264 and R265, the receive table and the segment blocks, or the
count check and the zero fill of return mode (R266); then the bench's own tokens. -/
def State.exStart (s : State) (b : BenchId) (p : PartId) (c : ExCtx) : State :=
  let x := s.bench b
  let d := x.orderOf c.seq (.exchange c.ex)
  let (first, count) := c.table
  let totals := count.map fun cs => cs.foldl (· + ·) 0
  let sum := totals.foldl (· + ·) 0
  let excess := (List.range c.peers.length).find? fun q => (((List.range (q + 1)).map c.tokensOf).foldl (· + ·) 0) > c.desc.rcvLimit
  let big := totals.any fun t => t > 65535
  let badPeer := (List.range c.peers.length).find? fun q => (c.rx.getD q {}).counts ≠ some (c.keptCounts.getD q [])
  let own (s : State) (src : List Nat) : State :=
    match c.own (peerWord s.coord x.logical) with
    | none => s
    | some q =>
      let (bs, st) := x.tokensAt c.ex.srcRow c.ex.tokq src
      s.modBench b (c.writeSegs q 0 bs st)
  let stained (src : List Nat) : Bool := (x.tokensAt c.ex.srcRow c.ex.tokq src).2.any id
  if !c.ret then
    if sum > c.desc.rcvLimit then s.exFail b d 0x03 4 (excess.getD 0)
    else if c.desc.segEn && big then s.exFail b d 0x03 4 0
    else if c.ex.dstRow + layoutRows c.desc.layout c.ex.tokq sum > shelfRows then s.orderFault b { code := 0x06 } d
    else
      let r := rowsFor (4 * c.desc.locals_)
      let s := s.modBench b fun x =>
        let x := ((x.putWords c.desc.rcvRow totals).putWords (c.desc.rcvRow + r) first).putWords (c.desc.rcvRow + 2 * r) count.flatten
        let x := if c.desc.segEn then (first.zip totals).zipIdx.foldl (fun x e =>
            x.putBytes (512 * (c.desc.segRow + e.2) + 16) (leBytes 4 e.1.1 ++ leBytes 4 e.1.2)) x else x
        x.clearCovered c.desc.layout c.ex.dstRow c.ex.tokq sum
      let src := match c.own (peerWord s.coord x.logical) with | some q => (c.kept.getD q []).map (·.1) | none => []
      let s := (own s src).putEx b { c with started := true }
      (s.exFinish b c.seq).stainArrives b p d (stained src)
  else
    match badPeer with
    | some q => s.exFail b d 0x03 5 q
    | none =>
      let s := s.modBench b fun x =>
        x.putBytes (512 * c.ex.dstRow) (List.replicate (c.desc.tokens * c.desc.k * c.ex.tokq * 64) 0)
      let src := match c.own (peerWord s.coord x.logical) with
        | some q => let (f, n) := x.receiveTable c.desc c.peers.length; peerPositions c.order f n q
        | none => []
      let s := (own s src).putEx b { c with started := true }
      (s.exFinish b c.seq).stainArrives b p d (stained src)

/-- Starts receiving once no header is missing. -/
def State.exReady (s : State) (b : BenchId) (p : PartId) (seq : Nat) : State :=
  match (s.bench b).exchanges.find? fun c => c.seq = seq with
  | some c => if !c.started && c.rx.all (·.counts.isSome) then s.exStart b p c else s
  | none => s

/-- Local experts that the header of peer `q` counts: this bench's in dispatch mode, the peer's in return mode
(09 R263, R266). -/
def ExCtx.headerLen (c : ExCtx) (q : Nat) : Nat := if c.ret then (c.keptCounts.getD q []).length else c.desc.locals_

/-- A frame of an exchange from peer `q` (09 R264; 12 R341, R352). A header with more counts than this bench expects shows as
more frames, more words, counts in its padding, or no LAST where it counts nothing. -/
def State.exFrame (s : State) (b : BenchId) (p : PartId) (c : ExCtx) (q : Nat) (f : Frame) : State :=
  let d := (s.bench b).orderOf c.seq (.exchange c.ex)
  let r := c.rx.getD q {}
  let put (s : State) (r : ExPeer) : State := s.putEx b { c with rx := c.rx.set q r, since := s.now }
  let bytes (n : List Nat) : Nat := n.foldl (· + ·) 0 * c.ex.tokq * 64
  if frFidx f ≠ r.fidx % 4096 then s.sequenceFault b d f
  else
    match r.counts with
    | none =>
      let len := c.headerLen q
      let acc := r.hdrAcc ++ elems 4 (4 * f.plen) f.payload
      let enough : Bool := r.fidx + 1 = max 1 (ceilDiv len 64)
      let counts := acc.take len
      let long : Bool := acc.length ≠ roundUp len 4 || (acc.drop len).any (· ≠ 0) || (!f.last && bytes counts = 0)
      if f.typ ≠ 2 || (if enough then long else f.last) then s.exFail b d 0x03 5 q
      else if !enough then put s { r with hdrAcc := acc, fidx := r.fidx + 1 }
      else
        if f.last && bytes counts ≠ 0 then s.sequenceFault b d f
        else (put s { r with counts := some counts, hdrAcc := [], fidx := r.fidx + 1, done := f.last }).exReady b p c.seq
    | some counts =>
      let got := r.got + f.payload.length
      if f.typ ≠ 3 then s.exFail b d 0x03 5 q
      else if f.last ≠ (got = bytes counts : Bool) || bytes counts < got then s.sequenceFault b d f
      else
        let s := s.modBench b (c.writeSegs q (r.got / 64) f.payload (frStains f))
        let s := (put s { r with got := got, fidx := r.fidx + 1, done := f.last }).exFinish b c.seq
        s.stainArrives b p d (f.stain ≠ 0)

end Sys2Proof.Machine
end

