-- ==== Sys2Proof/Machine/Fold.lean ====
section
/-! DEFINITION. FOLD (13 R371 to R381): its plan over the owner tables, staging in place, the blocks it moves
between slots, the messages of a permutation and the reads of a gather. -/

namespace Sys2Proof.Machine

open Sys2Proof

/-! Blocks and slots (08 R240, R252) -/

/-- A descriptor of a FOLD: its index, its fields and its owner table's. -/
structure FoldSide where
  i : Nat
  d : TDesc
  o : Option TDesc := none

def FoldSide.f (q : FoldSide) : Fmt := (Fmt.ofCode q.d.fmt).getD .fp32

/-- Elements of a block under the block shape of an owner table. -/
def blockElems (d : TDesc) : Nat := 2 ^ ((d.stride.getD 0 0).toNat + (d.stride.getD 1 0).toNat)

/-- Blocks of the index space (R373). -/
def blockCount (d : TDesc) : Nat :=
  let n (k : Nat) : Nat := d.dim.getD k 0
  ceilDiv (n 0) (2 ^ (d.stride.getD 0 0).toNat) * ceilDiv (n 1) (2 ^ (d.stride.getD 1 0).toNat) * n 2 * n 3 * n 4 * n 5

/-- The coordinates of element `j` of block `blk`; none where the block reaches past the tensor. -/
def blockCoords (d : TDesc) (blk j : Nat) : Option (List Nat) :=
  let b0 := 2 ^ (d.stride.getD 0 0).toNat
  let b1 := 2 ^ (d.stride.getD 1 0).toNat
  let n (k : Nat) : Nat := d.dim.getD k 0
  let nb0 := ceilDiv (n 0) b0
  let nb1 := ceilDiv (n 1) b1
  let lin := blk / (max 1 nb0 * max 1 nb1)
  let c := [blk % max 1 nb0 * b0 + j % b0, blk / max 1 nb0 % max 1 nb1 * b1 + j / b0, lin % max 1 (n 2),
    lin / max 1 (n 2) % max 1 (n 3), lin / (max 1 (n 2) * max 1 (n 3)) % max 1 (n 4), lin / (max 1 (n 2) * max 1 (n 3) * max 1 (n 4))]
  if (List.range 6).any fun k => n k ≤ c.getD k 0 then none else some c

/-- Units of a block: elements, or MX blocks of 32 elements. -/
def unitElems (f : Fmt) : Nat := if f.isMx then 32 else 1

/-- Bytes of a block's elements, and of its scales. -/
def foldBytes (f : Fmt) (elems : Nat) : Nat := elems / unitElems f * unitBytes f
def foldScales (f : Fmt) (elems : Nat) : Nat := if f.isMx then elems / 32 else 0

/-- Where a slot begins, and where its scales do (08 R242). -/
def slotAt (d : TDesc) (f : Fmt) (elems slot : Nat) : Nat := d.base + slot * foldBytes f elems
def slotScaleAt (d : TDesc) (f : Fmt) (elems slot : Nat) : Nat := d.base + roundUp d.extent 64 + slot * foldScales f elems

/-- A fill unit of a descriptor (08 R243): elements, and the scale 0x7F. -/
def Work.fillUnit (w : Work) (d : TDesc) (f : Fmt) : List Byte :=
  leBytes (unitBytes f) (packBits f.width (List.replicate (unitElems f) (w.fillOf d f.width)))

/-- Reads one unit at a byte offset of the element area, and its scale where the format has one; past EXTENT it is
out of bounds (08 R242, R243). -/
def Work.readUnit (q : FoldSide) (k : Nat) (w : Work) : Marked × Marked × Work :=
  let f := q.f
  let off := k * unitBytes f
  if off + unitBytes f ≤ q.d.extent then
    let (bs, st, w) := Work.readMem q.i (unitBytes f) (q.d.base + off) w
    if f.isMx then
      let (sc, st', w) := Work.readMem q.i 1 (q.d.base + roundUp q.d.extent 64 + k) w
      (bs.map fun c => (c, st), sc.map fun c => (c, st'), w)
    else (bs.map fun c => (c, st), [], w)
  else
    ((w.fillUnit q.d f).map fun c => (c, false), if f.isMx then [(0x7F, false)] else [],
      Work.oobEvent { w with rbuf := none } q.i q.d false (q.d.base + off) (unitElems f))

/-- Writes one unit and its scale; past EXTENT it is dropped and counted. -/
def Work.writeUnit (q : FoldSide) (k : Nat) (bs sc : Marked) (w : Work) : Work :=
  let f := q.f
  let off := k * unitBytes f
  if off + unitBytes f ≤ q.d.extent then
    let w := Work.writeMem q.i (bs.any (·.2)) (bs.map (·.1)) (q.d.base + off) w
    if f.isMx then Work.writeMem q.i (sc.any (·.2)) (sc.map (·.1)) (q.d.base + roundUp q.d.extent 64 + k) w else w
  else (w.flush q.i).oobEvent q.i q.d true (q.d.base + off) (unitElems f)

/-- Reads `n` units from unit `k` on: elements, then scales. -/
def Work.readUnits (q : FoldSide) : Nat → Nat → Work → Marked × Marked × Work
  | 0, _, w => ([], [], w)
  | n + 1, k, w =>
    let (bs, sc, w) := w.readUnit q k
    if !w.ok then ([], [], w)
    else
      let (bs', sc', w) := Work.readUnits q n (k + 1) w
      (bs ++ bs', sc ++ sc', w)

/-- Writes `n` units from unit `k` on. -/
def Work.writeUnits (q : FoldSide) : Nat → Nat → Marked → Marked → Work → Work
  | 0, _, _, _, w => w.flush q.i
  | n + 1, k, bs, sc, w =>
    let w := w.writeUnit q k (bs.take (unitBytes q.f)) (sc.take 1)
    if !w.ok then w else Work.writeUnits q n (k + 1) (bs.drop (unitBytes q.f)) (sc.drop 1) w

/-- A whole slot. -/
def Work.readSlot (q : FoldSide) (elems slot : Nat) (w : Work) : Marked × Marked × Work :=
  let n := elems / unitElems q.f
  Work.readUnits q n (slot * n) { w with rbuf := none }

def Work.writeSlot (q : FoldSide) (elems slot : Nat) (bs sc : Marked) (w : Work) : Work :=
  let n := elems / unitElems q.f
  Work.writeUnits q n (slot * n) bs sc { w with rbuf := none, wbuf := none }

/-- Writes a gathered block to the places of its elements (R378); `own` gives the block shape. -/
def Work.writeGathered (q : FoldSide) (own : TDesc) (blk : Nat) : Nat → Nat → Marked → Marked → Work → Work
  | 0, _, _, _, w => w.flush q.i
  | n + 1, u, bs, sc, w =>
    let f := q.f
    let here := bs.take (unitBytes f)
    let w := match blockCoords own blk (u * unitElems f) with
      | none => w
      | some c =>
        let (l, w) := w.locate q.i q.d none f c
        if l.inb then
          let w := Work.writeMem q.i (here.any (·.2)) (here.map (·.1)) l.addr w
          if f.isMx then Work.writeMem q.i ((sc.take 1).any (·.2)) ((sc.take 1).map (·.1)) l.saddr w else w
        else (w.flush q.i).oobEvent q.i q.d true l.addr (unitElems f)
    if !w.ok then w else Work.writeGathered q own blk n (u + 1) (bs.drop (unitBytes f)) (sc.drop 1) w

/-- Reads the elements of a block of a descriptor without an owner table (R371: scatter). Units past the tensor
are left out. -/
def Work.readScattered (q : FoldSide) (own : TDesc) (blk : Nat) : Nat → Nat → Work → List (Nat × Loc × Marked × Marked) × Work
  | 0, _, w => ([], w)
  | n + 1, u, w =>
    let f := q.f
    match blockCoords own blk (u * unitElems f) with
    | none => Work.readScattered q own blk n (u + 1) w
    | some c =>
      let (l, w) := w.locate q.i q.d none f c
      let (bs, sc, w) : Marked × Marked × Work :=
        if l.inb then
          let (bs, st, w) := Work.readMem q.i (unitBytes f) l.addr w
          let (sc, st', w) := if f.isMx then Work.readMem q.i 1 l.saddr w else ([], false, w)
          (bs.map fun c => (c, st), sc.map fun c => (c, st'), w)
        else
          ((w.fillUnit q.d f).map fun c => (c, false), if f.isMx then [(0x7F, false)] else [],
            Work.oobEvent { w with rbuf := none } q.i q.d false l.addr (unitElems f))
      if !w.ok then ([], w)
      else
        let (rest, w) := Work.readScattered q own blk n (u + 1) w
        ((u, l, bs, sc) :: rest, w)

/-! The plan (R373) -/

/-- The peer word and the slot that an owner table gives a block; 0xFFFF_FFFF for none, and for a peer word out
of the dimensions, which is out of bounds (R373). -/
def Work.foldEntry (q : FoldSide) (blk : Nat) (write : Bool) (w : Work) : Nat × Nat × Work :=
  match q.o with
  | none => (0xFFFFFFFF, 0, w)
  | some o =>
    let (e, w) := w.ownerEntry q.i q.d.owner o blk
    let word := e % 2 ^ 32
    if word = 0xFFFFFFFF then (word, 0, w)
    else if !coordOk w.geo (word % 2 ^ 18) then (0xFFFFFFFF, 0, w.oobEvent q.i q.d write 0)
    else (word, e / 2 ^ 32, w)

/-- What a block is for one bench. -/
inductive FoldStep where
  | move (src dst : Nat)
  | fill (dst : Nat)
  | send (peer src : Nat)
  | receive (peer dst : Nat)
  | copyOut (blk src : Nat)
  | pull (blk home src : Nat)
  | fillOut (blk : Nat)
  | scatter (blk dst : Nat)
  deriving DecidableEq, Repr

/-- The class of one block in the form that the descriptors set (R371, R373). -/
def foldClass (src dst : FoldSide) (me coord blk sw ss dw ds : Nat) : Option FoldStep :=
  match src.o, dst.o with
  | some _, some _ =>
    if sw = me && dw = me then (if ss = ds && src.d.base = dst.d.base then none else some (.move ss ds))
    else if sw = me then (if dw = 0xFFFFFFFF then none else some (.send dw ss))
    else if dw = me then (if sw = 0xFFFFFFFF then some (.fill ds) else some (.receive sw ds))
    else none
  | some _, none =>
    if sw = 0xFFFFFFFF then (if me / 2 ^ 18 = 0 then some (.fillOut blk) else none)
    else if sw / 2 ^ 18 ≠ me / 2 ^ 18 then none
    else if sw % 2 ^ 18 = coord then some (.copyOut blk ss)
    else some (.pull blk (sw % 2 ^ 18) ss)
  | _, _ => if dw = me then some (.scatter blk ds) else none

/-- Walks every block in increasing order. -/
def Work.foldPlan (src dst : FoldSide) (me : Nat) : Nat → Nat → Work → List FoldStep × Work
  | 0, _, w => ([], w)
  | n + 1, blk, w =>
    let (sw, ss, w) := w.foldEntry src blk false
    let (dw, ds, w) := w.foldEntry dst blk true
    if !w.ok then ([], w)
    else
      let (rest, w) := Work.foldPlan src dst me n (blk + 1) w
      (match foldClass src dst me (coordWord w.geo.coord) blk sw ss dw ds with | some k => k :: rest | none => rest, w)

/-- Groups by peer, in the order of first appearance. -/
def byPeer (xs : List (Nat × Nat)) : List (Nat × List Nat) :=
  xs.foldl (fun a x =>
    if a.any fun g => g.1 = x.1 then a.map fun g => if g.1 = x.1 then (g.1, g.2 ++ [x.2]) else g else a ++ [(x.1, [x.2])]) []

/-! Staging in place (R374, R375) -/

/-- The DST slots that a plan writes. -/
def writtenSlots (plan : List FoldStep) : List Nat :=
  plan.filterMap fun k => match k with | .move _ d | .fill d | .receive _ d => some d | _ => none

/-- The SRC slots of the blocks that a plan stages: those sent or moved whose slot bytes overlap the bytes of a slot written. -/
def stagedSlots (src dst : FoldSide) (elems : Nat) (plan : List FoldStep) : List Nat :=
  let n := foldBytes src.f elems
  let ws := (writtenSlots plan).map (slotAt dst.d dst.f elems)
  plan.filterMap fun k => match k with
    | .move s _ | .send _ s =>
      let a := slotAt src.d src.f elems s
      if ws.any fun v => a < v + n && v < a + n then some s else none
    | _ => none

/-- The physical ranges of `n` bytes from a virtual address on, one for each line: address and bytes. An unmapped line has
none. -/
def Work.ranges (w : Work) : Nat → Nat → Nat → List (Nat × Nat)
  | 0, _, _ => []
  | fuel + 1, va, n =>
    let k := min n (64 - va % 64)
    if k = 0 then []
    else
      (match (walkBook va w.origin 3 0 w.pt.hdr.addrBook w.m).res with
       | .ok e => [(e.pa + (va - e.va), k)]
       | .error _ => []) ++ Work.ranges w fuel (va + k) (n - k)

/-- The ranges of a slot and of its scales. -/
def Work.slotRanges (w : Work) (q : FoldSide) (elems slot : Nat) : List (Nat × Nat) :=
  let n := foldBytes q.f elems
  let m := foldScales q.f elems
  w.ranges (n / 64 + 2) (slotAt q.d q.f elems slot) n ++ w.ranges (m / 64 + 2) (slotScaleAt q.d q.f elems slot) m

/-- What a FOLD leaves undefined where it is cancelled (R381): the DST slots that it writes and the SRC slots that it stages. -/
def Work.touchedRanges (w : Work) (src dst : FoldSide) (elems : Nat) (plan : List FoldStep) (staged : List Nat) : List (Nat × Nat) :=
  let ds := (writtenSlots plan ++ plan.filterMap fun k => match k with | .scatter _ d => some d | _ => none)
  ds.flatMap (w.slotRanges dst elems) ++ staged.flatMap (w.slotRanges src elems)

/-- Staging lines of one block: its elements and its scales. -/
def stageLinesOf (f : Fmt) (elems : Nat) : Nat := ceilDiv (foldBytes f elems) 64 + ceilDiv (foldScales f elems) 64

/-- Allocates `n` staging lines of a tile, the lowest that are free from `i` on; each takes its way (R375). -/
def MemSys.stage (t : TileId) (b : Fin 34) : Nat → Nat → Nat → MemSys → MemSys
  | 0, _, _, m => m
  | _, 0, _, m => m
  | fuel + 1, n + 1, i, m =>
    if (m.cacheAt t).stageLines.any fun e => e.1 = i then MemSys.stage t b fuel (n + 1) (i + 1) m
    else
      let m := m.evict t (i % 65536) (8 + i / 65536)
      MemSys.stage t b fuel n (i + 1) (m.modCache t fun c => { c with stageLines := c.stageLines ++ [(i, b)] })

/-- Releases `n` staging lines of a bench. -/
def dropStage (b : Fin 34) : Nat → List (Nat × Fin 34) → List (Nat × Fin 34)
  | _, [] => []
  | 0, ls => ls
  | n + 1, l :: ls => if l.2 = b then dropStage b n ls else l :: dropStage b (n + 1) ls

/-! Ends of a FOLD -/

/-- A fault of a FOLD, with the first cause that FD_FAULT keeps (R388). -/
def State.foldFail (s : State) (b : BenchId) (d : DecOrder) (f : OFault) (cause status : Nat) : State :=
  (s.modBench b fun x => { x with fdFault := if cause = 0 then x.fdFault else x.fdFault.or (some (cause, status)) }).orderFault b f d

def State.putFold (s : State) (b : BenchId) (c : FoldCtx) : State :=
  s.modBench b fun x => { x with folds := x.folds.map fun e => if e.seq = c.seq then c else e }

/-- Staging lines of a tile have been released: a FOLD that waits and now fits may issue (R375). -/
def State.poolFreed (s : State) (t : TileId) : State :=
  let free := 524288 - (s.cache t).stageLines.length
  allBenches.foldl (fun s b =>
    if b.tile = t && !(s.bench b).poolWaits.isEmpty then
      s.modBench b fun x => { x with poolWaits := x.poolWaits.filter fun e => free < e.2 }
    else s) s

/-- The FOLD completes once every row and line has come and has been written (07 R232): its staging lines are
released. -/
def State.foldFinish (s : State) (b : BenchId) (seq : Nat) : State :=
  match (s.bench b).folds.find? fun c => c.seq = seq with
  | some c =>
    if c.rx.all (·.done) && c.pulls.isEmpty && c.todo.isEmpty && c.slots.isEmpty then
      let s := s.modBench b fun x => { x with folds := x.folds.filter fun e => e.seq ≠ seq }
      let s := s.modCache b.tile fun t => { t with stageLines := dropStage b.phys (c.staged / 64) t.stageLines }
      let s := if c.staged = 0 then s else s.poolFreed b.tile
      s.crossDone b seq {} c.oob 0x44
    else s
  | none => s

/-- Counts blocks out and in (R388). -/
def State.foldCount (s : State) (b : BenchId) (out inn : Nat) : State :=
  s.modBench b fun x => { x with fdOut := wrapAdd 64 x.fdOut out, fdIn := wrapAdd 64 x.fdIn inn }

/-- Adds the counts of two lists by descriptor. -/
def addCounts (xs ys : List (Nat × Nat)) : List (Nat × Nat) := ys.foldl (fun a c => addCount a c.1 c.2) xs

/-! Receiving (R376, R377) -/

/-- The descriptors that a FOLD in flight goes by. -/
def FoldCtx.side (raw : List Byte) (i : Nat) : FoldSide := { i := i, d := parseDesc raw }

/-- Bytes of a message of `n` blocks. -/
def foldMessageBytes (f : Fmt) (elems n : Nat) : Nat := n * foldBytes f elems + roundUp (n * foldScales f elems) 16

/-- Writes the blocks of a message to their slots. -/
def Work.writeMessage (q : FoldSide) (elems : Nat) (es sc : Marked) : List Nat → Nat → Work → Work
  | [], _, w => w
  | slot :: slots, k, w =>
    let n := foldBytes q.f elems
    let m := foldScales q.f elems
    let w := w.writeSlot q elems slot ((es.drop (k * n)).take n) ((sc.drop (k * m)).take m)
    if !w.ok then w else Work.writeMessage q elems es sc slots (k + 1) w

/-- Bytes with the marks of their 64-byte segments. -/
def markBytes (bs : List Byte) (st : List Bool) : Marked := bs.zipIdx.map fun c => (c.1, st.getD (c.2 / 64) false)

/-- A FOLD_DATA frame from peer `q` (12 R341): the next in sequence, of the length the plan gives. -/
def State.foldFrame (s : State) (b : BenchId) (p : PartId) (c : FoldCtx) (q : Nat) (f : Frame) : State :=
  let d := (s.bench b).orderOf c.seq (.fold c.fold)
  let r := c.rx.getD q {}
  let dst := FoldCtx.side c.dst c.fold.dst
  let elems := blockElems dst.d
  let total := foldMessageBytes dst.f elems r.slots.length
  let got := r.data.length + f.payload.length
  if frFidx f ≠ r.fidx % 4096 || f.last ≠ (got = total : Bool) || total < got || f.payload.length ≠ min 256 (total - r.data.length) then
    (s.breakFlow b f).foldFail b d { code := 0x21 } 4 0
  else
    let st := (frStains f).take (ceilDiv f.payload.length 64)
    let r := { r with data := r.data ++ f.payload, stain := r.stain ++ st, fidx := r.fidx + 1, done := f.last }
    let keep : FoldPeer := if f.last then { r with data := [], stain := [] } else r
    let put (s : State) (oob : List (Nat × Nat)) : State :=
      s.putFold b { c with rx := c.rx.set q keep, since := s.now, oob := addCounts c.oob oob }
    if !f.last then put s []
    else
      let es := markBytes r.data r.stain
      let cut := r.slots.length * foldBytes dst.f elems
      let w0 := s.work b p
      let w := Work.writeMessage dst elems (es.take cut) (es.drop cut) r.slots 0 w0
      match w.fault with
      | some e => (s.putWork b p (w0.undo w)).foldFail b d e 0 0
      | none => ((put (s.putWork b p w) w.oob).foldCount b 0 r.slots.length).foldFinish b c.seq

/-! The reads of a gather (R378) -/

/-- The lines of a range in requests of up to four: offset from its first byte's line, lines and address. -/
def pullLines : Nat → Nat → Nat → Nat → List (Nat × Nat × Nat)
  | 0, _, _, _ => []
  | fuel + 1, n, off, va => if n = 0 then [] else (off, min 4 n, va) :: pullLines fuel (n - 4) (off + 256) (va + 256)

/-- The requests for a block: its elements, then the lines of its scales. -/
def blockPulls (src : FoldSide) (elems blk home slot : Nat) : List FoldPull :=
  let n := foldBytes src.f elems / 64
  let es := pullLines (n + 1) n 0 (slotAt src.d src.f elems slot)
  let m := foldScales src.f elems
  let a := slotScaleAt src.d src.f elems slot
  let k := if m = 0 then 0 else (a + m - 1) / 64 - a / 64 + 1
  let sc := pullLines (k + 1) k (64 * n) (lineBase a)
  (es ++ sc).map fun e => { reqId := 0, blk := blk, off := e.1, lines := e.2.1, va := e.2.2, home := home }

/-- Lines that the requests of a block bring. -/
def blockPullLines (src : FoldSide) (elems blk slot : Nat) : Nat :=
  ((blockPulls src elems blk 0 slot).map (·.lines)).foldl (· + ·) 0

/-- The request block of a READ (12 R355). -/
def readBlock (reqId lines va : Nat) : List Byte :=
  leBytes 1 1 ++ leBytes 1 lines ++ leBytes 2 reqId ++ leBytes 6 va ++ leBytes 6 0

/-- The lowest REQ_ID that no request of the bench uses. -/
def Bench.freeReqId (x : Bench) : Nat :=
  let used := x.folds.flatMap fun c => c.pulls.map (·.reqId)
  ((List.range (used.length + 1)).find? fun i => !used.contains i).getD 0

/-- Sends the next requests of a gather while fewer than 64 are outstanding. -/
def State.foldPullGo (b : BenchId) (p : PartId) (seq : Nat) : Nat → State → State
  | 0, s => s
  | n + 1, s =>
    match (s.bench b).folds.find? fun c => c.seq = seq with
    | none => s
    | some c =>
      match c.todo with
      | [] => s
      | k :: rest =>
        if 64 ≤ c.pulls.length then s
        else
          let id := (s.bench b).freeReqId
          let f : Frame := { s.header p 0x20 0 k.home with
            c := (s.bench b).logical, ef := id, plen := 1, payload := readBlock id k.lines k.va }
          let s := s.putFold b { c with pulls := c.pulls ++ [{ k with reqId := id }], todo := rest }
          State.foldPullGo b p seq n (s.launch (some p) f)

/-- The pieces of a block in the order of their offsets. -/
def gatherBytes (ps : List (Nat × Nat × List Byte × List Bool)) : Nat → Nat → Marked
  | 0, _ => []
  | n + 1, off =>
    match ps.find? fun e => e.2.1 = off with
    | some e => markBytes e.2.2.1 e.2.2.2 ++ gatherBytes ps n (off + e.2.2.1.length)
    | none => []

/-- The order fault of a refused READ (R378). -/
def pullFault (status va desc : Nat) : OFault :=
  match status with
  | 1 => { code := 0x21 }
  | 2 => { code := 0x23, bd := some (2, desc, false, va) }
  | 3 => { code := 0x23, bd := some (4, desc, false, va) }
  | 4 => { code := 0x23, bd := some (3, desc, false, va) }
  | 8 | 9 => { code := 0x22 }
  | _ => { code := 0x03 }

/-- The response to a READ of a gather (R378): a refused one ends the FOLD; the last of a block writes it. -/
def State.foldPulled (s : State) (b : BenchId) (p : PartId) (f : Frame) : State :=
  let x := s.bench b
  match x.folds.findSome? fun c => (c.pulls.find? fun k => k.reqId = f.ef).map fun k => (c, k) with
  | none => s
  | some (c, k) =>
    let d := x.orderOf c.seq (.fold c.fold)
    if f.d ≠ 0 then
      let e := pullFault f.d (lineBase k.va) c.fold.src
      (s.modBench b fun x => x.recordBd e.bd).foldFail b d e 3 f.d
    else
      let src := FoldCtx.side c.src c.fold.src
      let dst := FoldCtx.side c.dst c.fold.dst
      let elems := blockElems src.d
      let parts := c.parts ++ [(k.blk, k.off, sliceAt f.payload 0 (64 * k.lines), frStains f)]
      let slot := match c.slots.find? fun e => e.1 = k.blk with | some e => e.2 | none => 0
      let mine := parts.filter fun e => e.1 = k.blk
      let lines := (mine.map fun e => e.2.2.1.length / 64).foldl (· + ·) 0
      let c := { c with pulls := c.pulls.filter fun e => e.reqId ≠ k.reqId, since := s.now }
      if lines < blockPullLines src elems k.blk slot then
        (s.putFold b { c with parts := parts }).foldPullGo b p c.seq 64
      else
        let bs := gatherBytes mine (mine.length + 1) 0
        let n := foldBytes src.f elems
        let lead := slotScaleAt src.d src.f elems slot % 64
        let sc := ((bs.drop n).drop lead).take (foldScales src.f elems)
        let w0 := s.work b p
        let w := Work.writeGathered dst src.d k.blk (elems / unitElems src.f) 0 (bs.take n) sc { w0 with rbuf := none, wbuf := none }
        match w.fault with
        | some e => (s.putWork b p (w0.undo w)).foldFail b d e 0 0
        | none =>
          let c := { c with
            parts := parts.filter fun e => e.1 ≠ k.blk, slots := c.slots.filter fun e => e.1 ≠ k.blk, oob := addCounts c.oob w.oob }
          ((((s.putWork b p w).putFold b c).foldCount b 0 1).foldPullGo b p c.seq 64).foldFinish b c.seq

/-! Local blocks (R373, R374, R377) -/

/-- Data of a plan's local blocks, read before any DST slot is written. -/
inductive FoldData where
  | slot (dst : Nat) (bs sc : Marked)
  | out (blk : Nat) (bs sc : Marked)
  | units (dst : Nat) (us : List (Nat × Loc × Marked × Marked))

/-- Reads what one step of a plan moves within the module. -/
def Work.readStep (src : FoldSide) (elems : Nat) (own : TDesc) (k : FoldStep) (w : Work) : Option FoldData × Work :=
  let fillAll (w : Work) : Marked × Marked :=
    (((List.replicate (elems / unitElems src.f) (w.fillUnit src.d src.f)).flatten).map fun c => (c, false),
     List.replicate (foldScales src.f elems) (0x7F, false))
  match k with
  | .move s d => let (bs, sc, w) := w.readSlot src elems s; (some (.slot d bs sc), w)
  | .fill d => let (bs, sc) := fillAll w; (some (.slot d bs sc), w)
  | .copyOut blk s => let (bs, sc, w) := w.readSlot src elems s; (some (.out blk bs sc), w)
  | .fillOut blk => let (bs, sc) := fillAll w; (some (.out blk bs sc), w)
  | .scatter blk d =>
    let (us, w) := Work.readScattered src own blk (elems / unitElems src.f) 0 { w with rbuf := none }
    (some (.units d us), w)
  | _ => (none, w)

/-- A scattered block that stands in its slot already (R373: keep). -/
def keptUnits (dst : FoldSide) (elems slot : Nat) (us : List (Nat × Loc × Marked × Marked)) : Bool :=
  us.all fun u => u.2.1.inb && u.2.1.addr = slotAt dst.d dst.f elems slot + u.1 * unitBytes dst.f

/-- Writes it. -/
def Work.writeStep (dst : FoldSide) (elems : Nat) (own : TDesc) (k : FoldData) (w : Work) : Work :=
  let w := { w with rbuf := none, wbuf := none }
  match k with
  | .slot d bs sc => w.writeSlot dst elems d bs sc
  | .out blk bs sc => Work.writeGathered dst own blk (elems / unitElems dst.f) 0 bs sc w
  | .units d us =>
    if keptUnits dst elems d us then w
    else (us.foldl (fun w u =>
      if w.ok then w.writeUnit dst (d * (elems / unitElems dst.f) + u.1) u.2.2.1 u.2.2.2 else w) w).flush dst.i

def Work.readSteps (src : FoldSide) (elems : Nat) (own : TDesc) : List FoldStep → Work → List FoldData × Work
  | [], w => ([], w)
  | k :: ks, w =>
    let (d, w) := w.readStep src elems own k
    if !w.ok then ([], w)
    else
      let (ds, w) := Work.readSteps src elems own ks w
      (d.toList ++ ds, w)

/-- The message to one peer: the elements of its blocks, then their scales (R376). -/
def Work.foldMessage (src : FoldSide) (elems : Nat) : List Nat → Work → Marked × Marked × Work
  | [], w => ([], [], w)
  | slot :: slots, w =>
    let (bs, sc, w) := w.readSlot src elems slot
    if !w.ok then ([], [], w)
    else
      let (bs', sc', w) := Work.foldMessage src elems slots w
      (bs ++ bs', sc ++ sc', w)

/-- The messages of a plan, by peer. -/
def Work.foldMessages (src : FoldSide) (elems : Nat) : List (Nat × List Nat) → Work → List (Nat × Marked) × Work
  | [], w => ([], w)
  | g :: gs, w =>
    let (bs, sc, w) := w.foldMessage src elems g.2
    if !w.ok then ([], w)
    else
      let (ms, w) := Work.foldMessages src elems gs w
      ((g.1, bs ++ sc ++ List.replicate (roundUp sc.length 16 - sc.length) (0, false)) :: ms, w)

/-- The marks of the 64-byte segments of a message. -/
def markSegs : Nat → Marked → List Bool
  | 0, _ => []
  | n + 1, m => (m.take 64).any (·.2) :: markSegs n (m.drop 64)

/-- What R371 refuses: fault 0x03 or 0x04. -/
def foldMismatch (src dst : FoldSide) : Option Nat :=
  let both := src.o.isSome && dst.o.isSome
  if src.o.isNone && dst.o.isNone then some 0x03
  else if src.d.rank ≠ dst.d.rank || src.d.dim ≠ dst.d.dim then some 0x03
  else if both && (src.d.stride.getD 0 0 ≠ dst.d.stride.getD 0 0 || src.d.stride.getD 1 0 ≠ dst.d.stride.getD 1 0) then some 0x03
  else if src.d.fmt ≠ dst.d.fmt then some 0x04
  else none

end Sys2Proof.Machine
end

