-- ==== Sys2Proof/Machine/Feed.lean ====
section
/-! DEFINITION. How frames that wait in a bench's receive store reach the orders that await them (12 R341, R344,
R351), and the rows SEND, RECV, EXCHANGE and FOLD. -/

namespace Sys2Proof.Machine

open Sys2Proof

/-! Frames and the orders that await them -/

/-- Whether a frame belongs to a message that an exchange still awaits: its arrival restarts the watch, even while the frame
waits for the headers (09 R271). -/
def ExCtx.awaits (c : ExCtx) (f : Frame) : Bool :=
  (f.typ = 2 || f.typ = 3) && c.ex.tag = f.ef &&
  c.peers.zipIdx.any fun w => w.1.toNat = peerWord (f.src % 2 ^ 18) (f.d % 128) && !(c.rx.getD w.2 {}).done

/-- The RECV, EXCHANGE or FOLD that a frame goes to now, if one does. -/
inductive Sink where
  | recv (c : RecvCtx)
  | exchange (c : ExCtx) (q : Nat)
  | fold (c : FoldCtx) (q : Nat)
  | none

/-- The source of a frame as a peer word. -/
def frSource (f : Frame) : Nat := peerWord (f.src % 2 ^ 18) (f.d % 128)

def Bench.sinkOf (x : Bench) (f : Frame) : Sink :=
  match f.typ with
  | 1 =>
    match x.recvs.find? fun c => c.source.toNat = frSource f && c.tag = f.ef with
    | some c => .recv c
    | none => .none
  | 4 =>
    let mine (c : FoldCtx) : Option Nat :=
      if c.fold.tag = f.ef then c.rx.findIdx? fun r => r.peer.toNat = frSource f && !r.done else none
    match x.folds.findSome? fun c => (mine c).map fun q => (c, q) with
    | some (c, q) => .fold c q
    | none => .none
  | _ =>
    let mine (c : ExCtx) : Option Nat :=
      if c.ex.tag = f.ef then c.peers.zipIdx.findSome? fun w =>
        if w.1.toNat = frSource f && !(c.rx.getD w.2 {}).done then some w.2 else none
      else none
    match x.exchanges.findSome? fun c => (mine c).map fun q => (c, q) with
    | some (c, q) => if f.typ = 3 && !c.started && (c.rx.getD q {}).counts.isSome then .none else .exchange c q
    | none => .none

/-- The first waiting frame that an order takes now: none before it in its stream waits. -/
def Bench.nextSink (x : Bench) : List (Option PortId × Frame) → List (Option PortId × Frame) → Option (Nat × Sink)
  | _, [] => none
  | before, e :: es =>
    if before.any fun g => frFlow g.2 = frFlow e.2 then x.nextSink (before ++ [e]) es
    else
      match x.sinkOf e.2 with
      | .none => x.nextSink (before ++ [e]) es
      | k => some (before.length, k)

/-- Frames in the receive store whose bytes fit into its 64 KiB hold no credit (12 R351). -/
def State.settleStore (s : State) (b : BenchId) : State :=
  let step (a : Nat × List (Option PortId × Frame) × List (PortId × Frame)) (e : Option PortId × Frame) :=
    let n := a.1 + (if e.2.typ = 1 then 16 * e.2.plen else 0)
    match e.1 with
    | some port => if e.2.typ = 1 && n ≤ 65536 then (n, a.2.1 ++ [(none, e.2)], a.2.2 ++ [(port, e.2)]) else (n, a.2.1 ++ [e], a.2.2)
    | none => (n, a.2.1 ++ [e], a.2.2)
  let (_, keep, paid) := (s.bench b).rxStore.foldl step (0, [], [])
  let s := s.modBench b fun x => { x with rxStore := keep }
  paid.foldl (fun s e => s.payCredit (some e.1) e.2) s

/-- Hands waiting frames to the orders of a bench that await them, until none is taken. -/
def State.feedGo (b : BenchId) (p : PartId) : Nat → State → State
  | 0, s => s
  | n + 1, s =>
    if !s.benchLive b then s
    else
      match (s.bench b).nextSink [] (s.bench b).rxStore with
      | none => s
      | some (i, k) =>
        let e := (s.bench b).rxStore.getD i (none, {})
        let s := (s.modBench b fun x => { x with rxStore := removeAt x.rxStore i }).payCredit e.1 e.2
        State.feedGo b p n (match k with
          | .recv c => s.recvFrame b p c e.2
          | .exchange c q => s.exFrame b p c q e.2
          | .fold c q => s.foldFrame b p c q e.2
          | .none => s)

def State.feed (s : State) (b : BenchId) (p : PartId) : State := (State.feedGo b p ((s.bench b).rxStore.length) s).settleStore b

/-! Starting RECV and EXCHANGE -/

def State.startRecv (s : State) (b : BenchId) (p : PartId) (o : MsgOp) (d : DecOrder) : State :=
  if o.row + o.rows > shelfRows then s.orderFault b { code := 0x06 } d
  else if o.rows = 0 then s.crossDone b d.seq
  else
    let c : RecvCtx := { source := o.peer, tag := o.tag, row := o.row, total := 2 * o.rows, seq := d.seq, since := s.now }
    (s.modBench b fun x => { x with recvs := x.recvs ++ [c] }).feed b p

/-- EXCHANGE at issue: its tables are checked and walked, its messages leave, and it begins to receive. -/
def State.startExchange (s : State) (b : BenchId) (p : PartId) (o : ExchangeOp) (dd : DispDesc) (rsvd legal : Bool)
    (d : DecOrder) : State :=
  let x := s.bench b
  let stained (row bytes : Nat) : Bool := bytes ≠ 0 && x.shelfStained (512 * row) bytes
  if stained o.dispRow 64 then s.orderFault b { code := 0x24 } d
  else if !rsvd then s.exFail b d 0x02 1 0
  else if !legal then s.exFail b d 0x03 1 0
  else if exRowsBad dd o then s.orderFault b { code := 0x06 } d
  else
    let peers := x.words o.peerRow o.peers
    if stained o.peerRow (4 * o.peers) || stained dd.routeRow (8 * dd.routes) || stained dd.histRow (4 * dd.experts) ||
        stained dd.offRow (4 * dd.experts) || stained dd.mapRow (4 * dd.experts) ||
        (dd.mode = 1 && stained dd.rcvRow (512 * (2 * rowsFor (4 * dd.locals_)) + 4 * dd.locals_ * o.peers)) then
      s.orderFault b { code := 0x24 } d
    else if peers.any (peerBad s.geo) then s.exFail b d 0x03 1 0
    else
      let hist := x.words dd.histRow dd.experts
      let m := x.expertMap dd
      let strict := dd.mode = 0 && (dd.strict || (s.part p).hdr.strictPolicy = 1)
      match if dd.mode = 0 then tableBreach dd hist (x.words dd.offRow dd.experts) m peers else none with
      | some (cause, i) => s.exFail b d 0x03 cause i
      | none =>
        let w := walkRoutes x dd strict ((s.part p).caps.getD dd.cap 0) hist m
        let s := if dd.mode = 0 then s.modBench b fun x => { x with exOob := wrapAdd 64 x.exOob w.oob } else s
        match w.strictAt with
        | some i =>
          let desc := (Config.routeDesc s.freeCtr).toNat
          (s.tick.modBench b fun x => x.recordBd (some (1, desc, false, 0))).exFail b d 0x23 3 i
        | none =>
          let s := if dd.mode = 0 then s.modBench b fun x => { x.putWords dd.ovfRow w.excess with
              exOverflow := wrapAdd 64 x.exOverflow (w.excess.foldl (· + ·) 0) } else s
          let (first, count) := x.receiveTable dd o.peers
          let mine (q : Nat) : List (Nat × Kept) := w.kept.zipIdx.filterMap fun k => if k.1.1 = q then some (k.2, k.1) else none
          let keptCounts (q : Nat) : List Nat :=
            (List.range (localsOf m q)).map fun l => ((mine q).filter fun k => k.2.2.1 = l).length
          let ret : Bool := dd.mode = 1
          let me := peerWord s.coord x.logical
          let own := peers.zipIdx.find? fun e => e.1 = me
          let order := localOrder m (own.map (·.2)) dd.locals_
          let kept (q : Nat) : List (Nat × Nat) := (mine q).map fun k =>
            (if ret then k.2.2.2.1 * dd.k + k.2.2.2.2 else k.2.2.2.1, k.1)
          let counts (q : Nat) : List Nat := if ret then count.map fun cs => cs.getD q 0 else keptCounts q
          let src (q : Nat) : List Nat := if ret then peerPositions order first count q else (kept q).map (·.1)
          let frames (q pw : Nat) : List Frame :=
            if pw = me then []
            else
              let h : Frame := { s.header p 0x02 2 (pw % 2 ^ 18) with c := bits pw 24 18, d := x.logical, ef := o.tag }
              let (bs, st) := x.tokensAt o.srcRow o.tokq (src q)
              exMessage h (counts q) bs st
          if ret && (List.range o.peers).any fun q => (src q).any fun τ => o.srcRow + rowsFor ((τ + 1) * o.tokq * 64) > shelfRows then
            s.orderFault b { code := 0x06 } d
          else
            let s := s.launchAll (some p) (peers.zipIdx.flatMap fun e => frames e.2 e.1)
            let rx (q pw : Nat) : ExPeer := if pw = me then { counts := some (counts q), done := true } else {}
            let c : ExCtx := {
              ex := o, ret := ret, desc := dd, peers := peers.map (BitVec.ofNat 32), kept := (List.range o.peers).map kept
              keptCounts := (List.range o.peers).map keptCounts, rx := peers.zipIdx.map fun e => rx e.2 e.1
              order := order, since := s.now, seq := d.seq }
            match own with
            | some e =>
              if !ret && (counts e.2).length ≠ dd.locals_ then s.exFail b d 0x03 5 e.2
              else ((s.modBench b fun x => { x with exchanges := x.exchanges ++ [c] }).exReady b p d.seq).feed b p
            | none => ((s.modBench b fun x => { x with exchanges := x.exchanges ++ [c] }).exReady b p d.seq).feed b p

/-! Starting FOLD (13 R373) -/

/-- A block message for a bench of this module travels without frames of a port (R376). -/
def State.foldDeliver (s : State) (p : PartId) (pw : Nat) (fs : List Frame) : State :=
  match s.benchOfLogical p (bits pw 24 18) with
  | none => s
  | some t => (s.modBench t fun x => { x with rxStore := x.rxStore ++ fs.map fun f => (none, f) }).feed t p

/-- The messages of a plan leave. -/
def State.foldSend (s : State) (b : BenchId) (p : PartId) (o : FoldOp) (ms : List (Nat × Marked)) : State :=
  let lb := (s.bench b).logical
  ms.foldl (fun s m =>
    let h : Frame := { s.header p 0x04 2 (m.1 % 2 ^ 18) with c := bits m.1 24 18, d := lb, ef := o.tag }
    let fs := framesOf h true 0 (m.2.map (·.1)) (markSegs (ceilDiv m.2.length 64) m.2)
    if m.1 % 2 ^ 18 = s.coord then s.foldDeliver p m.1 fs else s.launchAll (some p) fs) s

/-- A FOLD whose staging finds no room does not issue (R375): it is the head of its stream again, with its NEED token and its
count given back, and waits for the pool. One that no slot holds is not taken. -/
def State.foldWait (s : State) (b : BenchId) (d : DecOrder) (lines : Nat) : State :=
  s.modBench b fun x =>
    if x.inflight.any fun i => i.dec.seq = d.seq then
      { x with
        inflight := x.inflight.filter fun i => i.dec.seq ≠ d.seq
        fStream := if d.hdr.stream then x.fStream else d :: x.fStream, bStream := if d.hdr.stream then d :: x.bStream else x.bStream
        tokens := if d.hdr.needEn then x.tokens.modify d.hdr.need (· + 1) else x.tokens
        issuedCount := wrapAdd 64 x.issuedCount (2 ^ 64 - 1), poolWaits := x.poolWaits ++ [(d.seq, lines)] }
    else x

/-- A planned FOLD runs: every block that leaves is read, staged blocks take their lines, local blocks and fills
are written, and messages and reads go out (R374 to R378). -/
def State.foldRun (s : State) (b : BenchId) (p : PartId) (o : FoldOp) (src dst : FoldSide) (raws : List Byte × List Byte)
    (plan : List FoldStep) (staged : List Nat) (lines : Nat) (w0 w : Work) (d : DecOrder) : State :=
  let own := if src.o.isSome then src.d else dst.d
  let elems := blockElems own
  let (ds, w) := Work.readSteps src elems own plan w
  let sends := plan.filterMap fun k => match k with | .send q a => some (q, a) | _ => none
  let recvs := plan.filterMap fun k => match k with | .receive q a => some (q, a) | _ => none
  let (ms, w) := Work.foldMessages src elems (byPeer sends) w
  let w := if w.ok then { w with m := MemSys.stage b.tile b.phys 524289 lines 0 w.m } else w
  let w := if w.ok then ds.foldl (fun w k => if w.ok then w.writeStep dst elems own k else w) w else w
  match w.fault with
  | some e => (s.putWork b p (w0.undo w)).foldFail b d e 0 0
  | none =>
    let moved := (ds.filter fun k => match k with
      | .slot _ _ _ | .out _ _ _ => true
      | .units a us => !keptUnits dst elems a us).length
    let fills := (plan.filter fun k => match k with | .fill _ | .fillOut _ => true | _ => false).length
    let pulls := plan.flatMap fun k => match k with | .pull blk home slot => blockPulls src elems blk home slot | _ => []
    let c : FoldCtx := {
      fold := o, src := raws.1, dst := raws.2
      rx := (byPeer recvs).map fun g => { peer := BitVec.ofNat 32 g.1, slots := g.2 }
      todo := pulls, slots := plan.filterMap fun k => match k with | .pull blk _ slot => some (blk, slot) | _ => none
      oob := w.oob, staged := 64 * lines, touched := w.touchedRanges src dst elems plan staged, since := s.now, seq := d.seq }
    let s := (s.putWork b p w).modBench b fun x => { x with folds := x.folds ++ [c] }
    let s := (s.foldCount b (sends.length + moved - fills) moved).foldSend b p o ms
    ((s.foldPullGo b p d.seq 64).feed b p).foldFinish b d.seq

/-- FOLD at issue: its descriptors are checked (R371), its plan formed (R373) and its staging fitted (R375). -/
def State.startFold (s : State) (b : BenchId) (p : PartId) (o : FoldOp) (d : DecOrder) : State :=
  let w0 := s.work b p
  let (sd, so, w) := w0.desc o.src
  let (dd, do_, w) := w.desc o.dst
  let (rs, w) := w.rawDesc o.src
  let (rd, w) := w.rawDesc o.dst
  let src : FoldSide := { i := o.src, d := sd, o := so }
  let dst : FoldSide := { i := o.dst, d := dd, o := do_ }
  match w.fault with
  | some e => (s.putWork b p (w0.undo w)).foldFail b d e 0 0
  | none =>
    match foldMismatch src dst with
    | some code => (s.putWork b p w).foldFail b d { code := code } 1 0
    | none =>
      let own := if so.isSome then sd else dd
      let elems := blockElems own
      let (plan, w) := Work.foldPlan src dst (peerWord s.coord (s.bench b).logical) (blockCount own) 0 w
      let staged := if so.isSome && do_.isSome then stagedSlots src dst elems plan else []
      let lines := staged.length * stageLinesOf src.f elems
      match w.fault with
      | some e => (s.putWork b p (w0.undo w)).foldFail b d e 0 0
      | none =>
        if 64 * lines > 4194304 then (s.putWork b p w).foldFail b d { code := 0x03 } 2 0
        else if lines ≠ 0 && 524288 < (s.cache b.tile).stageLines.length + lines then s.foldWait b d lines
        else s.foldRun b p o src dst (rs, rd) plan staged lines w0 w d

/-! The rows -/

/-- SEND (07 R230): rows go to the crossing for a peer. -/
def execSend (b : BenchId) (o : MsgOp) (s : State) : Result :=
  .next (s.runCross b (.send o) fun s p d => s.sendRows b p o d)

/-- RECV (07 R230): awaits the rows of a peer. -/
def execRecv (b : BenchId) (o : MsgOp) (s : State) : Result :=
  .next (s.runCross b (.recv o) fun s p d => s.startRecv b p o d)

/-- An EXCHANGE of one mode; a table of the other mode makes it the other row's order. -/
def State.exchangeRow (s : State) (b : BenchId) (o : ExchangeOp) (mode : Nat) : State :=
  let (dd, rsvd, legal) := parseDisp ((s.bench b).shelfRead (512 * o.dispRow) 64)
  if dd.mode ≠ mode && dd.mode ≤ 1 then s
  else s.runCross b (.exchange o) fun s p d => s.startExchange b p o dd rsvd legal d

/-- FOLD (13 R373): moves the blocks of a tensor between owners. -/
def execFold (b : BenchId) (o : FoldOp) (s : State) : Result :=
  .next (s.runCross b (.fold o) fun s p d => s.startFold b p o d)

/-- EXCHANGE in dispatch mode (09 R262): sends tokens to their experts. -/
def execExchangeDispatch (b : BenchId) (o : ExchangeOp) (s : State) : Result := .next (s.exchangeRow b o 0)

/-- EXCHANGE in return mode (09 R266): sends the expert outputs back. -/
def execExchangeReturn (b : BenchId) (o : ExchangeOp) (s : State) : Result := .next (s.exchangeRow b o 1)

end Sys2Proof.Machine
end

