-- ==== Sys2Proof/Machine/Reduce.lean ====
section
/-! DEFINITION. In-network reduction (07 R231; 12 R358 to R362): 16-bit mode (04 R126), exact-integer mode
(R127), one-bit thinning (R128), and the crossing adders' retries (14 R390). -/

namespace Sys2Proof.Machine

open Sys2Proof

/-! Shapes -/

/-- Exact-integer mode. -/
def RedCtx.exact (c : RedCtx) : Bool := c.mode = 1

/-- Bits of an integer of exact mode. -/
def RedCtx.width (c : RedCtx) : Nat := if c.w64 then 64 else 32

/-- Units that a stage carries, the units in a full frame, and the bytes of a unit (R359 to R361): entries, groups
of 256 entries, or encoded blocks. -/
def RedCtx.shape (c : RedCtx) (stage : Nat) : Nat × Nat × Nat :=
  if c.mode = 2 then (c.n / 32, 40, 6)
  else if stage = 2 || stage = 3 then (ceilDiv c.n 256, 128, 2)
  else if c.mode = 0 then (c.n, 128, 2)
  else if stage = 0 then (c.n, 2048 / c.width, c.width / 8)
  else (c.n, 64, 4)

/-- Frames of a stage. -/
def RedCtx.frames (c : RedCtx) (stage : Nat) : Nat := let (n, k, _) := c.shape stage; ceilDiv n k

/-- The number of bytes and units of frame `k` of a stage. -/
def RedCtx.unitsOf (c : RedCtx) (stage k : Nat) : Nat := let (n, per, _) := c.shape stage; min per (n - k * per)

/-- The header of a frame of the contribution (R340). -/
def State.redHeader (s : State) (p : PartId) (c : RedCtx) (stage dst : Nat) : Frame :=
  { s.header p 0x10 2 dst with c := c.tree + 16 * stage, d := c.bench, ef := c.seqNo + 256 * (c.mode + 4 * b2n c.w64) }

/-- Frame `k` of a stage with the given bytes and marks. -/
def State.redFrame (s : State) (p : PartId) (c : RedCtx) (stage dst k : Nat) (bs : List Byte) (st : List Bool) : Frame :=
  let units := ceilDiv bs.length 16
  { frWithFidx (s.redHeader p c stage dst) k with
    plen := units, payload := sliceAt bs 0 (16 * units), stain := stainBits st, last := k + 1 = c.frames stage }

/-- The marks of 64-byte segments of units of `w` bytes, from the marks of the units. -/
def segMarks (w : Nat) (st : List Bool) : List Bool :=
  (List.range (ceilDiv (st.length * w) 64)).map fun g => ((st.drop (g * (64 / w))).take (64 / w)).any id

/-- The marks of units from those of their segments. -/
def unitMarks (w n : Nat) (st : List Bool) : List Bool := (List.range n).map fun i => st.getD (i * w / 64) false

/-! Streams -/

def RedCtx.stream (c : RedCtx) (src stage : Nat) : RedStream :=
  (c.streams.find? fun r => r.from_ = src && r.stage = stage).getD { from_ := src, stage := stage }

def RedCtx.putStream (c : RedCtx) (r : RedStream) : RedCtx :=
  if c.streams.any fun q => q.from_ = r.from_ && q.stage = r.stage then
    { c with streams := c.streams.map fun q => if q.from_ = r.from_ && q.stage = r.stage then r else q }
  else { c with streams := c.streams ++ [r] }

/-- Units `i` to `i + n - 1` of a stream, as numbers, with their marks. -/
def RedStream.units (r : RedStream) (w i n : Nat) : List (Nat × Bool) :=
  (List.range n).map fun j => (leAt r.data ((i + j) * w) w, r.stain.getD ((i + j) * w / 64) false)

/-! The sums -/

/-- eb of an entry (R127). -/
def ebOf (v : Val) : Int :=
  match v with
  | .fin _ 0 _ => -32768
  | .fin _ _ _ => vLog2Floor v
  | _ => 32767

def s16 (i : Int) : Nat := trunc 16 i

/-- The shift of a group (R127). -/
def groupShift (e : Int) (h w : Nat) : Int := e + 2 + h - (w - 1 : Nat)

/-- q of an entry in a group whose E is `e` (R127); zero where E makes the group NaN or +0. -/
def quantQ (e : Int) (h w : Nat) (v : Val) : Int :=
  if e = 32767 || e = -32768 then 0
  else
    match v with
    | .fin neg m ex => roundInt neg m (ex - groupShift e h w) none
    | _ => 0

/-- The FP32 result of a sum (R127), with its flags. -/
def exactResult (e : Int) (h w : Nat) (sum : Int) : Nat × Flags :=
  if e = 32767 then (0x7FC00000, fNone)
  else if e = -32768 then (0, fNone)
  else rne32 (Val.ofUnits sum (groupShift e h w) false)

/-- The 16-bit sum at one member (R126). -/
def sum16 (own : Nat) (kids : List Nat) : Nat × Flags :=
  let (acc, f) := kids.foldl (fun (a : Nat × Flags) k =>
    let (v, g) := vAdd (val32 a.1) (sBF16.decode k)
    rnd sFP32 v (fOr a.2 g)) (own * 65536, fNone)
  let nan (k : Nat) : Flags := if (sBF16.decode k).isNan then fNanIn else fNone
  let (out, g) := rneBf16 (val32 acc)
  (out, (own :: kids).foldl (fun a k => fOr a (nan k)) (fOr f (if g.nanIn then fNone else g)))

/-! What a member forms next -/

/-- The tree as a member sees it: parent and children by coordinates, and h. -/
structure RedTree where
  parent : Option Nat
  kids : List Nat
  h : Nat
  replicas : Nat

def State.redTree (s : State) (p : PartId) (id : Nat) : RedTree :=
  match (s.part p).trees.find? fun t => t.id = id with
  | some t => {
      parent := if t.parent = 0x0F then none else some (neighbour s.geo t.parent), kids := t.children.map (neighbour s.geo)
      h := bitlen (t.replicas - 1), replicas := t.replicas }
  | none => { parent := none, kids := [], h := 0, replicas := 1 }

/-- Local units of a stage. -/
def RedCtx.ownUnit (c : RedCtx) (i : Nat) : Nat × Bool := (c.local_.getD i 0, c.stain.getD i false)

/-- The value of a local entry. -/
def RedCtx.val (c : RedCtx) (code : Nat) : Val := if c.bf16 then sBF16.decode code else val32 code

/-- Whether every child has delivered frame `k` of a stage. -/
def RedCtx.kidsHave (c : RedCtx) (t : RedTree) (stage k : Nat) : Bool := t.kids.all fun q => k < (c.stream q stage).fidx

/-- One frame of the maxima (STAGE 2, R360): up, or, at the root, E known and sent down. -/
def State.stepMax (s : State) (p : PartId) (t : RedTree) (c : RedCtx) : Option (RedCtx × List Frame) :=
  let k := c.sentMax
  if c.mode ≠ 1 || c.frames 2 ≤ k || !c.kidsHave t 2 k then none
  else
    let n := c.unitsOf 2 k
    let own (g : Nat) : Int := ((List.range (min 256 (c.n - 256 * g))).map fun i => ebOf (c.val (c.ownUnit (256 * g + i)).1)).foldl max (-32768)
    let ms := (List.range n).map fun i =>
      let g := 128 * k + i
      t.kids.foldl (fun a q => max a (sext 16 (leAt (c.stream q 2).data (2 * g) 2))) (own g)
    let bs := ms.flatMap fun m => leBytes 2 (s16 m)
    let c := { c with sentMax := k + 1 }
    match t.parent with
    | some q => some (c, [s.redFrame p c 2 q k bs []])
    | none => some ({ c with emax := c.emax ++ ms }, t.kids.map fun q => s.redFrame p c 3 q k bs [])

/-- One frame of the sums (STAGE 0, R359, R360): up, or, at the root, results. -/
def State.stepSum (s : State) (p : PartId) (t : RedTree) (c : RedCtx) : Option (RedCtx × List Frame) :=
  let k := c.sentUp
  let (_, per, w) := c.shape 0
  let n := c.unitsOf 0 k
  if c.mode = 2 || c.frames 0 ≤ k || !c.kidsHave t 0 k || (c.exact && c.emax.length * 256 < per * k + n && c.emax.length < ceilDiv c.n 256) then none
  else
    let kids := t.kids.map fun q => (c.stream q 0).units w (per * k) n
    let marks := (List.range n).map fun i => (c.ownUnit (per * k + i)).2 || kids.any fun u => (u.getD i (0, false)).2
    let c := { c with sentUp := k + 1 }
    if c.exact then
      let e (i : Nat) : Int := c.emax.getD ((per * k + i) / 256) 0
      let sums : List Int := (List.range n).map fun i =>
        kids.foldl (fun a u => a + sext c.width (u.getD i (0, false)).1)
          (quantQ (e i) t.h c.width (c.val (c.ownUnit (per * k + i)).1))
      match t.parent with
      | some q =>
        let bs := sums.flatMap fun i => leBytes w (trunc c.width i)
        some (c, [s.redFrame p c 0 q k bs (segMarks w marks)])
      | none =>
        let rs := sums.zipIdx.map fun x => exactResult (e x.2) t.h c.width x.1
        some ({ c with
          results := c.results ++ rs.map (·.1), resStain := c.resStain ++ marks
          flags := rs.foldl (fun a r => fOr a r.2) c.flags }, [])
    else
      let rs := (List.range n).map fun i => sum16 (c.ownUnit (per * k + i)).1 (kids.map fun u => (u.getD i (0, false)).1)
      let c := { c with flags := rs.foldl (fun a r => fOr a r.2) c.flags }
      match t.parent with
      | some q => some (c, [s.redFrame p c 0 q k (rs.flatMap fun r => leBytes 2 r.1) (segMarks 2 marks)])
      | none => some ({ c with results := c.results ++ rs.map (·.1), resStain := c.resStain ++ marks }, [])

/-- One frame of results of the root (STAGE 1). -/
def State.stepDown (s : State) (p : PartId) (t : RedTree) (c : RedCtx) : Option (RedCtx × List Frame) :=
  let k := c.sentDown
  let (_, per, w) := c.shape 1
  let n := c.unitsOf 1 k
  if c.mode = 2 || t.parent.isSome || c.frames 1 ≤ k || c.results.length < per * k + n then none
  else
    let bs := ((c.results.drop (per * k)).take n).flatMap (leBytes w)
    let st := segMarks w ((c.resStain.drop (per * k)).take n)
    some ({ c with sentDown := k + 1 }, t.kids.map fun q => s.redFrame p c 1 q k bs st)

/-- Forms frames until none can be. -/
def State.redSteps (s : State) (p : PartId) (t : RedTree) : Nat → RedCtx → RedCtx × List Frame
  | 0, c => (c, [])
  | n + 1, c =>
    match (s.stepMax p t c) <|> (s.stepSum p t c) <|> (s.stepDown p t c) with
    | none => (c, [])
    | some (c, fs) => let (c, gs) := s.redSteps p t n c; (c, fs ++ gs)

/-! One-bit thinning (R128, R361) -/

/-- Encodes one block: the sign word, the scale, the new residues, and flags. -/
def encodeBlock (g r : List Nat) : Nat × Nat × List Nat × Flags :=
  let es := (g.zip r).map fun x => let (v, f) := vAdd (val32 x.1) (val32 x.2); rnd sFP32 v f
  let (sum, f) := exactSum (es.map fun e => (val32 e.1).abs)
  let (sc, f') := sFP16.conv .saturate (sum.shift (-5)) none
  let sign (e : Nat) : Bool := bit e 31
  let signs := (es.zipIdx.map fun e => b2n (sign e.1.1) * 2 ^ e.2).foldl (· + ·) 0
  let dec (e : Nat) : Val := let v := sFP16.decode sc; if sign e then v.neg else v
  let rs := es.map fun e => let (v, f) := vSub (val32 e.1) (dec e.1); rnd sFP32 v f
  (signs, sc, rs.map (·.1), fOr (fOr f f') (es.foldl (fun a e => fOr a e.2) fNone))

/-- The payload of a frame of encoded blocks (R361). -/
def packBlocks (bs : List (Nat × Nat)) : List Byte :=
  let n := bs.length
  (bs.flatMap fun b => leBytes 4 b.1) ++ List.replicate (160 - 4 * n) 0 ++ (bs.flatMap fun b => leBytes 2 b.2) ++ List.replicate (96 - 2 * n) 0

/-- Block `i` of an origin's frames: sign word and scale. -/
def RedStream.block (r : RedStream) (i : Nat) : Nat × Nat :=
  let o := 256 * (i / 40)
  (leAt r.data (o + 4 * (i % 40)) 4, leAt r.data (o + 160 + 2 * (i % 40)) 2)

def RedStream.blockStain (r : RedStream) (i : Nat) : Bool :=
  let o := 4 * (i / 40)
  r.stain.getD (o + 4 * (i % 40) / 64) false || r.stain.getD (o + (160 + 2 * (i % 40)) / 64) false

/-- The linear coordinate of an origin (R361). -/
def linear (g : ModSection) (w : Nat) : Nat :=
  let c := coordList w
  c.getD 0 0 + g.dim.getD 0 1 * (c.getD 1 0 + g.dim.getD 1 1 * c.getD 2 0)

def insertOrigin (g : ModSection) (r : RedStream) : List RedStream → List RedStream
  | [] => [r]
  | q :: qs => if linear g r.from_ < linear g q.from_ then r :: q :: qs else q :: insertOrigin g r qs

/-- The sum of every origin's decoded values in replica order (R128). -/
def sumOrigins (os : List RedStream) (n : Nat) : List (Nat × Bool × Flags) :=
  (List.range n).map fun i =>
    let dec (r : RedStream) : Nat :=
      let (w, sc) := r.block (i / 32)
      let v := sFP16.decode sc
      (rne32 (if bit w (i % 32) then v.neg else v)).1
    let nan (r : RedStream) : Flags := if (sFP16.decode (r.block (i / 32)).2).isNan then fNanIn else fNone
    let bad := os.any fun r => (sFP16.decode (r.block (i / 32)).2).isNan
    let st := os.any fun r => r.blockStain (i / 32)
    let fl := os.foldl (fun a r => fOr a (nan r)) fNone
    if bad then (0x7FC00000, st, fl)
    else
      match os with
      | [] => (0, st, fl)
      | o :: os =>
        let (v, f) := os.foldl (fun (a : Nat × Flags) r =>
          let (v, g) := vAdd (val32 a.1) (val32 (dec r))
          rnd sFP32 v (fOr a.2 g)) (dec o, fl)
        (v, st, f)

/-- Every origin is held: the results (R361). -/
def State.oneBitSum (s : State) (t : RedTree) (c : RedCtx) : RedCtx :=
  let stage := if t.parent.isSome then 1 else 0
  let os := c.streams.filter fun r => r.stage = stage
  if c.mode = 2 && c.results.isEmpty && os.length = t.replicas && os.all (·.lastSeen) then
    let rs := sumOrigins (os.foldl (fun a r => insertOrigin s.geo r a) []) c.n
    { c with results := rs.map (·.1), resStain := rs.map (·.2.1), flags := rs.foldl (fun a r => fOr a r.2.2) c.flags }
  else c

/-! Contributions -/

def State.putRed (s : State) (p : PartId) (c : RedCtx) : State :=
  s.modPart p fun x => { x with reds := x.reds.map fun r => if r.tree = c.tree && r.bench = c.bench && r.seqNo = c.seqNo then c else r }

def State.dropRed (s : State) (p : PartId) (c : RedCtx) : State :=
  s.modPart p fun x => { x with reds := x.reds.filter fun r => !(r.tree = c.tree && r.bench = c.bench && r.seqNo = c.seqNo) }

/-- The fault of the REDUCE that a contribution belongs to. -/
def State.redFail (s : State) (p : PartId) (c : RedCtx) (code : Nat) : State :=
  match s.benchOfLogical p c.bench with
  | none => s.stopPart p code none (some (0x0020, (s.part p).cls))
  | some b =>
    let o : ReduceOp := { tree := c.tree, mode := c.mode, w64 := c.w64, n := c.n, dstRow := c.dst, rdesc := c.rdesc }
    s.orderFault b { code := code } ((s.bench b).orderOf c.seq (.reduce o))

/-- The results of a contribution: their width, their codes and the flags; FORCE_EXACT gives BF16 results one more rounding
(07 R231). -/
def RedCtx.outcome (c : RedCtx) : Nat × List Nat × Flags :=
  let rs := c.results.take c.n
  if c.bf16 && c.mode = 1 then
    let cs := rs.map fun r => rneBf16 (val32 r)
    (16, cs.map (·.1), cs.foldl (fun a x => fOr a (if x.2.nanIn then fNone else x.2)) c.flags)
  else (if c.bf16 then 16 else 32, rs, c.flags)

/-- The results go to DST_ROW, each with its mark, and the contribution is over. -/
def State.redStore (s : State) (p : PartId) (c : RedCtx) : State :=
  match s.benchOfLogical p c.bench with
  | none => s
  | some b =>
    let (w, es, _) := c.outcome
    let es := es.zip (c.resStain ++ List.replicate c.n false)
    (s.modBench b fun x => x.putPacked w (packedRows w c.n) c.dst es).dropRed p c

/-- Writes the results and completes the order (07 R231). -/
def State.redWrite (s : State) (p : PartId) (c : RedCtx) : State :=
  match s.benchOfLogical p c.bench with
  | none => s
  | some b => (s.redStore p c).crossDone b c.seq c.outcome.2.2 c.oob 0x42

/-- Lets a contribution go on: frames leave, and once every result is there and has been sent on, the order completes, or
faults where one is stained (R362); the results are written first, with their marks. -/
def State.redGo (s : State) (p : PartId) (c : RedCtx) : State :=
  let t := s.redTree p c.tree
  let (c, fs) := s.redSteps p t (2 * c.frames 2 + 2 * c.frames 0 + 2 * c.frames 1 + 1) c
  let c := s.oneBitSum t c
  let s := (s.putRed p c).launchAll (some p) fs
  if c.results.length < c.n || !(c.mode = 2 || t.parent.isSome || c.frames 1 ≤ c.sentDown) then s
  else if c.resStain.any id then (s.redStore p c).redFail p c 0x24
  else s.redWrite p c

/-- The stage of a contribution that a RED frame belongs to: source, tree and stage, bench, SEQ and mode. -/
def frRedFlow (f : Frame) : Nat × Nat × Nat × Nat := (f.src, f.c, f.d, f.ef)

/-- A RED frame breaks its sequence (R341): the rest of its stage is discarded, what waits of it and what is still to come. -/
def State.breakRed (s : State) (p : PartId) (f : Frame) : State :=
  let mine (e : Option PortId × Frame × Nat) : Bool := frRedFlow e.2.1 = frRedFlow f
  let gone := if f.last then [] else (s.part p).redFrames.filter mine
  let s := gone.foldl (fun s e => s.payCredit e.1 e.2.1) s
  s.modPart p fun x => { x with
    redFrames := x.redFrames.filter fun e => f.last || !mine e
    brokenReds := if f.last || gone.any (·.2.1.last) then x.brokenReds else x.brokenReds ++ [frRedFlow f] }

/-- A frame of a contribution whose REDUCE this member has issued (R341, R358 to R361). -/
def State.redTake (s : State) (p : PartId) (c : RedCtx) (f : Frame) (disagree : Nat) : State :=
  let t := s.redTree p c.tree
  let stage := bits f.c 6 4
  let here := s.coord
  let r := c.stream f.src stage
  let origins := (c.streams.filter fun q => q.stage = stage && q.from_ ≠ f.src).length + 1
  let got := ((c.streams.filter fun q => q.stage = stage).map (·.fidx)).foldl (· + ·) 1
  if f.ef / 256 % 4 ≠ c.mode || bit f.ef 10 ≠ c.w64 then s.redFail p c 0x0C
  else if frFidx f ≠ r.fidx % 4096 then (s.breakRed p f).redFail p c 0x21
  else if f.last ≠ (r.fidx + 1 = c.frames stage : Bool) || c.frames stage ≤ r.fidx ||
      (c.mode = 2 && t.replicas * c.frames stage ≤ got && origins ≠ t.replicas) then s.redFail p c 0x0C
  else
    let twice : Bool := 2 ≤ disagree && (if c.mode = 2 then (stage = 1) = t.parent.isSome else stage = 0)
    let st := if twice then List.replicate 4 true else frStains f
    let pad := sliceAt f.payload 0 (if f.last then f.payload.length else 256)
    let c := c.putStream { r with fidx := r.fidx + 1, data := r.data ++ pad, stain := r.stain ++ st, lastSeen := f.last }
    let c := { c with since := s.now }
    let s := if twice then
        let now := s.now
        let fails := s.cx.adderFails.filter (fun a => now ≤ a + sec 86400) ++ [now]
        let deg : Bool := !s.cx.degraded && 3 ≤ fails.length
        let s := { s with cx := { s.cx with adderFails := fails, degraded := s.cx.degraded || deg } }
        let s := s.raise 0x0 0 0x0043 (some p)
        if deg then s.raise 0x0 0 0x0044 else s
      else s
    let pass (stage : Nat) (dests : List Nat) : List Frame := dests.map fun q => { f with
      c := f.c % 16 + 16 * stage, dst := q, src := if c.mode = 2 then f.src else here, rev := false, cls := false, shr := false }
    let n := c.unitsOf stage r.fidx
    let (c, fs) : RedCtx × List Frame :=
      if c.mode = 2 then
        (c, if stage = 0 then (match t.parent with | some q => pass 0 [q] | none => pass 1 t.kids) else pass 1 t.kids)
      else if stage = 3 then
        ({ c with emax := c.emax ++ (List.range n).map fun i => sext 16 (leAt f.payload (2 * i) 2) }, pass 3 t.kids)
      else if stage = 1 then
        let w := (c.shape 1).2.2
        ({ c with
          results := c.results ++ (List.range n).map fun i => leAt f.payload (w * i) w
          resStain := c.resStain ++ unitMarks w n (frStains f) }, pass 1 t.kids)
      else (c, [])
    ((s.putRed p c).launchAll (some p) fs).redGo p c

/-- The contribution that a frame belongs to. -/
def Partition.redOf (x : Partition) (f : Frame) : Option RedCtx :=
  x.reds.find? fun c => c.tree = f.c % 16 && c.bench = f.d % 128 && c.seqNo = f.ef % 256

/-- Hands the frames that waited for a REDUCE to it, in the order they came (R344). -/
def State.redFeed (p : PartId) : List (Option PortId × Frame × Nat) → State → State
  | [], s => s
  | e :: es, s =>
    match ((s.part p).redOf e.2.1).filter fun _ => (s.part p).redFrames.contains e with
    | some c =>
      let drop (x : Partition) : Partition := { x with redFrames := x.redFrames.eraseP fun g => g = e }
      State.redFeed p es (((s.modPart p drop).payCredit e.1 e.2.1).redTake p c e.2.1 e.2.2)
    | none => State.redFeed p es s

/-- Flags of the entries a REDUCE consumes in exact-integer mode (04 R116). -/
def entryFlags (vs : List Val) : Flags :=
  vs.foldl (fun a v => fOr a (if v.isNan then fNanIn else if v.isInf then fInvalid else fNone)) fNone

/-- The own blocks of one-bit mode are encoded through the residue store, and the new residues written. -/
def State.encodeOwn (s : State) (b : BenchId) (p : PartId) (o : ReduceOp) (es : List (Nat × Bool)) :
    Except OFault (List (Nat × Nat × Bool) × Flags × List (Nat × Nat)) × State :=
  let w0 := s.work b p
  let (d, own, w) := w0.desc o.rdesc
  let w := w.failWhen (d.fmt ≠ 0) 0x04
  let u : MoveUnit := { desc := o.rdesc, d := d, owner := own, f := .fp32, scales := false }
  if !w.ok then (.error (w.fault.getD { code := 0x04 }), s.putWork b p w)
  else
    let (bs, w) := u.fetch o.n 0 w
    let rs := (List.range o.n).map fun i => (leNat (((bs.drop (4 * i)).take 4).map (·.1)), ((bs.drop (4 * i)).take 4).any (·.2))
    let blocks := (List.range (o.n / 32)).map fun k =>
      let g := (es.drop (32 * k)).take 32
      let r := (rs.drop (32 * k)).take 32
      (encodeBlock (g.map (·.1)) (r.map (·.1)), (g ++ r).any (·.2))
    let new : Marked := blocks.flatMap fun q => q.1.2.2.1.flatMap fun v => (leBytes 4 v).map fun c => (c, q.2)
    let w := u.store o.n 0 new { w with rbuf := none, wbuf := none }
    match w.fault with
    | some f => (.error f, s.putWork b p (w0.undo w))
    | none => (.ok (blocks.map fun q => (q.1.1, q.1.2.1, q.2), blocks.foldl (fun a q => fOr a q.1.2.2.2) fNone, w.oob), s.putWork b p w)

/-- REDUCE at issue (07 R231; 12 R358): its SEQ, its local contribution, and the frames that waited for it. -/
def State.startReduce (s : State) (b : BenchId) (p : PartId) (o : ReduceOp) (d : DecOrder) : State :=
  let x := s.bench b
  let bf16 : Bool := o.mode = 0
  let mode := if x.forceExact then 1 else o.mode
  let w64 := if x.forceExact then true else mode = 1 && o.w64
  let w := if bf16 then 16 else 32
  let key := x.logical
  let n := match (s.part p).redSeq.find? fun e => e.1 = key && e.2.1 = o.tree with | some e => e.2.2 | none => 0
  let rest := (s.part p).redSeq.filter fun e => !(e.1 = key && e.2.1 = o.tree)
  let s := s.modPart p fun q => { q with redSeq := (key, o.tree, (n + 1) % 256) :: rest }
  if o.srcRow + packedRows w o.n > shelfRows || o.dstRow + packedRows w o.n > shelfRows then s.orderFault b { code := 0x06 } d
  else if o.n = 0 then s.crossDone b d.seq
  else
    let es := x.packed w o.srcRow o.n
    let c : RedCtx := {
      tree := o.tree, bench := key, seqNo := n, mode := mode, w64 := w64, n := o.n, local_ := es.map (·.1), stain := es.map (·.2)
      bf16 := bf16, dst := o.dstRow, rdesc := o.rdesc, since := s.now, seq := d.seq }
    let t := s.redTree p o.tree
    let start (s : State) (c : RedCtx) (fs : List Frame) : State :=
      let s := (s.modPart p fun q => { q with reds := q.reds ++ [c] }).launchAll (some p) fs
      let s := s.redGo p c
      State.redFeed p (s.part p).redFrames s
    if mode ≠ 2 then
      start s (if mode = 1 then { c with flags := entryFlags (c.local_.map c.val) } else c) []
    else
      match s.encodeOwn b p o es with
      | (.error f, s) => s.orderFault b f d
      | (.ok (blocks, fl, oob), s) =>
        let payloads := (List.range (c.frames 0)).map fun k =>
          let here := (blocks.drop (40 * k)).take 40
          (packBlocks (here.map fun q => (q.1, q.2.1)), List.replicate 4 (here.any (·.2.2)))
        let frames (stage : Nat) (dests : List Nat) : List Frame :=
          payloads.zipIdx.flatMap fun e => dests.map fun q => s.redFrame p c stage q e.2 e.1.1 e.1.2
        let c := { c with flags := fl, oob := oob }
        match t.parent with
        | some q => start s c (frames 0 [q])
        | none =>
          let own : RedStream := {
            from_ := s.coord, stage := 0, fidx := c.frames 0, data := payloads.flatMap (·.1), stain := payloads.flatMap (·.2), lastSeen := true }
          start s (c.putStream own) (frames 1 t.kids)

/-- REDUCE (07 R231): contributes entries to a tree and receives the result. -/
def execReduce (b : BenchId) (o : ReduceOp) (s : State) : Result :=
  .next (s.runCross b (.reduce o) fun s p d => s.startReduce b p o d)

end Sys2Proof.Machine
end

