-- ==== Sys2Proof/Machine/Ports.lean ====
section
/-! DEFINITION. The Dalxel ports (12 R327 to R337, R343, R350): training and identity, probation, lanes, ports
that go down and take over, control blocks, and the choice and the sending of frames. -/

namespace Sys2Proof.Machine

open Sys2Proof

/-! What a port is (03 R79) -/

/-- The module section by which a port trains. -/
def State.trainGeo (s : State) (n : Nat) : ModSection :=
  if roleOf s.geo n ≠ 4 then s.geo else s.loader.staged.getD s.geo

/-- The directions that a spare port detours. -/
def detoured (g : ModSection) (n : Nat) : List Nat := (List.range 6).filter fun d => g.detour.getD d 0x0F = n

def opposite (d : Nat) : Nat := if d % 2 = 0 then d + 1 else d - 1

/-- The identity block that a port sends (R333). -/
def State.identity (s : State) (n : PortId) : IdentBlock :=
  let g := s.trainGeo n.val
  let dir := match dirOfPort g n.val with
    | some d => d
    | none => (detoured g n.val).headD 0x0F
  { port := n.val, role := roleOf g n.val, hwType := 0x5708, coord := coordWord g.coord
    dimX := g.dim.getD 0 1, dimY := g.dim.getD 1 1, dimZ := g.dim.getD 2 1, dir := dir }

/-- Whether an identity block is that of the peer that the module section asks for (R333). -/
def State.identityFits (s : State) (n : PortId) (k : IdentBlock) : Bool :=
  let g := s.trainGeo n.val
  let module_ : Bool := k.hwType = 0x5708
  match roleOf g n.val with
  | 0 =>
    match dirOfPort g n.val with
    | some d => module_ && g.dim = [k.dimX, k.dimY, k.dimZ] && k.coord = neighbour g d && k.dir = opposite d
    | none => false
  | 1 => module_ && (detoured g n.val).any fun d => k.coord = neighbour g d
  | 2 => module_ && k.coord = coordWord (g.ports.getD n.val (4, [])).2
  | 3 => k.hwType = 0
  | _ => false

/-! Credits and control blocks (R330, R343) -/

/-- Cells owed for a transit frame go back to its port; none are owed for a link that has gone down since (R343). -/
def State.payOwed (s : State) (via : Option (PortId × Nat × Bool × Nat)) : State :=
  match via with
  | none => s
  | some (n, o) => if o.2.2 = 0 then s else s.modPort n fun x => { x with owe := x.owe ++ [o] }

/-- The cells owed under the first key of a list, and the rest. -/
def takeOwed (owe : List (Nat × Bool × Nat)) : (Nat × Bool × Bool × Nat) × List (Nat × Bool × Nat) :=
  match owe with
  | [] => ((0, false, false, 0), [])
  | o :: _ =>
    let mine := owe.filter fun e => e.1 = o.1 && e.2.1 = o.2.1
    ((o.1 / 2, o.1 % 2 = 1, o.2.1, (mine.map (·.2.2)).foldl (· + ·) 0), owe.filter fun e => !(e.1 = o.1 && e.2.1 = o.2.1))

/-- A control block leaves: the acknowledgement, a replay that is asked, PROBE_DONE and two credits; in hold no
credit is returned (R365). -/
def State.sendControl (s : State) (n : PortId) : State :=
  let x := s.port n
  let (a, rest) := if s.supply.hold then ((0, false, false, 0), x.owe) else takeOwed x.owe
  let (b, rest) := if s.supply.hold then ((0, false, false, 0), rest) else takeOwed rest
  let blk : ControlBlock := {
    ackValid := x.ackDue, replay := x.replayAsked, probeDone := x.myProbeDone
    ack := (x.rxSeq + 65535) % 65536, replayFrom := if x.replayAsked then x.rxSeq else 0, creditA := a, creditB := b }
  let s := s.modPort n fun x => { x with owe := rest, ackDue := false, sinceCtl := 0 }
  s.emitBlock n (.control blk)

/-- A frame is missing: REPLAY with its LSEQ, once until it comes (R331). -/
def State.askReplay (s : State) (n : PortId) : State :=
  if (s.port n).replayAsked then s
  else (s.modPort n fun x => { x with replayAsked := true, replays := satAdd 32 x.replays 1 }).sendControl n

/-- Whether a control block is due after at most 4 frames: credits or acknowledgements wait (R330); in hold no credit returns
(R365). -/
def State.controlDue (s : State) (n : PortId) : Bool :=
  let x := s.port n
  x.ackDue || (!x.owe.isEmpty && !s.supply.hold)

/-- A frame leaves again, and a control block after it when one is due and 4 frames have gone (R330, R331). -/
def State.sendAgain (s : State) (n : PortId) (e : Nat × Frame) : State :=
  let s := (s.emitFrame n e.1 e.2).modPort n fun x => { x with sinceCtl := x.sinceCtl + 1 }
  if s.controlDue n && 4 ≤ (s.port n).sinceCtl then s.sendControl n else s

/-- The frames from the LSEQ that the far end asked for leave again, in order (R331); not in hold nor while a lane
is swapped. -/
def State.replayNow (s : State) (n : PortId) : State :=
  let x := s.port n
  match x.resend with
  | none => s
  | some q =>
    if s.supply.hold || x.swapping.isSome then s
    else
      let again := x.unacked.filter fun e => (e.1 + 65536 - q) % 65536 < 32768
      again.foldl (fun s e => s.sendAgain n e) (s.modPort n fun x => { x with resend := none })

/-- A credit of a control block: its cells return to the pool it names, and the credit timer of its pair restarts
(R343; 02 R62). -/
def Port.addCredit (x : Port) (now : Nat) (c : Nat × Bool × Bool × Nat) : Port :=
  let pair := 2 * (c.1 % 4) + b2n c.2.1
  let cells := c.2.2.2
  if cells = 0 then x
  else
    let x := { x with creditSince := x.creditSince.set pair now }
    if c.2.2.1 then { x with crShared := min 16112 (x.crShared + cells) }
    else { x with crRes := x.crRes.modify pair fun k => min 34 (k + cells) }

/-- CONTROL_BLOCK (R330): credits, acknowledgements, a replay request and PROBE_DONE. -/
def execControlBlock (n : PortId) (blk : ControlBlock) (s : State) : Result :=
  if s.power ≠ .running || (s.port n).state.toNat < 3 then .next s
  else
    let now := s.now
    let s := s.modPort n fun x =>
      let x := (x.addCredit now blk.creditA).addCredit now blk.creditB
      { x with
        unacked := if blk.ackValid then x.unacked.filter fun e => 32768 ≤ (blk.ack + 65536 - e.1) % 65536 else x.unacked
        peerProbeDone := x.peerProbeDone || blk.probeDone
        resend := if blk.replay then some blk.replayFrom else x.resend }
    .next (s.replayNow n)

/-! Ports that go down (R336, R337) -/

/-- Frames lost at a port. -/
def State.lose (s : State) (n : PortId) (k : Nat) : State :=
  (s.countLostFrames k).modPort n fun x => { x with lostLast := min 1023 (x.lostLast + k) }

/-- A RED frame of one-bit mode in STAGE 0 or 1: its SRC is the origin, not the last hop (R361). -/
def frOneBit (f : Frame) : Bool := f.typ = 0x10 && f.ef / 256 % 4 = 2 && bits f.c 6 4 ≤ 1

/-- The partition whose own traffic a queued frame is: one made here, or a one-bit RED frame that this member passes on; none
for transit and management (R335, R361). -/
def State.frameOwner (s : State) (via : Option (PortId × Nat × Bool × Nat)) (f : Frame) : Option PartId :=
  if f.vc ≠ 3 && via.isNone && (f.src = s.coord || frOneBit f) then some (Fin.ofNat 8 f.part) else none

/-- Where a queued frame goes by the routes as they stand: it keeps REV and CLASS in the dimension it is in. -/
def State.hopAgain (s : State) (via : Option (PortId × Nat × Bool × Nat)) (f : Frame) : Hop :=
  let own := s.frameOwner via f
  let g := match own with | some p => s.routesOf p | none => s.geo
  let arr := (List.range 3).find? fun i => g.coord.getD i 0 ≠ (coordList f.dst).getD i 0
  s.route g own arr f

/-- The frames queued for a port move in order onto the paths that now stand; those that still wait keep their
credit timers (R337, R347). -/
def State.requeue (s : State) (n : PortId) : State :=
  if roleOf s.geo n.val = 3 then s
  else
    let x := s.port n
    let s := s.modPort n fun x => { x with txq := [] }
    let s := x.txq.foldl (fun s e =>
      match s.hopAgain e.1 e.2 with
      | .port m f => s.enqueue m f e.1
      | _ => (s.payOwed e.1).countLostFrames 1) s
    s.modPort n fun y => { y with creditSince := x.creditSince }

/-- A port has begun to serve: frames that wait at ports that are down find it. -/
def State.requeueWaiting (s : State) : State :=
  allPorts.foldl (fun s n => if (s.port n).state.toNat < 4 && !(s.port n).txq.isEmpty then s.requeue n else s) s

/-- Frames that hold cells of a port's link as it goes down hold them no longer: training grants every cell anew
(R343). A transit frame stays one. -/
def State.detachCredits (s : State) (n : PortId) : State :=
  let clear {α : Type} (es : List (Option PortId × α)) : List (Option PortId × α) :=
    es.map fun e => if e.1 = some n then (none, e.2) else e
  { s with
    benches := s.benches.map fun (x : Bench) => { x with rxStore := clear x.rxStore }
    parts := s.parts.map fun (x : Partition) => { x with redFrames := clear x.redFrames }
    cx := { s.cx with heldFrames := clear s.cx.heldFrames }
    ports := s.ports.map fun (x : Port) => { x with txq := x.txq.map fun e =>
      match e.1 with
      | some v => if v.1 = n then (some (v.1, v.2.1, v.2.2.1, 0), e.2) else e
      | none => e } }

/-- The unacknowledged frames of failed ports whose takeover was asked on a spare are lost (R337). -/
def State.takeoverLost (s : State) (spare : PortId) : State :=
  allPorts.foldl (fun s m =>
    match (s.port m).takeover with
    | some (q, _) =>
      if q = spare.val then
        let k := (s.port m).held.length
        (s.modPort m fun x => { x with takeover := none, held := [] }).lose m k
      else s
    | none => s) s

/-- The serving detour spare of the direction of a port. -/
def State.spareOf (s : State) (n : PortId) : Option PortId :=
  let g := s.geo
  match dirOfPort g n.val with
  | some d =>
    let q := g.detour.getD d 0x0F
    if q < 8 && (s.ports.getD q {}).state = 5 then some (Fin.ofNat 8 q) else none
  | none => none

/-- The frames queued at a port are discarded (R365). -/
def State.loseQueued (s : State) (n : PortId) : State :=
  (s.lose n (s.port n).txq.length).modPort n fun y => { y with txq := [] }

/-- A port goes down with its ticket (R336); its frames are taken over, moved or lost as R337 and R365 state. A lane that had
left for recalibration stays good: it is the idle lane again, and the recalibration waits until the port serves (R367). A
port that is down already loses its queue with the reference. -/
def State.portDown (s : State) (n : PortId) (cause : Nat) : State :=
  let x := s.port n
  if x.state.toNat ≤ 1 then if cause = 4 then s.loseQueued n else s
  else
    let now := s.now
    let spare := if cause = 4 then none else s.spareOf n
    let back := match x.swapping with | some (lane, false) => some lane | _ => none
    let s := (s.takeoverLost n).modPort n fun x => { x with
      idleLane := if back.isSome then back else x.idleLane, recalWant := x.recalWant || back.isSome
      state := 1, cause := cause, lostLast := 0, downAt := now, identOk := false, swapping := none, resend := none
      lastAccepted := (x.rxSeq + 65535) % 65536, owe := [], unacked := [], replayAsked := false, ackDue := false
      myProbeDone := false, peerProbeDone := false }
    let s := (s.detachCredits n).raise 0x6 n.val 0x0040 none [(0, .num cause)]
    let s := match spare with
      | some q =>
        let named := match x.peer with | some k => k.2.1 | none => n.val
        let first := match x.unacked with | e :: _ => e.1 | [] => x.txSeq
        let s := s.modPort n fun y => { y with takeover := some (q.val, now), held := x.unacked }
        s.emitBlock q (.takeoverRequest named first)
      | none => s.lose n x.unacked.length
    if cause = 4 then s.loseQueued n else s.requeue n

/-- TAKEOVER_REQUEST (R337): the named port goes down if it is still up, and the last frame it accepted is
answered. -/
def execTakeoverRequest (n failed : PortId) (lseq : Nat) (s : State) : Result :=
  if s.power ≠ .running || (s.port n).state.toNat < 4 || 65536 ≤ lseq then .next s
  else
    let s := s.portDown failed 8
    .next (s.emitBlock n (.takeoverAnswer (s.port failed).lastAccepted))

/-- The failed port whose takeover has waited longest on a spare. -/
def State.takeoverOn (s : State) (n : PortId) : Option (PortId × Nat) :=
  (allPorts.filterMap fun m => match (s.port m).takeover with
    | some (q, t) => if q = n.val then some (m, t) else none
    | none => none).foldl (fun (a : Option (PortId × Nat)) e =>
      match a with | some b => if e.2 < b.2 then some e else a | none => some e) none

/-- TAKEOVER_ANSWER (R337): the unacknowledged frames after the last accepted one leave on the spare, ahead of every
later frame, and the credit timers of their pairs start (02 R62). -/
def execTakeoverAnswer (n : PortId) (lseq : Nat) (s : State) : Result :=
  match s.takeoverOn n with
  | none => .next s
  | some (m, _) =>
    let held := (s.port m).held
    let first := match held with | e :: _ => e.1 | [] => 0
    let left := held.drop ((lseq + 1 + 65536 - first) % 65536)
    let s := s.modPort m fun x => { x with takeover := none, held := [] }
    let now := s.now
    let starts (x : Port) (pair : Nat) : Bool := !(x.txq.any fun g => frPair g.2 = pair) && left.any fun e => frPair e.2 = pair
    .next (s.modPort n fun x => { x with
      creditSince := x.creditSince.zipIdx.map fun c => if starts x c.2 then now else c.1
      txq := left.map (fun e => (none, e.2)) ++ x.txq })

/-- TAKEOVER_TIMEOUT (R337): after 10 µs without an answer the frames are lost. -/
def execTakeoverTimeout (n : PortId) (s : State) : Result :=
  match s.takeoverOn n with
  | some (_, t) => if s.passed t (us 10) then .next (s.takeoverLost n) else .next s
  | none => .next s

/-! Training (R333, R334) -/

/-- Whether a port that is down may train. -/
def State.mayTrain (s : State) (n : PortId) : Bool :=
  let x := s.port n
  s.power = .running && s.portsOn && s.trainRole n.val ≠ 4 && x.state = 1 && !x.disable && !s.time.holdover

/-- Training begins: the link stream starts anew, and the identity block is sent. -/
def State.train (s : State) (n : PortId) : State :=
  let s := s.modPort n fun x => { x with state := 2, trainAt := s.now, identOk := false, stream := { x.stream with pending := [], lane := 0, blocks := List.replicate 8 [] } }
  s.emitBlock n (.identity (s.identity n))

def execPortTrainStart (n : PortId) (s : State) : Result :=
  if s.mayTrain n && (s.port n).cause ≠ 6 then .next (s.train n) else .next s

/-- A port that failed to train tries again after 1 s. -/
def execPortTrainRetry (n : PortId) (s : State) : Result :=
  if s.mayTrain n && (s.port n).cause = 6 && s.passed (s.port n).downAt (sec 1) then .next (s.train n) else .next s

/-- IDENTITY_BLOCK: the peer is accepted, or the port stays down with cause 0x5 and both tickets. -/
def execIdentityBlock (n : PortId) (blk : IdentBlock) (s : State) : Result :=
  if s.power ≠ .running || (s.port n).state ≠ 2 then .next s
  else if s.identityFits n blk then
    .next (s.modPort n fun x => { x with identOk := true, peer := some (blk.coord, blk.port, blk.hwType, blk.role) })
  else .next ((s.raise 0x6 n.val 0x0041).portDown n 5)

/-- A trained link starts with every credit granted and LSEQ 0 (R331, R343). -/
def Port.fresh (x : Port) (now : Nat) : Port :=
  { x with
    txSeq := 0, rxSeq := 0, unacked := [], replayAsked := false, resend := none, crShared := 16112, crRes := List.replicate 8 34
    owe := [], creditSince := List.replicate 8 now, ackDue := false, sinceCtl := 0, probeBits := 0
    myProbeDone := false, peerProbeDone := false }

/-- PORT_TRAIN_DONE: the first training leads to serving, a later one to probation (R334). -/
def execPortTrainDone (n : PortId) (s : State) : Result :=
  let x := s.port n
  if s.power ≠ .running || x.state ≠ 2 || !x.identOk then .next s
  else
    let s := s.modPort n fun x => x.fresh s.now
    if x.everTrained then .next (s.modPort n fun x => { x with state := 3 })
    else
      .next (s.modPort n fun x => { x with
        state := 5, everTrained := true, returned := List.replicate 8 true, transitBack := true }).requeueWaiting

/-- PORT_TRAIN_TIMEOUT: 200 ms pass, and the port stays down with cause 0x6. -/
def execPortTrainTimeout (n : PortId) (s : State) : Result :=
  if s.power ≠ .running || (s.port n).state ≠ 2 || !s.passed (s.port n).trainAt (ms 200) then .next s
  else .next (s.portDown n 6)

/-- PROBATION_DONE (R335): both ends have set PROBE_DONE. A direction or express port is ready, and serves once all
traffic has returned; a spare or a gateway port serves at once. -/
def execProbationDone (n : PortId) (s : State) : Result :=
  let x := s.port n
  if s.power ≠ .running || x.state ≠ 3 || !x.myProbeDone || !x.peerProbeDone then .next s
  else
    let role := roleOf (s.trainGeo n.val) n.val
    if role = 0 || role = 2 then
      let back := allParts.map fun p => !(s.part p).loaded
      .next (s.modPort n fun x => ({ x with state := 4, returned := back, transitBack := false } : Port).settle).requeueWaiting
    else .next (s.modPort n fun x => { x with state := 5 }).requeueWaiting

/-! Lanes (R332) -/

/-- The ticket of a lane swap or failure. -/
def State.laneTicket (s : State) (n : PortId) (lane : Nat) : State := s.raise 0x7 (16 * n.val + lane) 0x0042

/-- The idle lane takes the place of the physical lane that serves a logical one; the port pauses. With no good idle
lane a failure takes the port down. -/
def State.swapLane (s : State) (n : PortId) (i : Nat) (failed : Bool) : State :=
  let x := s.port n
  let lane := x.lanes.getD i 0
  match x.idleLane with
  | some k =>
    (s.modPort n fun x => { x with
      lanes := x.lanes.set i k, idleLane := none, failedLanes := if failed then setInsert x.failedLanes lane else x.failedLanes
      swapping := some (lane, failed) }).laneTicket n lane
  | none =>
    if failed then ((s.modPort n fun x => { x with failedLanes := setInsert x.failedLanes lane }).laneTicket n lane).portDown n 1 else s

/-- The logical lane that a physical one serves. -/
def Port.serves (x : Port) (lane : Nat) : Option Nat := x.lanes.findIdx? (· = lane)

/-- A serving lane fails. -/
def State.laneFails (s : State) (n : PortId) (lane : Nat) : State :=
  if s.power ≠ .running || (s.port n).state.toNat < 3 then s
  else match (s.port n).serves lane with | some i => s.swapLane n i true | none => s

/-- More than 2^20 symbols corrected in 1 s; how many is open. -/
def execLaneFecThreshold (n : PortId) (lane : Nat) (s : State) : Result :=
  if s.power ≠ .running || (s.port n).state.toNat < 3 || ((s.port n).serves lane).isNone then .next s
  else
    let k := 2 ^ 20 + 1 + (Config.freeWord s.freeCtr).toNat
    .next ((s.tick.modPort n fun x => { x with fecCorr := satAdd 32 x.fecCorr k }).laneFails n lane)

/-- A lane loses codeword lock for 1 µs. -/
def execLaneLockLoss (n : PortId) (lane : Nat) (s : State) : Result := .next (s.laneFails n lane)

/-- The logical lane whose physical lane was calibrated longest ago. -/
def Port.oldestLane (x : Port) : Nat :=
  (List.range 8).foldl (fun a i => if x.calAt.getD (x.lanes.getD i 0) 0 < x.calAt.getD (x.lanes.getD a 0) 0 then i else a) 0

/-- The next lane is recalibrated; with no good idle lane that is left out. -/
def State.recalibrate (s : State) (n : PortId) : State :=
  let s := s.modPort n fun x => { x with recalAt := s.now, recalWant := false }
  s.swapLane n (s.port n).oldestLane false

/-- LANE_RECAL_PERIOD: CX_RECAL minutes have passed, or a recalibration waits (R367) and the port serves. -/
def execLaneRecalPeriod (n : PortId) (s : State) : Result :=
  let x := s.port n
  let due : Bool := x.recalWant || (s.cx.recal ≠ 0 && s.passed x.recalAt (sec (60 * s.cx.recal)))
  if s.power ≠ .running || x.state ≠ 5 || !due then .next s else .next (s.recalibrate n)

/-- RECAL_NOW: at once when the port serves; in training, probation and ready it waits (R367). -/
def execRecalNow (n : PortId) (s : State) : Result :=
  let x := s.port n
  if !s.clerkTime || x.state.toNat < 2 then .next s
  else if x.state = 5 then .next (s.recalibrate n)
  else .next (s.modPort n fun x => { x with recalWant := true })

/-- LANE_SWAP_DONE: the port goes on; a lane that left for recalibration is the idle lane. -/
def execLaneSwapDone (n : PortId) (s : State) : Result :=
  match (s.port n).swapping with
  | none => .next s
  | some (lane, failed) =>
    let s := s.modPort n fun x => { x with
      swapping := none, idleLane := if failed then none else some lane, calAt := if failed then x.calAt else x.calAt.set lane s.now }
    .next (s.replayNow n)

/-! Errors on the link (R329, R336) -/

/-- LINK_UNIT_DISCARD: a unit in a codeword that the FEC could not correct, or one that fails its CRC, is discarded and
counted; a discarded frame is asked for again (R331). A unit that is intact is taken by the row of its kind. -/
def execLinkUnitDiscard (n : PortId) (u : LinkUnit) (s : State) : Result :=
  let x := s.port n
  if s.power ≠ .running || x.state.toNat < 3 || (!u.uncorrected && unitIntact u.bytes) then .next s
  else
    let s := s.modPort n fun x =>
      if u.uncorrected then { x with fecUnc := satAdd 32 x.fecUnc 1, probeBits := if x.state = 3 then 0 else x.probeBits }
      else { x with crcFail := satAdd 32 x.crcFail 1 }
    .next (if unitIsFrame u.bytes then s.askReplay n else s)

/-- PORT_UNCORRECTABLE_BURST: more than 64 uncorrectable codewords within 1 ms. -/
def execPortUncorrectableBurst (n : PortId) (codewords : Nat) (s : State) : Result :=
  if s.power ≠ .running || (s.port n).state.toNat < 3 || codewords ≤ 64 then .next s
  else .next ((s.modPort n fun x => { x with fecUnc := satAdd 32 x.fecUnc codewords }).portDown n 2)

/-- PORT_FAR_END_SILENT: the far end has stopped sending. -/
def execPortFarEndSilent (n : PortId) (s : State) : Result :=
  if s.power ≠ .running || (s.port n).state.toNat < 3 then .next s else .next (s.portDown n 8)

/-- PORT_CTL DISABLE (R336, R430). -/
def execPortCtlDisable (n : PortId) (on : Bool) (s : State) : Result :=
  if !s.clerkTime then .next s
  else if on then .next ((s.modPort n fun x => { x with disable := true }).portDown n 7)
  else if (s.port n).retired then .next s.misuse
  else .next (s.modPort n fun x => { x with disable := false })

/-- The crossing-credit timeout in ms (02 R64). -/
def State.creditMs (s : State) : Nat :=
  let ts := allParts.filterMap fun p => if (s.part p).loaded then some (s.part p).hdr.tCreditMs else none
  match ts with
  | [] => 50
  | t :: ts => ts.foldl min t

/-- CROSSING_CREDIT_EXPIRY (02 R62): the port goes down with cause 0x3; frames that wait at a port that is down are
lost (R337). -/
def execCrossingCreditExpiry (n : PortId) (pair : Fin 8) (s : State) : Result :=
  let x := s.port n
  let waits (e : Option (PortId × Nat × Bool × Nat) × Frame) : Bool := frPair e.2 = pair.val
  if s.power ≠ .running || s.supply.hold || !(x.txq.any waits) || !s.passed (x.creditSince.getD pair.val 0) (ms s.creditMs) then .next s
  else if 2 < x.state.toNat then
    let now := s.now
    .next ((s.modPort n fun x => { x with creditSince := x.creditSince.set pair.val now }).portDown n 3)
  else
    let gone := x.txq.filter waits
    let s := gone.foldl (fun s e => s.payOwed e.1) s
    .next ((s.modPort n fun x => { x with txq := x.txq.filter fun e => !waits e }).lose n gone.length)

/-! Sending (R343, R350) -/

/-- One step of the PRBS31 generator, x^31 + x^28 + 1 (R335): its bit, and the register after it. -/
def prbsStep (r : BitVec 31) : Bool × BitVec 31 :=
  let b := r.getLsbD 30 != r.getLsbD 27
  (b, (r <<< 1) ||| (if b then 1#31 else 0#31))

/-- `n` bytes of the sequence, the first bit of each lowest. -/
def prbsBytes : Nat → BitVec 31 → List Byte × BitVec 31
  | 0, r => ([], r)
  | n + 1, r =>
    let (v, r) := (List.range 8).foldl (fun (a : Nat × BitVec 31) i => let (b, r) := prbsStep a.2; (a.1 + b2n b * 2 ^ i, r)) (0, r)
    let (bs, r) := prbsBytes n r
    (BitVec.ofNat 8 v :: bs, r)

/-- Whether a port may send a frame now: it serves, or what the frame belongs to has returned to it. -/
def State.frameMaySend (s : State) (x : Port) (via : Option (PortId × Nat × Bool × Nat)) (f : Frame) : Bool :=
  x.sends (s.frameOwner via f)

/-- Credit for a frame: shared while there is enough, else reserved (R343); true for shared. -/
def Port.creditFor (x : Port) (f : Frame) : Option Bool :=
  if frCells f ≤ x.crShared then some true
  else if frCells f ≤ x.crRes.getD (frPair f) 0 then some false
  else none

/-- The next frame that can leave for a partition, or for none: the first of its (VC, CLASS) pair. -/
def State.sendable (s : State) (n : PortId) (p : Option PartId) : Option Nat :=
  let x := s.port n
  let of (f : Frame) : Option PartId := if frUnpart f then none else some (Fin.ofNat 8 f.part)
  (List.range x.txq.length).find? fun i =>
    let e := x.txq.getD i (none, {})
    let f := e.2
    of f = p && (x.creditFor f).isSome && s.frameMaySend x e.1 f &&
    !((x.txq.take i).any fun e => of e.2 = p && frPair e.2 = frPair f)

/-- Whether a port sends frames at all: no lane swap, no takeover that its later frames wait for, and fewer than
1,024 unacknowledged (R331, R332, R337). -/
def State.linkFree (s : State) (n : PortId) : Bool :=
  let x := s.port n
  3 ≤ x.state.toNat && x.swapping.isNone && x.unacked.length < 1024 && (s.takeoverOn n).isNone

/-- The units after the first that a frame counts against a bucket (R350). -/
def Bucket.more (rec : PartId → Option RegRec) (p : Option PartId) : Nat → Bucket → Bucket
  | 0, b => b
  | n + 1, b => Bucket.more rec p n (b.serve rec (fun q => some q = p) p.isNone).1

/-- A frame takes its credit and its LSEQ and leaves; cells that it held on the way are given back. -/
def State.sendFrame (s : State) (n : PortId) (f : Frame) : State :=
  let x := s.port n
  let shr := (x.creditFor f).getD true
  let f' := { f with shr := shr }
  let s := s.modPort n fun x => { x with
    crShared := if shr then x.crShared - frCells f else x.crShared
    crRes := if shr then x.crRes else x.crRes.modify (frPair f) (· - frCells f)
    txSeq := (x.txSeq + 1) % 65536, unacked := x.unacked ++ [(x.txSeq, f')], txCount := wrapAdd 64 x.txCount 1, sinceCtl := x.sinceCtl + 1 }
  s.emitFrame n x.txSeq f'

/-- The frame at a place of the queue leaves; a transit frame is forwarded with it (R368). -/
def State.transmit (s : State) (n : PortId) (i : Nat) (p : Option PartId) : State :=
  let e := (s.port n).txq.getD i (none, {})
  let rec_ := s.record (0x20 + n.val)
  let s := s.modPort n fun x => { x with txq := removeAt x.txq i, txBucket := x.txBucket.more rec_ p (frUnits e.2 - 1) }
  let s := if e.1.isSome then { s with cx := { s.cx with transit := wrapAdd 64 s.cx.transit 1 } } else s
  (s.sendFrame n e.2).payOwed e.1

/-- A PROBE frame of the sequence leaves (R335); its 256 bytes are four units of the transmit bucket, the first drawn as it
was chosen (R350). -/
def State.sendProbe (s : State) (n : PortId) : State :=
  let x := s.port n
  let f : Frame := { typ := 0x31, vc := 3, plen := 16, src := s.coord, dst := match x.peer with | some k => k.1 | none => 0 }
  if (x.creditFor f).isNone then s
  else
    let (bs, r) := prbsBytes 256 x.prbs
    let rec_ := s.record (0x20 + n.val)
    (s.modPort n fun x => { x with prbs := r, txBucket := x.txBucket.more rec_ none (frUnits f - 1) }).sendFrame n { f with payload := bs }

/-- A port chooses and sends (R350): one frame, and a control block when one is due; an idle unit when it has neither to send
(R330). While a lane is swapped the port pauses. -/
def State.servePort (s : State) (n : PortId) : State :=
  let free := s.linkFree n && !s.supply.hold
  let can (p : Option PartId) : Option Nat := if free then s.sendable n p else none
  let probing : Bool := free && (s.port n).state = 3
  let rec_ := s.record (0x20 + n.val)
  let waits (p : PartId) : Bool := (can (some p)).isSome
  let (bucket, who) := if s.supply.hold then ((s.port n).txBucket, none)
    else (s.port n).txBucket.serve rec_ waits (probing || (can none).isSome)
  let s := s.modPort n fun x => { x with txBucket := bucket }
  let before := (s.port n).txCount
  let s := match who with
    | none => s
    | some p => match can p with
      | some i => s.transmit n i p
      | none => if p.isNone && probing then s.sendProbe n else s
  let x := s.port n
  let sent : Bool := x.txCount ≠ before
  if x.state.toNat < 3 || x.swapping.isSome then s
  else if s.controlDue n && (4 ≤ x.sinceCtl || !sent) then s.sendControl n
  else if sent then s else s.emitIdle n

/-- REGULATOR_SERVE (11 R301): a stack or a port's transmit side chooses its next unit. A receive side counts a frame
as it takes it in (R350), so nothing is left to choose there. -/
def execRegulatorServe (target : Nat) (waiting : List LineRequest) (e : LineEvents) (s : State) : Result :=
  if h : target < 14 then
    let k : StackId := ⟨target, h⟩
    if !s.memTime k then .next s else .next (s.serveStack k waiting e)
  else if s.power ≠ .running || target < 0x20 || 0x28 ≤ target then .next s
  else .next (s.servePort (Fin.ofNat 8 target))

end Sys2Proof.Machine
end

