-- ==== Sys2Proof/Machine/Clerk.lean ====
section
/-! DEFINITION. The clerk cores and what serves them (15 R423 to R426, R430): failed cores and their spares, the
heartbeat, event rings as firmware consumes them, and retire commands. -/

namespace Sys2Proof.Machine

open Sys2Proof

/-! Cores (R423) -/

/-- A core is stopped and marked failed; the lowest-numbered spare starts in its place and the failure route is
signalled, or, with no spare left, the no-spare ticket is raised. -/
def State.failCore (s : State) (c : Nat) : State :=
  let now := s.now
  let h := s.house
  let gone : House := { h with
    active := h.active &&& ~~~(1#32 <<< c), failed := h.failed ||| (1#32 <<< c), reserve := h.reserve.filter fun r => r.1 ≠ c }
  match h.spares with
  | [] => State.raise { s with house := gone } 0x8 c 0x0051
  | q :: qs =>
    let s := State.raise { s with house := gone } 0x8 c 0x0050
    let s := { s with house := { s.house with
      active := s.house.active ||| (1#32 <<< q), spares := qs
      coreStarts := s.house.coreStarts ++ [({ core := q, pc := s.house.entry, a0 := c } : CoreStart)]
      replacedBy := (c, q) :: s.house.replacedBy, beats := s.house.beats.set q now } }
    s.interrupt s.failRoute.1 s.failRoute.2.1

/-- CH_BEAT: the heartbeat watch of the core restarts. -/
def execChBeat (c : CoreId) (s : State) : Result :=
  if !s.clerkTime then .next s
  else .next { s with house := { s.house with beats := s.house.beats.set c.val s.now } }

/-- CH_WDOG TIMEOUT_MS has passed without the core's number. -/
def execClerkHeartbeatTimeout (c : CoreId) (s : State) : Result :=
  let h := s.house
  if !s.coreRuns c || h.wdog = 0 || !s.passed (h.beats.getD c.val 0) (ms h.wdog) then .next s else .next (s.failCore c.val)

/-- The caches of a core report an uncorrectable error. -/
def execClerkCacheUe (c : CoreId) (s : State) : Result :=
  if !s.coreRuns c then .next s else .next (s.failCore c.val)

/-! Event rings (R425) -/

/-- The interrupt of a ring is raised. -/
def State.ringInterrupt (s : State) (p : PartId) : State :=
  (s.modRing p fun r => { r with told := true }).interrupt (s.ring p).hart (s.ring p).level

/-- EVENT_RING_INTERRUPT: a record has waited for 10 µs without an interrupt. -/
def execEventRingInterrupt (p : PartId) (s : State) : Result :=
  let r := s.ring p
  if s.power ≠ .running || r.unread = 0 || r.told || !s.passed r.oldest (us 10) then .next s else .next (s.ringInterrupt p)

/-- ER_TAIL_WRITE: records are consumed; the interrupt is raised again while some remain unread. -/
def execErTailWrite (p : PartId) (v : BitVec 32) (s : State) : Result :=
  if !s.clerkTime then .next s
  else
    let s := s.modRing p fun r => { r with tail := v }
    .next (if (s.ring p).unread = 0 then s else s.ringInterrupt p)

/-! Retire commands (R430) -/

/-- Results of a retire command: 1 done, 2 refused because the unit is in use, 3 refused as a bad designator. -/
abbrev Retired := BitVec 2

/-- A free bench becomes retired. -/
def State.retireBench (s : State) (a c : Nat) : Retired × State :=
  if h : a < 4 ∧ c < 34 then
    let b : BenchId := ⟨⟨a, h.1⟩, ⟨c, h.2⟩⟩
    match (s.bench b).asg with
    | .assigned _ _ _ | .held _ => (2, s)
    | _ => (1, (s.modBench b fun x => { x with asg := .retired }).raise 0x2 (BenchId.unit b) 0x0024)
  else (3, s)

/-- A channel is swapped out, or handled as a failing channel of a stack whose CH16 serves. -/
def State.retireChannel (s : State) (a c : Nat) : Retired × State :=
  if h : a < 14 then (if c ≤ 16 then (1, s.swapChannel ⟨a, h⟩ c) else (3, s)) else (3, s)

/-- A port goes down with cause 0x7 until the next start. -/
def State.retirePort (s : State) (a c : Nat) : Retired × State :=
  if h : a < 8 then
    if c ≠ 0 then (3, s)
    else
      let n : PortId := ⟨a, h⟩
      let s := s.modPort n fun x => { x with disable := true, retired := true }
      if (s.port n).state.toNat ≤ 1 then
        (1, (s.modPort n fun x => { x with cause := 7 }).raise 0x6 a 0x0040 none [(0, .num 7)])
      else (1, s.portDown n 7)
  else (3, s)

/-- A lane is marked failed: swapped where it serves, no longer idle where it was idle. -/
def State.retireLane (s : State) (a c : Nat) : Retired × State :=
  if h : a < 8 then
    if 9 ≤ c then (3, s)
    else
      let n : PortId := ⟨a, h⟩
      let x := s.port n
      match x.serves c with
      | some i =>
        if 3 ≤ x.state.toNat then (1, s.swapLane n i true)
        else
          (1, (s.modPort n fun x => { x with
            lanes := match x.idleLane with | some k => x.lanes.set i k | none => x.lanes
            idleLane := none, failedLanes := setInsert x.failedLanes c }).laneTicket n c)
      | none =>
        (1, (s.modPort n fun x => { x with
          failedLanes := setInsert x.failedLanes c, idleLane := if x.idleLane = some c then none else x.idleLane
          swapping := x.swapping.map fun e => (e.1, e.2 || e.1 = c) }).laneTicket n c)
  else (3, s)

/-- An active core fails; a spare leaves the spare set. -/
def State.retireClerk (s : State) (a c : Nat) : Retired × State :=
  if 32 ≤ a || c ≠ 0 then (3, s)
  else if s.house.active.getLsbD a then (1, s.failCore a)
  else (1, State.raise { s with house := { s.house with spares := s.house.spares.filter (· ≠ a) } } 0x8 a 0x0050)

/-- CH_RETIRE_STATUS takes the result of a retire command. -/
def State.retireDone (r : Retired × State) : State := { r.2 with house := { r.2.house with retireStatus := r.1 } }

/-- A write of CH_RETIRE of class 0x2. -/
def execChRetireBench (a c : Nat) (s : State) : Result :=
  if !s.clerkTime then .next s else .next (State.retireDone (s.retireBench a c))

/-- A write of CH_RETIRE of class 0x5. -/
def execChRetireChannel (a c : Nat) (s : State) : Result :=
  if !s.clerkTime then .next s else .next (State.retireDone (s.retireChannel a c))

/-- A write of CH_RETIRE of class 0x6. -/
def execChRetirePort (a c : Nat) (s : State) : Result :=
  if !s.clerkTime then .next s else .next (State.retireDone (s.retirePort a c))

/-- A write of CH_RETIRE of class 0x7. -/
def execChRetireLane (a c : Nat) (s : State) : Result :=
  if !s.clerkTime then .next s else .next (State.retireDone (s.retireLane a c))

/-- A write of CH_RETIRE of class 0x8. -/
def execChRetireClerk (a c : Nat) (s : State) : Result :=
  if !s.clerkTime then .next s else .next (State.retireDone (s.retireClerk a c))

end Sys2Proof.Machine
end

