-- ==== Sys2Proof/Machine/Rails.lean ====
section
/-! DEFINITION. Supply, rails and heat (16; 02 R50 to R56; 11 R305 to R307): the rail in force on each tile, boost,
stack and junction caps, step rates, dips, caps, entry to hold, and the orderly stops. -/

namespace Sys2Proof.Machine

open Sys2Proof

/-! The rail in force (R446, R447) -/

/-- The guaranteed minimum step rate at a rail voltage, in M steps/s (02 R50, R51). -/
def floorAt (mv : Nat) : Nat :=
  if 900 ≤ mv then 1550 else if 850 ≤ mv then 1450 else if 800 ≤ mv then 1330 else if 750 ≤ mv then 1200
  else if 700 ≤ mv then 1050 else 780

/-- The cap that a tile stack's temperature row demands, none above 0.90 V (11 R305). -/
def rowCap (row : Nat) : Nat := match row with | 0 => 900 | 1 => 750 | 2 => 700 | _ => 600

/-- The highest cap demanded, that is the lowest rail, of the three stacks of a tile (11 R305). -/
def State.stackCap (s : State) (t : TileId) : Nat :=
  (List.range 3).foldl (fun m i => min m (rowCap (s.stackSet.getD (3 * t.val + i) {}).row)) 900

def SupplyCap.mv : SupplyCap → Nat
  | .none => 900
  | .v70 => 700
  | .v60 => 600

/-- The five limits of R446 in its order. -/
def State.railLimits (s : State) (t : TileId) : List Nat :=
  [s.supply.railSet.getD t.val 0, if s.supply.denied.getD t.val false then 850 else 900, s.stackCap t, s.supply.cap.mv,
   s.supply.jcap.getD t.val 900]

/-- The lowest of a list and the first place at which it stands. -/
def lowest : List Nat → Nat × Nat
  | [] => (900, 0)
  | x :: xs => (xs.zipIdx.foldl (fun m e => if e.1 < m.1 then (e.1, e.2 + 1) else m) (x, 0))

/-- The lowest limit and its CAUSE: the first of the list where limits are equal (R446). -/
def State.railTarget (s : State) (t : TileId) : Nat × Nat := lowest (s.railLimits t)

/-- What the boost account of a tile takes from a change of its rail (02 R52). -/
def Supply.boost (x : Supply) (t now old new : Nat) : Supply :=
  if old ≤ 850 && 850 < new then { x with boostSince := x.boostSince.set t (some now) }
  else if 850 < old && new ≤ 850 then
    let past := (x.boostPast.getD t []).filter fun e => now < e.2 + sec 60
    { x with
      boostSince := x.boostSince.set t none
      boostPast := x.boostPast.set t (match x.boostSince.getD t none with | some a => past ++ [(a, now)] | none => past) }
  else x

/-- The rail in force of a tile takes a new value: the hub moves the rail (R447). -/
def State.moveRail (s : State) (t : TileId) (mv : Nat) : State :=
  let x := s.supply
  let old := x.railNow.getD t.val 0
  if old = mv then s
  else
    let from_ := if x.moving.getD t.val false then min old (x.railFrom.getD t.val 0) else old
    { s with supply := Supply.boost { x with
        railNow := x.railNow.set t.val mv, railFrom := x.railFrom.set t.val from_, moving := x.moving.set t.val true
        movedInWindow := x.movedInWindow.set t.val true } t.val s.now old mv }

/-- The rail of a powered tile follows its limits, outside hold (R446, R452). -/
def State.setRail (s : State) (t : TileId) : State :=
  if s.supply.hold || !s.tileIsOn t.val then s else s.moveRail t (s.railTarget t).1

def State.setRails (s : State) : State := allTiles.foldl State.setRail s

/-- The guaranteed minimum of a tile now: of the lower voltage while its rail moves (02 R51). -/
def State.floorOf (s : State) (t : TileId) : Nat :=
  let x := s.supply
  let mv := x.railNow.getD t.val 0
  floorAt (if x.moving.getD t.val false then min mv (x.railFrom.getD t.val 0) else mv)

/-- A write of RAIL_SET_Tt (R447, R453). In hold it is stored, and takes effect at exit (R452). -/
def execRailSetWrite (t : TileId) (v : BitVec 64) (s : State) : Result :=
  let mv := bits v.toNat 9 0
  if s.power ≠ .running then .next s
  else if mv < 600 || 900 < mv || mv % 10 ≠ 0 then .next s.reservedCode
  else .next (State.setRail { s with supply := { s.supply with railSet := s.supply.railSet.set t.val mv } } t)

/-- A moving rail has settled (R447). -/
def execRailSettle (t : TileId) (s : State) : Result :=
  let x := s.supply
  if s.power ≠ .running then .next s
  else .next { s with supply := { x with moving := x.moving.set t.val false, railFrom := x.railFrom.set t.val (x.railNow.getD t.val 0) } }

/-! Boost (02 R52) -/

/-- The time above 0.85 V of a tile in the trailing 60 s. -/
def State.boostTime (s : State) (t : TileId) : Nat :=
  let now := s.now
  let start := now - sec 60
  let span (a b : Nat) : Nat := b - max a start
  ((s.supply.boostPast.getD t.val []).foldl (fun n e => n + span e.1 e.2) 0) +
    (match s.supply.boostSince.getD t.val none with | some a => span a now | none => 0)

def State.deny (s : State) (t : TileId) (on : Bool) : State :=
  State.setRail { s with supply := { s.supply with denied := s.supply.denied.set t.val on } } t

/-- A boost has lasted 10 s, or 15 s of the trailing 60 s: the rail returns to 0.85 V. -/
def execBoostLimit (t : TileId) (s : State) : Result :=
  if s.power ≠ .running then .next s
  else match s.supply.boostSince.getD t.val none with
    | none => .next s
    | some a => if s.passed a (sec 10) || sec 15 ≤ s.boostTime t then .next (s.deny t true) else .next s

/-- The trailing total is below 15 s: a boost is permitted again. -/
def execBoostPermit (t : TileId) (s : State) : Result :=
  if s.power ≠ .running || !s.supply.denied.getD t.val false || sec 15 ≤ s.boostTime t then .next s else .next (s.deny t false)

/-! Step rates (02 R56, R70) -/

/-- One 1 ms window of a tile's step monitor closes: the turns it took are counted. In hold the rate reads zero, and a
window that hold has touched is neither compared nor entered in STEP_MIN (02 R67, R70). -/
def State.closeWindow (s : State) (t : TileId) (steps : Nat) : State :=
  let i := t.val
  let moved := s.supply.movedInWindow.getD i false
  let still := { s.supply with movedInWindow := s.supply.movedInWindow.set i (s.supply.moving.getD i false) }
  let rate := min 65535 (steps / 1000)
  if !s.tileIsOn i then
    { s with time := { s.time with stepRate := s.time.stepRate.set i 0 }, supply := still }
  else if s.supply.heldInWindow then
    { s with supply := still, time := { s.time with
      stepCount := s.time.stepCount.modify i (wrapAdd 64 · steps)
      stepRate := s.time.stepRate.set i (if s.supply.hold then 0 else rate) } }
  else
    let m := s.time
    let short : Bool := steps * 100 < s.floorOf t * 1000 * 98
    let sr := if moved then m.shortRun.getD i 0 else if short then m.shortRun.getD i 0 + 1 else 0
    let gr := if moved then m.goodRun.getD i 0 else if short then 0 else m.goodRun.getD i 0 + 1
    let was := m.shortfall.getD i false
    let is : Bool := if was then gr < 1000 else 10 ≤ sr
    let s := { s with supply := still, time := { m with
      stepCount := m.stepCount.modify i (wrapAdd 64 · steps), stepRate := m.stepRate.set i rate
      stepMin := m.stepMin.modify i (min · rate), shortRun := m.shortRun.set i (min 10 sr), goodRun := m.goodRun.set i (min 1000 gr)
      shortfall := m.shortfall.set i is } }
    if is && !was then s.raise 0x1 i 0x0010 else s

/-- A 1 ms window closes on every tile and on the hub. -/
def execStepRateWindow (steps : List Nat) (hub : Nat) (s : State) : Result :=
  if s.power ≠ .running then .next s
  else
    let s := allTiles.foldl (fun s t => s.closeWindow t (steps.getD t.val 0)) s
    .next { s with supply := { s.supply with heldInWindow := s.supply.hold }, time := { s.time with hubCount := wrapAdd 64 s.time.hubCount hub, hubRate := min 65535 (hub / 1000) } }

/-! Power off -/

/-- A tile is switched off: its stacks lose their contents, zero fill stops, and the benches keep only what the
loaded patterns say of them (R450). -/
def State.tileOff (s : State) (t : TileId) : State :=
  let i := t.val
  let gone (key : Nat) : Bool := key / 2 ^ 33 / 16 / 3 = i
  { s with
    tileOn := s.tileOn.set i false
    cells := s.cells.filter fun c => !gone c.1, lineStain := s.lineStain.filter fun c => !gone c
    caches := s.caches.set i {}
    stackSet := s.stackSet.zipIdx.map fun e => if e.2 / 3 = i then { e.1 with zeroBusy := false } else e.1
    benches := s.benches.zipIdx.map fun e =>
      if e.2 / 34 = i then { asg := e.1.asg, rinsing := e.1.rinsing, snapshot := e.1.snapshot } else e.1
    supply := Supply.boost { s.supply with
      railNow := s.supply.railNow.set i 0, railFrom := s.supply.railFrom.set i 0, moving := s.supply.moving.set i false } i s.now
        (s.supply.railNow.getD i 0) 0
    time := { s.time with stepRate := s.time.stepRate.set i 0, shortfall := s.time.shortfall.set i false } }

/-- A tile is powered: its rail comes up at the rail in force (17 R463). -/
def State.tilePower (s : State) (t : TileId) : State :=
  let mv := (s.railTarget t).1
  { s with
    tileOn := s.tileOn.set t.val true
    supply := Supply.boost { s.supply with railNow := s.supply.railNow.set t.val mv, railFrom := s.supply.railFrom.set t.val mv }
      t.val s.now 0 mv }

/-- Flash bytes that an interrupted program or erase leaves open. -/
def spoil (d : Byte) (n free off : Nat) (m : Mem) : Mem := memWrite d m off ((List.range n).map (Config.flashErrorByte free))

/-- What survives a loss of power and a reset (01 R22; 17 R458): the non-volatile cells and the flash. A flash
command or update copy that it interrupts leaves the bytes it was writing open. -/
def State.survives (s : State) : NonVol :=
  let nv := s.nv
  let nv := match s.start.flBusy with
    | some j => if j.op = 2 || j.op = 3 then { nv with flash := spoil 0xFF (4096 * j.count) s.freeCtr j.offset nv.flash } else nv
    | none => nv
  if s.start.copying then { nv with flash := spoil 0xFF 0x3000000 (s.freeCtr + 1) 0 nv.flash } else nv

/-- Every volatile value is lost; the queue of commands, what has left the module, and the free values drawn stay; a reset
leaves the test access port alone (18 R488). -/
def State.blank (s : State) (power : PowerState) : State :=
  { pending := s.pending, freeCtr := s.freeCtr + 2, power := power, porDone := power ≠ .unpowered && s.porDone, nv := s.survives, supply := { mv := s.supply.mv }
    mgmtOut := s.mgmtOut, linkOut := s.linkOut, framesOut := s.framesOut
    tap := if power = .unpowered then {} else s.tap }

/-- MOD_PWRGD (18 R486): high while the hub rail is up and power-on reset has ended. Between the start of power-on reset
and reset release the moment of that end is free; MOD_RESET_N does not affect the level. -/
def State.modPwrgd (s : State) : Bool :=
  match s.power with
  | .unpowered => false
  | .running => true
  | .inReset => s.porDone || Config.powerOnResetEnded s.freeCtr

/-- The orderly stop: the ticket, then every rail off (R445, R449). -/
def State.orderlyStop (s : State) (cls event : Nat) (detail : List (Nat × Detail)) (heat : Option Int := none) : State :=
  State.blank (s.raise cls 0 event none detail none heat) .unpowered

/-- POWER_ON_RESET: the input has stayed in the operating range for 10 ms (R441). -/
def execPowerOnReset (mv : Nat) (s : State) : Result :=
  if s.power ≠ .unpowered || mv < 40000 || 59500 < mv then .next s
  else .next { s with power := .inReset, supply := { s.supply with mv := mv } }

/-- MOD_RESET: a low level of `lowUs` microseconds on MOD_RESET_N. Between 20 and 100 the pulse may act or not
(17 R456). In reset the level only stays low, which matters to the test access port (18 R489). -/
def execModReset (lowUs : Nat) (acts : Bool) (s : State) : Result :=
  if s.power = .unpowered || lowUs < 20 || (lowUs < 100 && !acts) then .next s
  else if s.power = .inReset then .next { s with resetPin := true }
  else .next { s.blank .inReset with resetPin := true }

/-! Input samples, dips and caps (R440, R442) -/

/-- A sample of the input voltage. -/
def State.sample (s : State) (mv : Nat) : State :=
  let x := s.supply
  { s with supply := { x with
      mv := mv, minMv := min x.minMv mv, lowAt := if mv < 40500 then s.now else x.lowAt
      dipLow := if x.dipSince.isSome then min x.dipLow mv else x.dipLow } }

/-- A dip begins at the first sample below 40.0 V. -/
def execDipStart (mv : Nat) (s : State) : Result :=
  if s.power ≠ .running || 40000 ≤ mv || s.supply.dipSince.isSome then .next s
  else
    let s := s.sample mv
    .next { s with supply := { s.supply with dipSince := some s.now, dipLow := mv, dipActed := false } }

/-- Whether a dip has lasted longer than 1 ms. -/
def State.dipLong (s : State) : Bool :=
  match s.supply.dipSince with
  | some a => s.passed a (ms 1)
  | none => false

/-- A dip has lasted 1 ms with its present sample at or above 30.0 V: a supply cap is set, never a higher one than
already stands. -/
def execSupplyCap (mv : Nat) (s : State) : Result :=
  if s.power ≠ .running || s.supply.hold || s.supply.dipActed || !s.dipLong || mv < 30000 || 40000 ≤ mv then .next s
  else
    let s := s.sample mv
    let x := s.supply
    let cap : SupplyCap := if 36000 ≤ x.dipLow && x.cap ≠ .v60 then .v70 else .v60
    .next (State.setRails { s with supply := { x with cap := cap, dipActed := true, caps := satAdd 16 x.caps 1 } })

/-- The input falls below 36.0 V while a cap of 0.70 V is in force. -/
def execSupplyCapDeepen (mv : Nat) (s : State) : Result :=
  if s.power ≠ .running || s.supply.cap ≠ .v70 || 36000 ≤ mv then .next s
  else
    let s := s.sample mv
    .next (State.setRails { s with supply := { s.supply with cap := .v60 } })

/-- A dip ends; one of at most 1 ms is counted. -/
def execDipEnd (mv : Nat) (s : State) : Result :=
  match s.supply.dipSince with
  | none => .next s
  | some a =>
    if s.power ≠ .running || mv < 40000 then .next s
    else
      let short := s.now ≤ a + ms 1 && !s.supply.dipActed
      let s := s.sample mv
      let x := s.supply
      .next { s with supply := { x with
        dipSince := none, dipLow := 0xFFFF, dipActed := false, lowAt := s.now, dips := satAdd 16 x.dips (b2n short) } }

/-- The input has stayed at or above 40.5 V for 10 ms. -/
def execSupplyCapLift (mv : Nat) (s : State) : Result :=
  let x := s.supply
  if s.power ≠ .running || x.hold || x.cap = .none || x.dipSince.isSome || mv < 40500 || !s.passed x.lowAt (ms 10) then .next s
  else
    let s := s.sample mv
    .next (State.setRails { s with supply := { s.supply with cap := .none } })

/-- The input rises above 59.5 V. -/
def execSurgeStart (mv : Nat) (s : State) : Result :=
  if s.power ≠ .running || mv ≤ 59500 || s.supply.surgeSince.isSome then .next s
  else
    let s := s.sample mv
    .next { s with supply := { s.supply with surgeSince := some s.now, surges := satAdd 16 s.supply.surges 1 } }

/-- The input falls back to 59.5 V or below. -/
def execSurgeEnd (mv : Nat) (s : State) : Result :=
  if s.power ≠ .running || 59500 < mv || s.supply.surgeSince.isNone then .next s
  else
    let s := s.sample mv
    .next { s with supply := { s.supply with surgeSince := none } }

/-- Entry to hold: work pauses where it stands and every stack enters self-refresh (R443; 11 R324). The clerk cores,
ports, timers and the loader read `supply.hold`. -/
def execHoldEnter (mv : Nat) (s : State) : Result :=
  if s.power ≠ .running || s.supply.hold || !s.dipLong || 30000 ≤ mv then .next s
  else
    let s := s.sample mv
    let x := s.supply
    .next { s with
      supply := { x with hold := true, heldInWindow := true, holdSince := s.now, dipActed := true, capDue := !x.dipActed, holds := satAdd 16 x.holds 1 }
      stackSet := s.stackSet.map fun k => { k with selfRefresh := true }
      time := { s.time with stepRate := [0, 0, 0, 0] } }

/-- Hold has lasted 20 ms (R445). -/
def execSupplyLossStop (s : State) : Result :=
  if s.power ≠ .running || !s.supply.hold || !s.passed s.supply.holdSince (ms 20) then .next s
  else .next (s.orderlyStop 0xA 0x0060 [(0, .num 0)])

/-- The input has stayed above 59.5 V for 100 ms (R440, R445). -/
def execOvervoltageStop (s : State) : Result :=
  match s.supply.surgeSince with
  | none => .next s
  | some a =>
    if s.power ≠ .running || !s.passed a (ms 100) then .next s else .next (s.orderlyStop 0xA 0x0060 [(0, .num 1)])

/-! Stack temperature (11 R305 to R307). Temperatures are in 1/16 °C. -/

/-- Thresholds of the rows above the first. -/
def heatLimit (row : Nat) : Int := match row with | 0 => 0 | 1 => 1360 | 2 => 1440 | _ => 1520

/-- The row that a sample reaches. -/
def heatRow (t : Int) : Nat := if 1520 ≤ t then 3 else if 1440 ≤ t then 2 else if 1360 ≤ t then 1 else 0

/-- A temperature sample: for each row, the last time at which it did not read 3 °C below its threshold. -/
def Stack.heat (x : Stack) (now : Nat) (t : Int) : Stack :=
  { x with temp := t, hotAt := x.hotAt.zipIdx.map fun e => if heatLimit (e.2 + 1) - 48 < t then now else e.1 }

/-- The rail of the tile beneath a stack follows its row. -/
def State.railUnder (s : State) (k : StackId) : State :=
  match homeTile k with
  | some t => s.setRail t
  | none => s

/-- A temperature sample of a stack: at the threshold of a higher row the stack enters that row (11 R306). -/
def State.stackSample (s : State) (k : StackId) (temp : Int) : State :=
  let old := (s.stack k).row
  let row := max old (heatRow temp)
  let now := s.now
  let s := (s.modStack k fun x => { x.heat now temp with row := row }).railUnder k
  if row = 3 && old < 3 then s.raise 0x4 k.val 0x0032 else s

/-- A sample reaches a higher row. -/
def execStackHeatEnter (k : StackId) (temp : Int) (s : State) : Result :=
  if s.power ≠ .running || !s.stackOn k then .next s else .next (s.stackSample k temp)

/-- Every sample of 100 ms has read at least 3 °C below the row: the stack leaves it for the highest row that it has
not left. -/
def execStackHeatLeave (k : StackId) (temp : Int) (s : State) : Result :=
  if s.power ≠ .running || !s.stackOn k then .next s
  else
    let now := s.now
    let s := (s.stackSample k temp).modStack k fun x =>
      let stays (r : Nat) : Bool := r = 0 || now < x.hotAt.getD (r - 1) 0 + ms 100
      { x with row := ((List.range (x.row + 1)).reverse.find? stays).getD 0 }
    .next (s.railUnder k)

/-! Tile junctions (R448) and thermal stops (R449, R450) -/

/-- A junction sample moves the junction cap. -/
def execJunctionSample (t : TileId) (temp : Int) (s : State) : Result :=
  let i := t.val
  if s.power ≠ .running || !s.tileIsOn i then .next s
  else
    let x := s.supply
    let cap := x.jcap.getD i 900
    let cool := if temp < 1440 then x.jCool.getD i 0 + 1 else 0
    let cap' := if 1488 ≤ temp then max 600 (cap - 10) else if cool = 10 then min 900 (cap + 10) else cap
    let hot := if 1520 ≤ temp && x.railNow.getD i 0 = 600 then x.jHot.getD i 0 + 1 else 0
    .next (State.setRail { s with supply := { x with
      junction := x.junction.set i temp, jMax := x.jMax.modify i (max · temp), jcap := x.jcap.set i cap'
      jCool := x.jCool.set i (if cool = 10 then 0 else cool), jHot := x.jHot.set i (min 100 hot) } } t)

/-- Whether the junction of a tile has reached a limit that stops it. -/
def State.tileTooHot (s : State) (t : TileId) (temp : Int) : Bool := 1600 ≤ temp || 100 ≤ s.supply.jHot.getD t.val 0

/-- The thermal stop of a tile: by one of its stacks at 105 °C, or by its junction. -/
def execTileThermalStop (t : TileId) (stack : Option StackId) (temp : Int) (s : State) : Result :=
  let due : Bool := match stack with
    | some k => homeTile k = some t && 1680 ≤ temp
    | none => s.tileTooHot t temp
  if s.power ≠ .running || !s.tileIsOn t.val || !due then .next s
  else
    let here := allParts.filter fun p => (s.benchesOf p).any fun b => b.tile = t
    let s := here.foldl (fun s p => s.stopPart p 0 (some 0x0061) (some (0x0061, 1))) s
    .next ((s.raise 0x1 t.val 0x0061 none [] none (some temp)).tileOff t)

/-- The thermal stop of the module: by H0 or H1 at 105 °C, or by the hub junction at 100 °C. -/
def execModuleThermalStop (stack : Option StackId) (temp : Int) (s : State) : Result :=
  let due : Bool := match stack with
    | some k => (homeTile k).isNone && 1680 ≤ temp
    | none => 1600 ≤ temp
  if s.power ≠ .running || !due then .next s else .next (s.orderlyStop 0 0x0061 [] (some temp))

/-! Coolant (R451) -/

/-- The coolant sensor has read above 40 °C for 1 s. -/
def execCoolantHotSet (temp : Int) (s : State) : Result :=
  if s.power ≠ .running || temp ≤ 640 then .next s
  else .next { s with supply := { s.supply with coolant := temp, coolantHot := true } }

/-- It has read 38 °C or less for 10 s. -/
def execCoolantHotClear (temp : Int) (s : State) : Result :=
  if s.power ≠ .running || 608 < temp then .next s
  else .next { s with supply := { s.supply with coolant := temp, coolantHot := false } }

end Sys2Proof.Machine
end

