-- ==== Sys2Proof/Machine/Start.lean ====
section
/-! DEFINITION. Reset release, the ledger, the boot stages, signed images, the boot flash, settings and the life
cycle (17). What answers a management message stands in Mgmt.lean. -/

namespace Sys2Proof.Machine

open Sys2Proof

/-! The boot flash (R466) -/

def bootSlot : Nat := 0
def stagingArea : Nat := 0x3000000
def commitRecord : Nat := 0x5FFF000
def settingsArea : Nat := 0x6000000

def State.flashRead (s : State) (off n : Nat) : List Byte := memRead 0xFF s.nv.flash off n

def State.flashWrite (s : State) (off : Nat) (bs : List Byte) : State :=
  { s with nv := { s.nv with flash := memWrite 0xFF s.nv.flash off bs } }

def State.flashErase (s : State) (off n : Nat) : State := { s with nv := { s.nv with flash := memClear s.nv.flash off n } }

/-- Erases the commit record (R470, R471). -/
def State.dropCommit (s : State) : State := s.flashErase commitRecord 4096

/-- The commit record: the length of the staged image and its FW_MEAS (R470). -/
def State.writeCommit (s : State) (len : Nat) (meas : List Byte) : State := s.dropCommit.flashWrite commitRecord (leBytes 4 len ++ meas)

/-- The length that a commit record names; none where the record is erased. -/
def State.commitLen (s : State) : Option Nat :=
  let n := leNat (s.flashRead commitRecord 4)
  if n = 0xFFFFFFFF then none else some n

/-- Whether a range meets the staging area. -/
def inStaging (off n : Nat) : Bool := off < commitRecord && stagingArea < off + n

/-- A range that FL_CMD PROGRAM and ERASE refuse: it meets the boot slot or the commit record (R466). -/
def flashRefused (off n : Nat) : Bool := off < stagingArea || (off < settingsArea && commitRecord < off + n)

/-! Signed images (R468, R469) -/

/-- The fields of an image header. -/
structure ImageHead where
  bytes : List Byte
  kind : Nat
  key : Nat
  svn : Nat
  format : Nat
  len : Nat
  entry : Nat

def imageHead (h : List Byte) : ImageHead :=
  { bytes := h, kind := byteAt h 6, key := byteAt h 7, svn := byteAt h 8, format := leAt h 0x0A 2, len := leAt h 0x0C 4, entry := leAt h 0x10 8 }

/-- PAYLOAD_LEN has a legal value. -/
def ImageHead.lenOk (h : ImageHead) : Bool := h.len % 4096 = 0 && h.len ≤ 50319360

/-- Header and payload and trailer. -/
def ImageHead.total (h : ImageHead) : Nat := 8192 + h.len

def zeroBytes (bs : List Byte) (i n : Nat) : Bool := ((bs.drop i).take n).all (· == 0)

/-- Whether the life-cycle state accepts a key (R473). -/
def keyAccepted (life : LifeCycle) (key : Nat) : Bool :=
  match life with
  | .void_ => false
  | .field => key = 0
  | _ => key ≤ 1

/-- The ROM's SHA-512 of a key: 0 production, 1 development, 2 return. -/
def romHash (key : Nat) : List Byte := (List.range 64).map (Config.romKeyHash key)

/-- The checks of R469 in their order: 0 where an image passes, else the reason. `read` gives its bytes; `total` is the
length that a commit names. -/
def verifyImage (nv : NonVol) (read : Nat → Nat → List Byte) (total : Option Nat) (kind : Nat) (sha : Option (List Byte)) : Nat :=
  let hb := read 0 4096
  let h := imageHead hb
  let shape := leAt hb 0 4 = 0x57081A6E && zeroBytes hb 9 1 && zeroBytes hb 0x18 0x1E8 && zeroBytes hb 0x400 0xC00 && h.lenOk &&
    h.entry % 4 = 0 && 4096 ≤ h.entry && h.entry < 4096 + h.len && (total.getD h.total == h.total)
  if !shape then 1
  else
    let body := read 0 (4096 + h.len)
    let trailer := read (4096 + h.len) 4096
    let modulus := sliceAt hb 0x200 512
    if !zeroBytes trailer 512 3584 then 1
    else if leAt hb 4 2 ≠ 0x5708 then 2
    else if sha512 modulus != romHash h.key || !keyAccepted nv.life h.key then 3
    else if !pssVerify modulus (trailer.take 512) body then 4
    else if h.svn < nv.arbCount then 5
    else if 64 < h.svn then 6
    else if h.kind ≠ kind then 7
    else match sha with
      | some d => if sha512 (body ++ trailer) != d then 8 else 0
      | none => 0

/-- FW_MEAS of an image: the SHA-512 of the header and the payload. -/
def fwMeasOf (read : Nat → Nat → List Byte) : List Byte := sha512 (read 0 (4096 + (imageHead (read 0 4096)).len))

/-- The verification ticket (R469). -/
def State.imageTicket (s : State) (reason : Nat) : State := s.raise 0 0 0x0070 none [(0, .num reason)]

/-- An image runs: the values that LC_STATE, tickets and reports show. -/
def State.imageRuns (s : State) (read : Nat → Nat → List Byte) : State :=
  let h := imageHead (read 0 4096)
  { s with start := { s.start with imageRuns := true, imageSvn := h.svn, devKey := h.key = 1, fwMeas := fwMeasOf read } }

/-- The base of H0 (01 R33). -/
def h0Base : Nat := 0x18000000000

/-- The bytes of H0 as a start reads them. -/
def State.h0 (s : State) (off n : Nat) : List Byte := (s.hubRead (h0Base + off) n).1

/-! The start-failed state (R461) -/

/-- The module enters the start-failed state; the ticket names the stage reached. -/
def State.startFail (s : State) : State :=
  let s := allParts.foldl (fun s p => s.stopPart p 0 (some 0x0072) none) s
  let s := { s with start := { s.start with failed := true, copying := false }, house := { s.house with active := 0 } }
  let s := allTiles.foldl State.tileOff s
  s.raise 0 0 0x0072 none [(1, .num s.start.stage)]

/-! Network boot (R464) -/

/-- A BOOT_REQ to the manager. -/
def State.sendBootReq (s : State) (off len : Nat) : State :=
  match s.house.mgr with
  | none => s
  | some m => s.sendMsg m (cborMap [(0, cborUint 0x32), (1, cborUint 0), (3, cborUint s.now), (4, cborUint off), (5, cborUint len)])

/-- The end of what may be asked for now: the header, then the whole image. -/
def House.bootLimit (h : House) : Nat := h.bootTotal.getD 4096

/-- Requests go out in increasing offset while fewer than 16 wait for an answer. -/
def State.bootMore : Nat → State → State
  | 0, s => s
  | n + 1, s =>
    let h := s.house
    if h.mgr.isNone || 16 ≤ h.bootReqs.length || h.bootLimit ≤ h.bootNext then s
    else
      let len := min 3584 (h.bootLimit - h.bootNext)
      let s := s.sendBootReq h.bootNext len
      State.bootMore n { s with house := { s.house with
        bootReqs := s.house.bootReqs ++ [(h.bootNext, len, s.now)], bootNext := h.bootNext + len } }

/-- Whether a network or Dalxel boot fetches its image now: in stage 1, after the rinse of a start in RETURN. -/
def State.fetching (s : State) : Bool :=
  s.start.stage = 1 && !s.start.failed && (s.start.bootSrc == 1 || s.start.bootSrc == 2) && (s.nv.life ≠ .return_ || s.start.debugOpen)

def State.bootFetch (s : State) : State := if s.fetching then State.bootMore 16 s else s

/-- A piece that answers an outstanding request lands in H0; once the header is whole the image's length is known. -/
def State.bootPiece (s : State) (off : Nat) (data : List Byte) : State :=
  if !s.fetching || !(s.house.bootReqs.any fun r => r.1 = off && r.2.1 = data.length) then s
  else
    let s := match s.mem.writeFrom (h0Base + off) data false Origin.hub with
      | some m => s.setMem m
      | none => s
    let s := { s with house := { s.house with bootReqs := s.house.bootReqs.filter fun r => r.1 ≠ off } }
    let s := if s.house.bootTotal.isNone && s.house.bootReqs.isEmpty && 4096 ≤ s.house.bootNext then
        let h := imageHead (s.h0 0 4096)
        { s with house := { s.house with bootTotal := some (if h.lenOk then h.total else 4096) } }
      else s
    s.bootFetch

/-- The whole image has arrived. -/
def State.fetched (s : State) : Bool :=
  match s.house.bootTotal with
  | some t => s.house.bootReqs.isEmpty && t ≤ s.house.bootNext
  | none => false

/-- BOOT_REQ_RESEND: requests that no BOOT_DATA has answered for 100 ms. -/
def execBootReqResend (s : State) : Result :=
  if s.power ≠ .running || !s.fetching then .next s
  else
    let due := s.house.bootReqs.filter fun r => s.passed r.2.2 (ms 100)
    let s := due.foldl (fun s r => s.sendBootReq r.1 r.2.1) s
    let now := s.now
    .next { s with house := { s.house with
      bootReqs := s.house.bootReqs.map fun r => if due.contains r then (r.1, r.2.1, now) else r } }

/-! Settings (R467) -/

/-- The records of the settings area: ID and value. -/
def settingsRecords : Nat → List Byte → List (Nat × List Byte)
  | 0, _ => []
  | n + 1, bs =>
    if bs.length < 4 then []
    else
      let len := leAt bs 2 2
      (leAt bs 0 2, (bs.drop 4).take len) :: settingsRecords n (bs.drop (4 + roundUp len 4))

/-- FORMAT and records of a readable settings area. -/
def State.settings (s : State) : Option (Nat × List (Nat × List Byte)) :=
  let h := s.flashRead settingsArea 16
  let len := leAt h 8 4
  if leAt h 0 4 ≠ 0x57085E77 || 0x100000 < 16 + len then none
  else
    let recs := s.flashRead (settingsArea + 16) len
    if crc32c recs ≠ leAt h 12 4 then none else some (leAt h 4 2, settingsRecords len recs)

def settingsBytes (format : Nat) (rs : List (Nat × List Byte)) : List Byte :=
  let recs := rs.flatMap fun r => leBytes 2 r.1 ++ leBytes 2 r.2.length ++ sliceAt r.2 0 (roundUp r.2.length 4)
  leBytes 4 0x57085E77 ++ leBytes 2 format ++ [0, 0] ++ leBytes 4 recs.length ++ leBytes 4 (crc32c recs) ++ recs

/-- The ROM rewrites settings of another FORMAT, or unreadable ones, and tickets what it dropped. -/
def State.checkSettings (s : State) (format : Nat) : State :=
  let rewrite (s : State) (rs : List (Nat × List Byte)) : State :=
    (s.flashErase settingsArea 0x100000).flashWrite settingsArea (settingsBytes format rs)
  match s.settings with
  | none => (rewrite s []).raise 0 0 0x0071 none [(0, .arr []), (1, .num 2)]
  | some (f, rs) =>
    if f = format then s
    else
      (rewrite s (rs.filter fun r => r.1 < 0x100)).raise 0 0 0x0071 none
        [(0, .arr ((rs.map (·.1)).filter (0x100 ≤ ·))), (1, .num (if f < format then 0 else 1))]

/-! The geometry record of a Dalxel boot (R464) -/

/-- The KIND 0x01 stream with PART_MASK 0x00 around a module-section record (03 R75 to R79). -/
def geometryStream (rcd : List Byte) : List Byte :=
  let sect (typ len : Nat) : List Byte := leBytes 1 typ ++ [0xFF, 0, 0] ++ leBytes 4 len ++ leBytes 4 1 ++ leBytes 4 0
  let body := leBytes 4 0x5708FA77 ++ leBytes 2 1 ++ leBytes 2 0x5708 ++ leBytes 4 256 ++ [1, 0] ++ List.replicate 50 0 ++
    sect 0x01 128 ++ sliceAt rcd 0 64 ++ List.replicate 48 0 ++ sect 0xFF 64
  body ++ leBytes 4 (crc32c body) ++ List.replicate 44 0

/-- The ROM submits the geometry record; a missing or rejected one fails stage 1. -/
def State.submitGeometry (s : State) : State :=
  match (s.settings.map (·.2)).bind fun rs => rs.find? fun r => r.1 = 1 && r.2.length = 64 with
  | none => s.startFail
  | some r =>
    let s := { s with loader := { s.loader with cmdAt := s.now } }
    match s.validate (geometryStream r.2) 256 with
    | .error e => (s.finishLoad 2 e).startFail
    | .ok img => s.applyLoad img

/-! Reset release and the stages (R457 to R463) -/

/-- The action of R459 at reset release: recovery mode, or one more attempt counted. -/
def State.ledgerCheck (s : State) : State :=
  let n := s.nv.ledger
  if s.nv.life = .void_ then s
  else if s.start.bootSrc == 3 || 3 ≤ n then { s with start := { s.start with recovery := true } }
  else
    let s := if 1 ≤ n then s.raise 0 0 0x0072 none [(0, .num n)] else s
    { s with nv := { s.nv with ledger := min 15 (n + 1) } }

/-- RESET_RELEASE: straps are sampled, module time starts at 0, addresses are drawn (15 R428), the ledger acts and
stage 0 runs on `core`, the lowest-numbered clerk core that passes its check. A RETURN burnt before takes effect now (R474). -/
def execResetRelease (straps : Straps) (core : CoreId) (s : State) : Result :=
  if s.power ≠ .inReset then .next s
  else
    let n := s.freeCtr
    let s := { s with
      power := .running, porDone := true, resetPin := false, freeCtr := n + 1
      nv := { s.nv with life := s.nv.nextLife.getD s.nv.life, nextLife := none }
      time := { s.time with clkMode := straps.clkMode }
      start := { s.start with bootSrc := straps.bootSrc }
      house := { s.house with active := 1#32 <<< core.val, mac := Config.macAddr n, iid := Config.interfaceId n } }
    let s := if straps.clkMode = 3 then s.raise 0 0 0x0003 else s
    .next s.ledgerCheck

/-- A commit record is standing: the staged image is verified, and copied when it passes (R471). -/
def State.findUpdate (s : State) : State :=
  match s.commitLen with
  | none => s
  | some n =>
    let r := verifyImage s.nv (fun i k => s.flashRead (stagingArea + i) k) (some n) 1 none
    if r = 0 then { s with start := { s.start with copying := true } } else s.dropCommit.imageTicket r

/-- Stage 1 begins: the tiles are powered, a pending update is found and checked, and a Dalxel boot submits its
geometry (R463, R464, R471). -/
def State.enterStage1 (s : State) : State :=
  let s := { s with start := { s.start with stage := 1, stageAt := s.now } }
  let s := allTiles.foldl State.tilePower s
  let s := if s.start.sfdpOk then s.findUpdate else s
  let src := s.start.bootSrc
  if src == 0 && !s.start.sfdpOk then s.startFail
  else if src == 2 then (if 2 ≤ s.time.clkMode.toNat then s.startFail else s.submitGeometry.bootFetch)
  else s.bootFetch

/-- HUB_SELF_TEST_DONE: stage 0 ends. H0 and H1 take interleave 0b01, locked; FL_INFO takes what SFDP says (R463,
R466). -/
def execHubSelfTestDone (pass sfdp : Bool) (sizeMib : Nat) (s : State) : Result :=
  if !s.clerkTime || s.start.stage ≠ 0 || s.start.failed || (s.stack 12).lock then .next s
  else if !pass then .next s.startFail
  else
    let lock (x : Stack) : Stack := { x with mode := 1, lock := true }
    let s := (s.modStack 12 lock).modStack 13 lock
    let s := { s with start := { s.start with flSizeMib := sizeMib % 65536, sfdpOk := sfdp && 128 ≤ sizeMib } }
    if s.nv.life = .void_ then .next { s with start := { s.start with failed := true }, house := { s.house with active := 0 } }
    else if s.start.recovery then .next s
    else .next s.enterStage1

/-- UPDATE_COPY_DONE: the boot slot holds the staged image, verifies, and the commit record is erased (R471). -/
def execUpdateCopyDone (s : State) : Result :=
  if !s.clerkTime || !s.start.copying then .next s
  else
    let n := s.commitLen.getD 0
    let s := s.flashWrite bootSlot (s.flashRead stagingArea n)
    let s := { s with start := { s.start with copying := false } }
    match verifyImage s.nv (fun i k => s.flashRead (bootSlot + i) k) none 1 none with
    | 0 => .next s.dropCommit
    | r => .next (s.dropCommit.imageTicket r)

/-- The physical address of the running image's ENTRY: its header lies at offset 0 of H0 (R464, R468). -/
def State.imageEntry (s : State) : Nat := h0Base + (imageHead (s.h0 0 4096)).entry

/-- Stage 2 begins: the clerk cores C00 to C27 start in M-mode at ENTRY, with a0 holding mhartid (R463). -/
def State.enterStage2 (s : State) : State :=
  { s with
    start := { s.start with stage := 2, stageAt := s.now }
    house := { s.house with
      active := 0x0FFFFFFF, beats := List.replicate 32 s.now
      coreStarts := s.house.coreStarts ++ (List.range 28).map fun c => { core := c, pc := s.imageEntry, a0 := c } } }

/-- BOOT_IMAGE_VERIFY: the image of the source that BOOT_SRC names is in H0 and is verified (R464, R469). -/
def execBootImageVerify (s : State) : Result :=
  let local_ := s.start.bootSrc == 0
  if !s.clerkTime || s.start.stage ≠ 1 || s.start.failed || s.start.copying || (s.nv.life = .return_ && !s.start.debugOpen) ||
      (!local_ && !s.fetched) then .next s
  else
    let s := if local_ then
        let h := imageHead (s.flashRead bootSlot 4096)
        s.hubWrite h0Base (s.flashRead bootSlot (if h.lenOk then h.total else 4096))
      else s
    let read := s.h0
    match verifyImage s.nv read none 1 none with
    | 0 => .next (((s.checkSettings (imageHead (read 0 4096)).format).imageRuns read).enterStage2)
    | r => .next (s.imageTicket r).startFail

/-- START_SELFTEST_DONE: benches that passed read free; those of an unpowered tile stay retired (R463, R478; 01
R40). -/
def execStartSelftestDone (results : List TestOutcome) (s : State) : Result :=
  if !s.clerkTime || s.start.stage = 0 || s.start.failed || s.start.recovery || s.start.selftestDone then .next s
  else
    let s := allBenches.foldl (fun s b =>
      if !s.tileIsOn b.tile.val then s
      else
        let r := results.getD b.idx (.fail 0)
        let s := s.modBench b (·.tested r)
        if TestOutcome.passes r then s else s.raise 0x2 (BenchId.unit b) 0x0024) s
    .next { s with start := { s.start with selftestDone := true } }

/-- RETURN_RINSE_DONE: every stack, bench and tile cache holds zeros, and the debug chains open, but for those of a tile
that failed to power (R475). -/
def execReturnRinseDone (s : State) : Result :=
  if !s.clerkTime || s.start.stage ≠ 1 || s.start.failed || s.nv.life ≠ .return_ || s.start.debugOpen then .next s
  else
    let s := { s with
      cells := [], lineStain := [], benches := s.benches.map Bench.rinse
      caches := s.caches.map fun (c : TileCache) => { c with lines := [], stageLines := [] }
      clerkLines := [], clerkFlush := [], start := { s.start with debugOpen := true, debugTiles := s.tileOn } }
    .next s.bootFetch

/-- BOOT_STAGE_EXPIRY (R461, R462): no stage timer runs in recovery mode or after the declaration. -/
def execBootStageExpiry (s : State) : Result :=
  let x := s.start
  if s.power ≠ .running || x.recovery || x.failed || x.done || s.nv.life = .void_ || !s.passed x.stageAt (sec 30) then .next s
  else .next s.startFail

/-- START_COMPLETION_EXPIRY (R461, R462). -/
def execStartCompletionExpiry (s : State) : Result :=
  let x := s.start
  if s.power ≠ .running || x.recovery || x.failed || x.done || s.nv.life = .void_ || !s.passed 0 (sec 600) then .next s
  else .next s.startFail

/-- Firmware or a recovery image runs. -/
def State.fwRuns (s : State) : Bool := s.clerkTime && s.start.imageRuns && s.house.active ≠ 0

/-- START_CTL STAGE (R462, R465): only to a higher stage. -/
def execStartCtlStage (n : Nat) (s : State) : Result :=
  if !s.clerkTime then .next s
  else if s.start.stage < 2 || n ≤ s.start.stage || 15 < n then .next s.reservedCode
  else .next { s with start := { s.start with stage := n, stageAt := s.now } }

/-- START_CTL DONE (R460, R462). -/
def execStartCtlDone (s : State) : Result :=
  if !s.clerkTime then .next s
  else if s.start.stage < 2 || (s.start.recovery && !s.start.imageRuns) then .next s.reservedCode
  else if s.start.done then .next s
  else .next { s with start := { s.start with done := true, clearPending := true, doneAt := s.now } }

/-- LEDGER_CLEAR: COUNT clears 60 s after the declaration, and the anti-rollback count takes the running image's SVN
(R460, R472), not in recovery mode (R465). -/
def execLedgerClear (s : State) : Result :=
  if s.power ≠ .running || !s.start.clearPending || !s.passed s.start.doneAt (sec 60) then .next s
  else .next { s with
    start := { s.start with clearPending := false }
    nv := { s.nv with ledger := 0, arbCount := if s.start.recovery then s.nv.arbCount else max s.nv.arbCount s.start.imageSvn } }

/-! The life cycle (R473 to R475) -/

/-- DEBUG_OPEN: the internal debug chains are open (R473). -/
def State.debugIsOpen (s : State) : Bool :=
  match s.nv.life with
  | .maker => true
  | .return_ => s.start.debugOpen
  | _ => false

/-- The chains of a tile are open: in RETURN only where its rinse ran in this start (R475). -/
def State.chainsOpen (s : State) (t : TileId) : Bool := s.debugIsOpen && (s.nv.life = .maker || s.start.debugTiles.getD t.val false)

def confirmWord : BitVec 32 := 0x57085708

def State.lcResult (s : State) (r : BitVec 3) : State := { s with start := { s.start with lcResult := r } }

/-- A partition is loaded or the loader is busy (R478). -/
def State.loaderHolds (s : State) : Bool := s.loader.busy || s.parts.any (·.loaded)

/-- LC_CMD NONCE. -/
def execLcNonce (confirm : BitVec 32) (s : State) : Result :=
  if !s.clerkTime then .next s
  else if confirm ≠ confirmWord then .next (s.lcResult 3)
  else if s.nv.life = .void_ then .next (s.lcResult 2)
  else
    let s := State.lcResult { s with start := { s.start with nonce := some ((List.range 32).map (Config.nonceByte s.freeCtr)) } } 1
    .next s.tick

/-- LC_CMD FIELD: the chains close at once. -/
def execLcField (confirm : BitVec 32) (s : State) : Result :=
  if !s.clerkTime then .next s
  else if confirm ≠ confirmWord then .next (s.lcResult 3)
  else if s.nv.life ≠ .maker then .next (s.lcResult 2)
  else if s.loaderHolds then .next (s.lcResult 4)
  else .next (State.lcResult { s with nv := { s.nv with life := .field } } 1)

/-- A valid return authorization (R475). -/
def authValid (a nonce : List Byte) : Bool :=
  let modulus := sliceAt a 0x240 512
  leAt a 0 4 = 0x57080A07 && leAt a 4 2 = 0x5708 && zeroBytes a 6 2 && (sliceAt a 8 32 == nonce) && zeroBytes a 0x28 0x18 &&
  (sha512 modulus == romHash 2) && pssVerify modulus (sliceAt a 0x40 512) (a.take 0x40)

/-- A transition that halts the clerk cores is done. -/
def State.lcDone (s : State) (nv : NonVol) : State := State.lcResult { s with nv := nv, start := { s.start with haltAt := some s.now } } 1

/-- LC_CMD RETURN: the nonce is consumed; the transition takes effect at the next start. -/
def execLcReturn (confirm : BitVec 32) (s : State) : Result :=
  if !s.clerkTime then .next s
  else if confirm ≠ confirmWord then .next (s.lcResult 3)
  else
    let nonce := s.start.nonce
    let s := { s with start := { s.start with nonce := none } }
    if s.nv.life ≠ .field then .next (s.lcResult 2)
    else if s.loaderHolds then .next (s.lcResult 4)
    else match nonce with
      | none => .next (s.lcResult 6)
      | some n =>
        let (a, s) := s.hubRead s.start.lcAuth 1088
        if authValid a n then .next (s.lcDone { s.nv with nextLife := some .return_ }) else .next (s.lcResult 5)

/-- LC_CMD VOID: final at once (R477). -/
def execLcVoid (confirm : BitVec 32) (s : State) : Result :=
  if !s.clerkTime then .next s
  else if confirm ≠ confirmWord then .next (s.lcResult 3)
  else if s.nv.life = .void_ then .next (s.lcResult 2)
  else if s.loaderHolds then .next (s.lcResult 4)
  else .next (s.lcDone { s.nv with life := .void_, nextLife := none })

/-- CLERK_CORES_HALT: 1 ms after LC_RESULT reads done (R474). -/
def execClerkCoresHalt (s : State) : Result :=
  match s.start.haltAt with
  | none => .next s
  | some t =>
    if s.power ≠ .running || !s.passed t (ms 1) then .next s else .next { s with house := { s.house with active := 0 } }

/-! Flash commands (R466, R470, R479) -/

/-- Starts a flash command, unless one runs, its COUNT is reserved, or it touches a refused region. -/
def State.flashCmd (s : State) (op count : Nat) : State :=
  let x := s.start
  if x.flBusy.isSome then s.misuse
  else if count = 0 || 65535 < count then s.reservedCode
  else if (op = 2 || op = 3) && flashRefused x.flAddr (4096 * count) then { s with start := { x with flResult := 2 } }
  else { s with start := { x with flBusy := some { op := op, count := count, offset := x.flAddr, buf := x.flBuf } } }

/-- FL_CMD READ. -/
def execFlRead (count : Nat) (s : State) : Result := if !s.clerkTime then .next s else .next (s.flashCmd 1 count)

/-- FL_CMD PROGRAM. -/
def execFlProgram (count : Nat) (s : State) : Result := if !s.clerkTime then .next s else .next (s.flashCmd 2 count)

/-- FL_CMD ERASE. -/
def execFlErase (count : Nat) (s : State) : Result := if !s.clerkTime then .next s else .next (s.flashCmd 3 count)

/-- FL_CMD COMMIT. -/
def execFlCommit (count : Nat) (s : State) : Result := if !s.clerkTime then .next s else .next (s.flashCmd 4 count)

/-- Checks the staged bytes and writes the commit record; on failure the record is erased and the reason ticketed
(R470). Answers the reason, 0 on success. -/
def State.commit (s : State) (len : Nat) (sha : Option (List Byte)) : Nat × State :=
  let read (i k : Nat) : List Byte := s.flashRead (stagingArea + i) k
  match verifyImage s.nv read (some len) 1 sha with
  | 0 => (0, s.writeCommit len (fwMeasOf read))
  | r => (r, s.dropCommit.imageTicket r)

/-- What a flash command does when it ends well, with its RESULT. -/
def State.flashDone (s : State) (j : FlashJob) : BitVec 3 × State :=
  let n := 4096 * j.count
  let touched (s : State) : State := if inStaging j.offset n then s.dropCommit else s
  match j.op with
  | 1 => (1, s.hubWrite j.buf (s.flashRead j.offset n))
  | 2 =>
    let (d, s) := s.hubRead j.buf n
    (1, (touched s).flashWrite j.offset d)
  | 3 => (1, (touched s).flashErase j.offset n)
  | _ =>
    let (r, s) := s.commit n none
    (if r = 0 then 1 else 3, s)

/-- A flash error: what the command was writing is open. -/
def State.flashBad (s : State) (j : FlashJob) : State :=
  let n := 4096 * j.count
  let open_ := (List.range n).map (Config.flashErrorByte s.freeCtr)
  let s := s.tick
  match j.op with
  | 1 => s.hubWrite j.buf open_
  | 2 | 3 => (if inStaging j.offset n then s.dropCommit else s).flashWrite j.offset open_
  | _ => s.dropCommit

/-- A flash command ends: FL_STATUS takes its result, a flash error where the flash or the range fails. -/
def State.flashEnd (s : State) (flashOk : Bool) : State :=
  match s.start.flBusy with
  | none => s
  | some j =>
    let ok := flashOk && s.start.sfdpOk && j.offset + 4096 * j.count ≤ s.start.flSizeMib * 2 ^ 20
    let (r, s) := if ok then s.flashDone j else (4, s.flashBad j)
    { s with start := { s.start with flBusy := none, flResult := r } }

end Sys2Proof.Machine
end

