-- ==== Sys2Proof/Machine/Mgmt.lean ====
section
/-! DEFINITION. The management protocol (15 R431 to R437): commands and their replies, messages between member
modules, relay by a neighbour, tickets under acknowledgement, HELLO, and the sideband sensors (15 R438, R439). -/

namespace Sys2Proof.Machine

open Sys2Proof

/-! Sensors (R438, R439) -/

/-- MOD_POWER (01 R40). -/
def State.modPower (s : State) : Nat :=
  b2n (s.tileIsOn 0) + 2 * b2n (s.tileIsOn 1) + 4 * b2n (s.tileIsOn 2) + 8 * b2n (s.tileIsOn 3) + 16 * b2n s.start.recovery +
    32 * b2n s.supply.hold

/-- The listed command codes. -/
def sensorCodes : List Nat :=
  [1, 2, 3, 4, 5, 6, 7, 8, 9] ++ (List.range 4).map (0x10 + ·) ++ (List.range 14).map (0x20 + ·) ++ (List.range 5).map (0x30 + ·)

def noSensor : BitVec 16 := 0x8000

def tempWord (t : Int) : BitVec 16 := BitVec.ofInt 16 t

/-- The hottest of some temperatures; 0x8000 where there is none. -/
def hottest (ts : List Int) : BitVec 16 :=
  match ts with
  | [] => noSensor
  | t :: ts => tempWord (ts.foldl max t)

/-- One sensor value of a renewal. -/
def State.sensorOf (s : State) (v : Measured) (code : Nat) : BitVec 16 :=
  let on (t : Nat) : Bool := s.tileIsOn t
  let j (t : Nat) : Int := s.supply.junction.getD t 0
  let st (k : Nat) : Int := v.stackTemp.getD k 0
  let tiles := (List.range 4).filter on
  match code with
  | 0x01 => BitVec.ofNat 16 v.mv
  | 0x02 => BitVec.ofNat 16 v.current
  | 0x03 => BitVec.ofNat 16 (v.mv * v.current / 100000)
  | 0x04 => hottest (tiles.map j)
  | 0x05 => hottest (tiles.flatMap fun t => [st (3 * t), st (3 * t + 1), st (3 * t + 2)])
  | 0x06 => hottest [st 12, st 13]
  | 0x07 => tempWord v.hubJunction
  | 0x08 => tempWord v.coolant
  | 0x09 =>
    let each (f : Nat → Bool) : Nat := ((List.range 4).map fun t => b2n (f t) * 2 ^ t).foldl (· + ·) 0
    BitVec.ofNat 16 (b2n s.supply.hold + 2 * b2n s.start.recovery + 4 * each on + 64 * each (fun t => s.time.shortfall.getD t false) +
      1024 * each fun t => on t && (allTiles.any fun x => x.val = t && s.stackCap x < 900))
  | 0x34 => BitVec.ofNat 16 v.hubRailMv
  | c =>
    if 0x10 ≤ c && c < 0x14 then (if on (c - 0x10) then tempWord (j (c - 0x10)) else noSensor)
    else if 0x20 ≤ c && c < 0x2E then (if 0x2C ≤ c || on ((c - 0x20) / 3) then tempWord (st (c - 0x20)) else noSensor)
    else if 0x30 ≤ c && c < 0x34 then (if on (c - 0x30) then BitVec.ofNat 16 (v.tileRailMv.getD (c - 0x30) 0) else noSensor)
    else noSensor

/-- The value of a sensor since its last renewal. -/
def State.sensor (s : State) (code : Nat) : BitVec 16 :=
  match s.sensors.find? fun e => e.1 = code with
  | some e => e.2
  | none => Config.sensorBefore code

/-- SENSOR_RENEW: every value is renewed from one set of measurements. -/
def execSensorRenew (v : Measured) (s : State) : Result :=
  if s.power ≠ .running then .next s
  else
    let s := s.sample v.mv
    let s := { s with supply := { s.supply with current := v.current, hubJunction := v.hubJunction, coolant := v.coolant } }
    let s := allStacks.foldl (fun s k =>
      match v.stackTemp[k.val]? with
      | some t => if s.stackOn k then s.stackSample k t else s
      | none => s) s
    .next { s with sensors := sensorCodes.map fun c => (c, s.sensorOf v c) }

/-- The Packet Error Code of SMBus 3.x: CRC-8 with x^8 + x^2 + x + 1. -/
def pecByte (c : Nat) (b : Nat) : Nat := iterN (fun x => if 128 ≤ x then (2 * x) % 256 ^^^ 7 else 2 * x) 8 (c ^^^ b)

def pec (bs : List Nat) : Nat := bs.foldl pecByte 0

/-- SMBUS_READ_WORD: the value and its PEC, or no acknowledgement. -/
def execSmbusReadWord (addr cmd : Nat) (s : State) : Result :=
  if s.power = .unpowered then .next s
  else if addr ≠ 0x5C || !sensorCodes.contains cmd then .next { s with smbus := none }
  else
    let v := s.sensor cmd
    .next { s with smbus := some (v, BitVec.ofNat 8 (pec [0xB8, cmd, 0xB9, v.toNat % 256, v.toNat / 256])) }

/-! HELLO (R432) -/

/-- The link-local multicast group ff02::5708, lowest byte first. -/
def helloGroup : BitVec 128 := 0x085700000000000000000000000002FF

/-- HELLO: every 1 s once the key is ready, until a SET_SLOT is accepted. -/
def execHello (s : State) : Result :=
  if s.power ≠ .running || !s.start.keyReady || s.house.mgr.isSome || !(s.house.link || s.relays) || s.now < s.house.helloAt then .next s
  else
    let s := s.sendMsg helloGroup (cborMap [(0, cborUint 0x01), (1, cborUint 0), (3, cborUint s.now), (4, cborUint 0x5708),
      (5, cborBytes s.start.key), (6, cborUint s.start.bootSrc.toNat)])
    .next { s with house := { s.house with helloAt := s.now + sec 1 } }

/-- MANAGEMENT_PORT_UP: LINK reads 1, relay ends, HELLO and address autoconfiguration begin (R428, R432). -/
def execManagementPortUp (s : State) : Result :=
  if s.power ≠ .running || s.house.link then .next s
  else
    let n := s.freeCtr
    .next { s with
      freeCtr := n + 1, house := { s.house with link := true, helloAt := s.now, netPrefix := some (Config.networkPrefix n) } }

/-- MANAGEMENT_PORT_DOWN: messages go by relay (R437). -/
def execManagementPortDown (s : State) : Result :=
  if s.power ≠ .running then .next s
  else .next { s with house := { s.house with link := false, netPrefix := none } }

/-! Replies (R431, R433) -/

/-- A reply echoes TYPE and REQ_ID; a message that came by relay is answered by the same way back (R437). -/
def State.answer (s : State) (m : MsgSrc) (typ status : Nat) (more : List (Nat × List Byte) := []) : State :=
  let back := match m.relay with
    | some o => if o = s.coord then [] else [(20, cborUint o)]
    | none => []
  s.sendMsg m.addr (cborMap ([(0, cborUint typ), (1, cborUint m.reqId), (2, cborUint status), (3, cborUint s.now)] ++ more ++ back))

/-- A datagram that gets no reply is counted (R433). -/
def State.noReply (s : State) : State := { s with house := { s.house with noReply := s.house.noReply + 1 } }

/-! Tickets under acknowledgement (R436) -/

/-- Room has returned: a Tickets-lost ticket tells how many were lost. -/
def State.tellLost (s : State) : State :=
  let n := s.house.lostUntold
  if n = 0 || 1024 ≤ s.house.tickets.length then s
  else State.raise { s with house := { s.house with lostUntold := 0 } } 0 0 0x0080 none [(0, .num n)]

/-- TICKET_ACK: the SEQ and every lower one leave the store, and the window moves. -/
def State.ack (s : State) (seq : Nat) : State :=
  (State.tellLost { s with house := { s.house with tickets := s.house.tickets.filter fun t => seq < t.seq } }).sendTickets

/-- TICKET_RESEND: sent tickets of the window that 100 ms have not seen acknowledged. -/
def execTicketResend (s : State) : Result :=
  match s.house.mgr with
  | none => .next s
  | some mgr =>
    if s.power ≠ .running then .next s
    else
      let hi := s.house.low + 64
      let due (t : Ticket) : Bool := t.seq < s.house.sent && t.seq < hi && s.passed t.sentAt (ms 100)
      let now := s.now
      let s := (s.house.tickets.filter due).foldl (fun s t => s.sendMsg mgr (ticketMsg s t)) s
      .next { s with house := { s.house with tickets := s.house.tickets.map fun t => if due t then { t with sentAt := now } else t } }

/-! Effects of the commands -/

/-- The report of MEASURE, signed under the per-start key over its deterministic CBOR (R436). -/
def State.report (s : State) (nonce : List Byte) : List (Nat × List Byte) × State :=
  let body := [(4, cborBytes nonce), (5, cborBytes s.start.fwMeas), (6, patMeasCbor s.patMeas), (7, cborUint s.now)]
  let sig := (List.range 512).map (Config.signatureByte s.freeCtr (cborMap body))
  (body ++ [(8, cborBytes sig)], s.tick)

/-- STATUS: power, partitions, rates, degraded bits and the no-reply count. -/
def State.statusKeys (s : State) : List (Nat × List Byte) :=
  let parts := allParts.filterMap fun p =>
    let x := s.part p
    if x.loaded then some (cborArray [cborUint p.val, cborUint x.epoch.toNat, cborUint x.benches.length]) else none
  let short := ((List.range 4).map fun t => b2n (s.time.shortfall.getD t false) * 2 ^ t).foldl (· + ·) 0
  [(4, cborUint s.modPower), (5, cborArray parts), (6, cborArray ((List.range 4).map fun t => cborUint (s.time.stepRate.getD t 0))),
    (7, cborUint (short + 16 * b2n s.cx.degraded)), (8, cborUint s.house.noReply)]

/-- A retire command by its class (R430). -/
def State.retireUnit (s : State) (cls a c : Nat) : Retired × State :=
  match cls with
  | 0x2 => s.retireBench a c
  | 0x5 => s.retireChannel a c
  | 0x6 => s.retirePort a c
  | 0x7 => s.retireLane a c
  | 0x8 => s.retireClerk a c
  | _ => (3, s)

/-- The bytes that STAGE_WRITE may reach: the staging area, or H0 in recovery mode (17 R465, R470). -/
def State.stageRoom (s : State) : Nat := if s.start.recovery then stackBytes else commitRecord - stagingArea

/-- STAGE_WRITE: into the staging area, which erases the commit record, or into H0 in recovery mode. -/
def State.stageBytes (s : State) (off : Nat) (data : List Byte) : State :=
  if s.start.recovery then
    match s.mem.writeFrom (h0Base + off) data false Origin.hub with
    | some m => s.setMem m
    | none => s
  else s.dropCommit.flashWrite (stagingArea + off) data

/-- STAGE_COMMIT: the STATUS and its effect (17 R465, R470). -/
def State.stageCommitted (s : State) (len : Nat) (sha : List Byte) : Nat × State :=
  if s.start.recovery then
    let read := s.h0
    let r := verifyImage s.nv read (some len) 2 (some sha)
    if r = 0 then
      let s := s.imageRuns read
      let c := ((List.range 32).find? s.house.active.getLsbD).getD 0
      (0, { s with
        start := { s.start with stage := max 2 s.start.stage }
        house := { s.house with coreStarts := s.house.coreStarts ++ [{ core := c, pc := s.imageEntry, a0 := c }] } })
    else (if r = 7 then 6 else 2, s.imageTicket r)
  else
    let (r, s) := s.commit len (some sha)
    (if r = 0 then 0 else 2, s)

/-! Serving (R432, R433) -/

/-- The source of a management row. -/
def mgmtSrc : Instr → MsgSrc
  | .setSlot m _ | .measure m _ | .status m | .sensors m | .retire m _ _ _ | .ticketAck m _ | .tally m _ _ _
  | .faultNotice m _ _ _ _ | .epochReady m _ _ _ | .peerAck m _ _ _ | .stageWrite m _ _ | .stageCommit m _ _
  | .bootData m _ _ | .unknownType m _ => m
  | _ => {}

/-- Its TYPE. -/
def mgmtType : Instr → Nat
  | .setSlot .. => 0x02
  | .measure .. => 0x03
  | .status .. => 0x04
  | .sensors .. => 0x05
  | .retire .. => 0x06
  | .ticketAck .. => 0x11
  | .tally .. => 0x20
  | .faultNotice .. => 0x21
  | .epochReady .. => 0x22
  | .peerAck .. => 0x23
  | .stageWrite .. => 0x30
  | .stageCommit .. => 0x31
  | .bootData .. => 0x33
  | _ => 0

/-- The manager's commands (R432). -/
def isCommand (i : Instr) : Bool := [0x02, 0x03, 0x04, 0x05, 0x06, 0x11, 0x30, 0x31].contains (mgmtType i)

/-- The CBOR keys of a row beyond 0 to 3 (R433). -/
def mgmtKeys : Instr → List (Nat × List Byte)
  | .setSlot _ t => [(4, cborText t)]
  | .measure _ n => [(4, cborBytes n)]
  | .retire _ k a c => [(4, cborUint k), (5, cborUint a), (6, cborUint c)]
  | .ticketAck _ n => [(4, cborUint n)]
  | .tally _ p n t => [(4, cborUint p), (5, cborUint n), (6, cborBytes t)]
  | .faultNotice _ p e c k => [(4, cborUint p), (5, cborUint e), (6, cborUint c), (7, cborUint k)]
  | .epochReady _ p e l => [(4, cborUint p), (5, cborUint e), (6, cborUint l)]
  | .peerAck _ t p n => [(4, cborUint t), (5, cborUint p), (6, cborUint n)]
  | .stageWrite _ o d => [(4, cborUint o), (5, cborBytes d)]
  | .stageCommit _ n d => [(4, cborUint n), (5, cborBytes d)]
  | .bootData _ o d => [(4, cborUint o), (5, cborBytes d)]
  | _ => []

/-- Whether every value of a row lies within its bounds (R431, R433). -/
def State.mgmtBounds (s : State) : Instr → Bool
  | .setSlot _ t => 1 ≤ t.length && t.length ≤ 32
  | .measure _ n => 16 ≤ n.length && n.length ≤ 64
  | .tally _ p n t => p ≤ 7 && n < 2 ^ 64 && t.length = 16
  | .faultNotice _ p e _ k => p ≤ 7 && e < 65536 && k ≤ 1
  | .epochReady _ p e _ => p ≤ 7 && e < 65536
  | .peerAck _ _ p _ => p ≤ 7
  | .stageWrite _ o d => d.length ≤ 3584 && o + d.length ≤ s.stageRoom
  | .stageCommit _ n d => n ≤ s.stageRoom && d.length = 64
  | _ => true

/-- The counting house serves as in the start-failed state (17 R461, R474, R477). -/
def State.servesFailed (s : State) : Bool := s.start.failed || s.start.haltAt.isSome || s.nv.life = .void_

/-- The STATUS that refuses a command of a TYPE from a source; 0 where it is served (R432; 17 R461, R465). -/
def State.gate (s : State) (addr : BitVec 128) (typ : Nat) : Nat :=
  match s.house.mgr with
  | some m =>
    if m ≠ addr then 3
    else if typ = 2 then 6
    else if s.servesFailed && !([3, 4, 5, 0x11].contains typ) then 6
    else if s.start.recovery && !([3, 4, 5, 0x11, 0x30, 0x31].contains typ) then 6
    else 0
  | none => if [2, 3, 4].contains typ then 0 else 6

/-- Whether a command can be answered now: the key for MEASURE, the flash for the staging commands. -/
def State.mgmtReady (s : State) : Instr → Bool
  | .measure _ _ => s.start.keyReady
  | .stageWrite _ _ _ | .stageCommit _ _ _ => s.start.recovery || (s.start.flBusy.isNone && !s.start.copying)
  | _ => true

/-- Serves a command that its gate has passed: the effect and the reply. -/
def State.serveCmd (s : State) (i : Instr) : State :=
  let m := mgmtSrc i
  let t := mgmtType i
  match i with
  | .setSlot _ slot => (State.answer { s with house := { s.house with slot := some slot, mgr := some m.addr } } m t 0).sendTickets.bootFetch
  | .measure _ nonce =>
    let (keys, s) := s.report nonce
    s.answer m t 0 keys
  | .status _ => s.answer m t 0 s.statusKeys
  | .sensors _ => s.answer m t 0 [(4, cborMap (sensorCodes.map fun c => (c, cborUint (s.sensor c).toNat)))]
  | .retire _ cls a c =>
    let (r, s) := s.retireUnit cls a c
    s.answer m t (if r = 1 then 0 else 6)
  | .ticketAck _ seq => (s.answer m t 0).ack seq
  | .stageWrite _ off data =>
    if !s.start.recovery && !s.start.sfdpOk then s.answer m t 6 else (s.stageBytes off data).answer m t 0
  | .stageCommit _ len sha =>
    if !s.start.recovery && !s.start.sfdpOk then s.answer m t 6
    else
      let (st, s) := s.stageCommitted len sha
      s.answer m t st
  | _ => s

/-- Serves waiting commands, each source's in arrival order, as long as one can be answered. -/
def State.drainCmds : Nat → State → State
  | 0, s => s
  | n + 1, s =>
    let cs := s.house.commands
    let first (i : Nat) (c : MgmtCmd) : Bool :=
      s.mgmtReady c.cmd && !((cs.take i).any fun e => (mgmtSrc e.cmd).addr = (mgmtSrc c.cmd).addr)
    match cs.zipIdx.find? fun e => first e.2 e.1 with
    | none => s
    | some (c, i) =>
      State.drainCmds n (State.serveCmd { s with house := { s.house with commands := cs.eraseIdx i } } c.cmd)

def State.drain (s : State) : State := State.drainCmds s.house.commands.length s

/-- A command arrives: its bounds, its source and the state of the module, then it is served or waits (R432, R433). -/
def State.command (s : State) (i : Instr) : State :=
  let m := mgmtSrc i
  let t := mgmtType i
  let g := s.gate m.addr t
  if !s.mgmtBounds i then s.answer m t 2
  else if g ≠ 0 then s.answer m t g
  else if 16 ≤ s.house.commands.length then s.answer m t 4
  else if s.mgmtReady i && !(s.house.commands.any fun c => (mgmtSrc c.cmd).addr = m.addr) then s.serveCmd i
  else { s with house := { s.house with commands := s.house.commands ++ [{ cmd := i, since := s.now }] } }

/-- MGMT_COMMAND_EXPIRY: a command waits longer than WT_MGMT; STATUS 5 replaces its reply and it is discarded. -/
def execMgmtCommandExpiry (i : Nat) (s : State) : Result :=
  match s.house.commands[i]? with
  | none => .next s
  | some c =>
    if s.power ≠ .running || !s.passed c.since (ms s.time.wtMgmt) then .next s
    else
      let s := { s with house := { s.house with commands := s.house.commands.eraseIdx i } }
      .next (s.answer (mgmtSrc c.cmd) (mgmtType c.cmd) 5).drain

/-- SEAL_KEY_READY: the key pair of this start; MEASURE commands that waited are answered (17 R476). -/
def execSealKeyReady (s : State) : Result :=
  if s.power ≠ .running || s.start.keyReady then .next s
  else
    let n := s.freeCtr
    let s := { s with freeCtr := n + 1, start := { s.start with keyReady := true, key := (List.range 512).map (Config.keyByte n) } }
    .next s.drain

/-- FLASH_COMMAND_DONE: FL_STATUS takes the result, and staging commands that waited are served (17 R479). -/
def execFlashCommandDone (flashOk : Bool) (s : State) : Result :=
  if !s.clerkTime || s.start.flBusy.isNone then .next s else .next (s.flashEnd flashOk).drain

/-! Messages between members (R434) -/

/-- The member table entries of every partition. -/
def State.allMembers (s : State) : List Member := allParts.flatMap s.members

/-- Whether an entry stands for a source: by its address, or by its coordinates where the message was relayed (R437). -/
def Member.isSource (e : Member) (m : MsgSrc) : Bool :=
  match m.relay with
  | some o => e.coord = o
  | none => e.addr = m.addr

def State.fromMember (s : State) (m : MsgSrc) : Bool := s.allMembers.any fun e => e.isSource m

/-- The address under which a partition's table names a source. -/
def State.memberAddr (s : State) (p : PartId) (m : MsgSrc) : Option Member := (s.members p).find? fun e => e.isSource m

/-- An epoch-ready counts for the barrier when a MEMBER of the partition sent it (14 R408). -/
def State.takeReady (s : State) (p : PartId) (m : MsgSrc) (epoch loc : Nat) : State :=
  match s.memberAddr p m with
  | some e => if e.isMember then s.barrierReady p e.addr (BitVec.ofNat 16 epoch) loc else s
  | none => s

/-- The PEER_ACK of a member message. -/
def State.peerAck (s : State) (m : MsgSrc) (typ part n : Nat) : State :=
  let back := match m.relay with | some o => [(20, cborUint o)] | none => []
  s.sendMsg m.addr (cborMap ([(0, cborUint 0x23), (1, cborUint m.reqId), (3, cborUint s.now), (4, cborUint typ), (5, cborUint part),
    (6, cborUint n)] ++ back))

/-- A member message: bounds, source, acknowledgement, then its effect on a partition of this module. -/
def State.member (s : State) (i : Instr) (part n : Nat) (f : State → PartId → State) : State :=
  let m := mgmtSrc i
  let t := mgmtType i
  if !s.mgmtBounds i then s.answer m t 2
  else if !s.fromMember m then s.answer m t 3
  else
    let s := s.peerAck m t part n
    if h : part < 8 then f s ⟨part, h⟩ else s

/-- A replica's tally is held for its step until the step has its verdict (14 R404). -/
def State.takeTally (s : State) (p : PartId) (m : MsgSrc) (step : Nat) (t : List Byte) : State :=
  match s.memberAddr p m with
  | none => s
  | some e =>
    let x := s.integOf p
    let late := step < x.tallyStep || (step = x.tallyStep && x.verdict ≠ 6 && x.verdict ≠ 0)
    if !(s.part p).loaded || !e.isReplica || late || x.tallies.any fun q => q.1 = e.addr && q.2.1 = step then s
    else
      (s.modInteg p fun x => { x with
        tallies := (x.tallies.filter fun q => x.tallyStep ≤ q.2.1) ++ [(e.addr, step, t)] }).tallyReady p

/-- A fault notice of the own epoch stops the partition (14 R401, R407). -/
def State.takeNotice (s : State) (p : PartId) (epoch cls : Nat) : State :=
  let x := s.part p
  if !x.loaded || x.epoch.toNat ≠ epoch then s
  else
    let s := if x.stopped then s else (s.raise 0x9 p.val 0x0021 (some p)).stopPart p 0 (some 0x0021) none
    s.modPart p fun x => { x with faultClass := max x.faultClass cls }

/-- PEER_ACK ends the sending of a message; one that came through a relay names no address and ends the oldest that
fits (R434). -/
def State.takePeerAck (s : State) (m : MsgSrc) (known : Bool) (typ part n : Nat) : State :=
  let fits (e : PeerMsg) : Bool := (!known || e.dest = m.addr) && e.typ = typ && e.part = part && e.n = n
  let out := s.house.peerOut
  let s := s.noReply
  if known && !s.fromMember m then s
  else match out.findIdx? fits with
    | some i => { s with house := { s.house with peerOut := out.eraseIdx i } }
    | none => s

/-- PEER_RESEND: messages that 10 ms have not seen acknowledged, for at most TALLY_TIMEOUT_MS (R434). -/
def execPeerResend (s : State) : Result :=
  if s.power ≠ .running then .next s
  else
    let excess (e : PeerMsg) : Bool := s.passed e.first (ms s.integ.timeoutMs)
    let due (e : PeerMsg) : Bool := s.passed e.lastSent (ms 10)
    let keep := s.house.peerOut.filter fun e => !excess e
    let now := s.now
    let s := (keep.filter due).foldl (fun s e => s.sendMsg e.dest e.body) s
    .next { s with house := { s.house with peerOut := keep.map fun e => if due e then { e with lastSent := now } else e } }

/-- TALLY_TIMEOUT: the counting house decides with the tallies it holds (14 R404). -/
def execTallyTimeout (p : PartId) (s : State) : Result :=
  let x := s.integOf p
  if s.power ≠ .running || x.verdict ≠ 6 || !s.passed x.formedAt (ms s.integ.timeoutMs) then .next s else .next (s.decideTally p)

/-! Relay (R437) -/

/-- A message as CBOR, with RELAY_FROM where it has one. -/
def mgmtBody (i : Instr) : List Byte :=
  let m := mgmtSrc i
  cborMap ([(0, cborUint (mgmtType i)), (1, cborUint m.reqId)] ++ mgmtKeys i ++
    (match m.relay with | some o => [(20, cborUint o)] | none => []))

/-- Sends a message on to the module it was relayed for, unless this module itself relays. -/
def State.forward (s : State) (o : Nat) (body : List Byte) : State :=
  if s.relays then s else s.launchAll none (mgmtFrames o s.coord body (body.length / 256 + 1))

/-- A message for another module goes on by MGMT frames; one for this module has its effect. A TALLY, FAULT_NOTICE or
EPOCH_READY with RELAY_FROM is for this module: the key names its origin. A command for another module counts against
the limit of 16 (R437). -/
def State.orForward (s : State) (i : Instr) (f : State → State) : State :=
  match (mgmtSrc i).relay with
  | some o =>
    if o = s.coord then f s
    else if isCommand i && 16 ≤ s.house.commands.length then s.answer (mgmtSrc i) (mgmtType i) 4
    else s.forward o (mgmtBody i)
  | none => f s

/-- Datagrams arrive while the management port is up. -/
def State.online (s : State) : Bool := s.power = .running && s.house.link

/-! The rows -/

/-- SET_SLOT (R432). -/
def execSetSlot (m : MsgSrc) (slot : List Byte) (s : State) : Result :=
  if !s.online then .next s else .next (s.orForward (.setSlot m slot) fun s => s.command (.setSlot m slot))

/-- MEASURE (R436). -/
def execMeasure (m : MsgSrc) (nonce : List Byte) (s : State) : Result :=
  if !s.online then .next s else .next (s.orForward (.measure m nonce) fun s => s.command (.measure m nonce))

/-- STATUS (R433). -/
def execStatus (m : MsgSrc) (s : State) : Result :=
  if !s.online then .next s else .next (s.orForward (.status m) fun s => s.command (.status m))

/-- SENSORS (R433, R439). -/
def execSensors (m : MsgSrc) (s : State) : Result :=
  if !s.online then .next s else .next (s.orForward (.sensors m) fun s => s.command (.sensors m))

/-- RETIRE (R430, R433). -/
def execRetire (m : MsgSrc) (cls a c : Nat) (s : State) : Result :=
  if !s.online then .next s else .next (s.orForward (.retire m cls a c) fun s => s.command (.retire m cls a c))

/-- TICKET_ACK (R436). -/
def execTicketAck (m : MsgSrc) (seq : Nat) (s : State) : Result :=
  if !s.online then .next s else .next (s.orForward (.ticketAck m seq) fun s => s.command (.ticketAck m seq))

/-- STAGE_WRITE (17 R470). -/
def execStageWrite (m : MsgSrc) (offset : Nat) (data : List Byte) (s : State) : Result :=
  if !s.online then .next s else .next (s.orForward (.stageWrite m offset data) fun s => s.command (.stageWrite m offset data))

/-- STAGE_COMMIT (17 R470). -/
def execStageCommit (m : MsgSrc) (length : Nat) (sha : List Byte) (s : State) : Result :=
  if !s.online then .next s else .next (s.orForward (.stageCommit m length sha) fun s => s.command (.stageCommit m length sha))

/-- A BOOT_DATA at this module: from the manager only; it gets no reply. -/
def State.takeBootData (s : State) (m : MsgSrc) (offset : Nat) (data : List Byte) : State :=
  let s := s.noReply
  if s.house.mgr = some m.addr then s.bootPiece offset data else s

/-- BOOT_DATA (17 R464). -/
def execBootData (m : MsgSrc) (offset : Nat) (data : List Byte) (s : State) : Result :=
  if !s.online then .next s else .next (s.orForward (.bootData m offset data) fun s => s.takeBootData m offset data)

/-- TALLY (14 R404). -/
def execTally (m : MsgSrc) (part step : Nat) (tally : List Byte) (s : State) : Result :=
  if !s.online then .next s
  else .next (s.member (.tally m part step tally) part step fun s p => s.takeTally p m step tally)

/-- FAULT_NOTICE (14 R401). -/
def execFaultNotice (m : MsgSrc) (part epoch cause cls : Nat) (s : State) : Result :=
  if !s.online then .next s
  else .next (s.member (.faultNotice m part epoch cause cls) part epoch fun s p => s.takeNotice p epoch cls)

/-- EPOCH_READY (14 R408). -/
def execEpochReady (m : MsgSrc) (part epoch loc : Nat) (s : State) : Result :=
  if !s.online then .next s
  else .next (s.member (.epochReady m part epoch loc) part epoch fun s p => s.takeReady p m epoch loc)

/-- PEER_ACK (R434). -/
def execPeerAck (m : MsgSrc) (typ part n : Nat) (s : State) : Result :=
  if !s.online then .next s
  else .next (s.orForward (.peerAck m typ part n) fun s => s.takePeerAck m true typ part n)

/-! Datagrams as bytes: the schema check (R431, R433) -/

/-- A CBOR item as far as a message needs it. -/
inductive Item where
  | uint (n : Nat)
  | bytes (b : List Byte)
  | text (b : List Byte)
  | other
  deriving DecidableEq, Repr

/-- The head of an item: its major type and its number; none where it is cut off or of indefinite length. -/
def cborOpen : List Byte → Option (Nat × Nat × List Byte)
  | [] => none
  | b :: bs =>
    let major := b.toNat / 32
    let info := b.toNat % 32
    if info < 24 then some (major, info, bs)
    else if info ≤ 27 then
      let k := 2 ^ (info - 24)
      if bs.length < k then none else some (major, beNat (bs.take k), bs.drop k)
    else none

/-- Leaves `n` items, each with what it holds; `none` where the bytes end first. -/
def cborSkip : Nat → Nat → List Byte → Option (List Byte)
  | 0, _, _ => none
  | _ + 1, 0, bs => some bs
  | fuel + 1, n + 1, bs =>
    match cborOpen bs with
    | none => none
    | some (major, v, rest) =>
      match major with
      | 2 | 3 => if rest.length < v then none else cborSkip fuel n (rest.drop v)
      | 4 => cborSkip fuel (v + n) rest
      | 5 => cborSkip fuel (2 * v + n) rest
      | 6 => cborSkip fuel (n + 1) rest
      | _ => cborSkip fuel n rest

/-- UTF-8 as CBOR text must be. -/
def utf8Ok : Nat → List Byte → Bool
  | 0, bs => bs.isEmpty
  | n + 1, bs =>
    match bs with
    | [] => true
    | b :: rest =>
      let x := b.toNat
      let tail (k : Nat) : Bool := k ≤ rest.length && (rest.take k).all fun c => c.toNat / 64 = 2
      let second := (rest.getD 0 0).toNat
      if x < 0x80 then utf8Ok n rest
      else if 0xC2 ≤ x && x < 0xE0 then tail 1 && utf8Ok n (rest.drop 1)
      else if 0xE0 ≤ x && x < 0xF0 then
        tail 2 && (x ≠ 0xE0 || 0xA0 ≤ second) && (x ≠ 0xED || second < 0xA0) && utf8Ok n (rest.drop 2)
      else if 0xF0 ≤ x && x < 0xF5 then
        tail 3 && (x ≠ 0xF0 || 0x90 ≤ second) && (x ≠ 0xF4 || second < 0x90) && utf8Ok n (rest.drop 3)
      else false

/-- One item: a number or a string, or any other item passed over. -/
def cborItem (bs : List Byte) : Option (Item × List Byte) :=
  match cborOpen bs with
  | none => none
  | some (major, v, rest) =>
    match major with
    | 0 => some (.uint v, rest)
    | 2 => if rest.length < v then none else some (.bytes (rest.take v), rest.drop v)
    | 3 =>
      if rest.length < v then none
      else some (if utf8Ok v (rest.take v) then .text (rest.take v) else .other, rest.drop v)
    | _ => (cborSkip (bs.length + 1) 1 bs).map fun r => (.other, r)

/-- The entries of a map as far as they can be read, what follows them, and whether all could be. -/
def cborEntries : Nat → List Byte → List (Item × Item) × List Byte × Bool
  | 0, bs => ([], bs, true)
  | n + 1, bs =>
    match cborItem bs with
    | none => ([], bs, false)
    | some (k, r) =>
      match cborItem r with
      | none => ([], bs, false)
      | some (v, r) =>
        let (es, r, ok) := cborEntries n r
        ((k, v) :: es, r, ok)

/-- A datagram: its entries, what follows the map, and whether it is one whole definite-length map. -/
def cborDatagram (bs : List Byte) : List (Item × Item) × List Byte × Bool :=
  match cborOpen bs with
  | some (5, n, rest) => cborEntries (min n (rest.length + 1)) rest
  | _ => ([], bs, false)

def keyOf (es : List (Item × Item)) (k : Nat) : Option Item := (es.find? fun e => e.1 = .uint k).map (·.2)

def uintKey (es : List (Item × Item)) (k : Nat) : Option Nat := match keyOf es k with | some (.uint n) => some n | _ => none

def bytesKey (es : List (Item × Item)) (k : Nat) : Option (List Byte) := match keyOf es k with | some (.bytes b) => some b | _ => none

def textKey (es : List (Item × Item)) (k : Nat) : Option (List Byte) := match keyOf es k with | some (.text b) => some b | _ => none

/-- Only the keys that a type defines, each once. -/
def keysOk (es : List (Item × Item)) (own : List Nat) : Bool :=
  (es.all fun e => match e.1 with | .uint k => [0, 1, 3, 20].contains k || own.contains k | _ => false) &&
  (es.map (·.1)).Nodup && (match keyOf es 3 with | some v => (match v with | .uint _ => true | _ => false) | none => true) &&
  (match keyOf es 20 with | some v => (match v with | .uint _ => true | _ => false) | none => true)

/-- The row that a well-formed datagram of a TYPE stands for. -/
def mgmtRow (m : MsgSrc) (typ : Nat) (es : List (Item × Item)) : Option Instr :=
  let u := uintKey es
  match typ with
  | 0x02 => if keysOk es [4] then (textKey es 4).map fun t => .setSlot m t else none
  | 0x03 => if keysOk es [4] then (bytesKey es 4).map fun n => .measure m n else none
  | 0x04 => if keysOk es [] then some (.status m) else none
  | 0x05 => if keysOk es [] then some (.sensors m) else none
  | 0x06 => if keysOk es [4, 5, 6] then do pure (.retire m (← u 4) (← u 5) (← u 6)) else none
  | 0x11 => if keysOk es [4] then (u 4).map fun n => .ticketAck m n else none
  | 0x20 => if keysOk es [4, 5, 6] then do pure (.tally m (← u 4) (← u 5) (← bytesKey es 6)) else none
  | 0x21 => if keysOk es [4, 5, 6, 7] then do pure (.faultNotice m (← u 4) (← u 5) (← u 6) (← u 7)) else none
  | 0x22 => if keysOk es [4, 5, 6] then do pure (.epochReady m (← u 4) (← u 5) (← u 6)) else none
  | 0x23 => if keysOk es [4, 5, 6] then do pure (.peerAck m (← u 4) (← u 5) (← u 6)) else none
  | 0x30 => if keysOk es [4, 5] then do pure (.stageWrite m (← u 4) (← bytesKey es 5)) else none
  | 0x31 => if keysOk es [4, 5] then do pure (.stageCommit m (← u 4) (← bytesKey es 5)) else none
  | 0x33 => if keysOk es [4, 5] then do pure (.bootData m (← u 4) (← bytesKey es 5)) else none
  | _ => none

/-- The effect of a row at this module. -/
def State.mgmtHere (s : State) (i : Instr) (framed : Bool) : State :=
  match i with
  | .tally m p n t => s.member i p n fun s q => s.takeTally q m n t
  | .faultNotice _ p e _ k => s.member i p e fun s q => s.takeNotice q e k
  | .epochReady m p e l => s.member i p e fun s q => s.takeReady q m e l
  | .peerAck m t p n => s.takePeerAck m (!framed) t p n
  | .bootData m o d => s.takeBootData m o d
  | i => s.command i

/-- Whether a row with RELAY_FROM is sent on: a member message is not (R437). -/
def forwards : Instr → Bool
  | .tally .. | .faultNotice .. | .epochReady .. => false
  | _ => true

/-- A datagram of bytes from a source: STATUS 1 or 7, no reply, or the row that it stands for (R431, R433). -/
def State.datagram (s : State) (addr : BitVec 128) (data : List Byte) (framed : Bool) : State :=
  let (es, rest, ok) := cborDatagram data
  match uintKey es 0, uintKey es 1 with
  | some typ, some req =>
    let m : MsgSrc := { addr := addr, reqId := req, relay := uintKey es 20 }
    if 2 ^ 32 ≤ req then s.noReply
    else if [0x01, 0x10, 0x32].contains typ then s
    else if !([0x02, 0x03, 0x04, 0x05, 0x06, 0x11, 0x20, 0x21, 0x22, 0x23, 0x30, 0x31, 0x33].contains typ) then s.answer m typ 7
    else if !ok || !rest.isEmpty || 4096 < data.length then s.answer m typ 1
    else match mgmtRow m typ es with
      | none => s.answer m typ 1
      | some i => if forwards i then s.orForward i fun s => s.mgmtHere i framed else s.mgmtHere i framed
  | _, _ => s.noReply

/-- UNKNOWN_TYPE: a datagram as bytes. -/
def execUnknownType (m : MsgSrc) (data : List Byte) (s : State) : Result :=
  if !s.online then .next s else .next (s.datagram m.addr data false)

/-! Messages in MGMT frames (R437) -/

/-- The address to which a relaying module sends a neighbour's message. -/
def State.relayDest (s : State) (typ : Nat) (reply : Bool) : BitVec 128 × State :=
  if typ = 0x01 && !reply then (helloGroup, s)
  else if 0x20 ≤ typ && typ ≤ 0x23 && !reply then (Config.relayAddress s.freeCtr, s.tick)
  else match s.house.mgr with
    | some a => (a, s)
    | none => (Config.relayAddress s.freeCtr, s.tick)

/-- A whole message has arrived in MGMT frames: one for this module, marked by its own coordinates in RELAY_FROM, has
its effect; any other goes out from this module's address with RELAY_FROM added, unless it relays itself. -/
def State.mgmtArrived (s : State) (src : Nat) (bytes : List Byte) : State :=
  let (es, rest, ok) := cborDatagram bytes
  let body := bytes.take (bytes.length - rest.length)
  if !ok || 16 ≤ rest.length || rest.any (· ≠ 0) then s
  else if uintKey es 20 = some s.coord then
    match s.house.mgr with
    | some a => s.datagram a body true
    | none => State.datagram s.tick (Config.relayAddress s.freeCtr) body true
  else if s.byRelay then s
  else
    let (dest, s) := s.relayDest ((uintKey es 0).getD 0) (uintKey es 2).isSome
    match body with
    | b :: bs => s.sendMsg dest ((b + 1) :: bs ++ cborUint 20 ++ cborUint src)
    | [] => s

end Sys2Proof.Machine
end

