-- ==== Sys2Proof/Machine/Link.lean ====
section
/-! DEFINITION. Frames that arrive (12 R331, R338 to R363): acceptance in LSEQ order, the checks of R342 and R363,
transit, and delivery by TYPE. -/

namespace Sys2Proof.Machine

open Sys2Proof

/-! Checks (R338 to R342) -/

/-- The VC of a TYPE; none for a reserved TYPE (R339). -/
def vcOf (typ : Nat) : Option Nat :=
  match typ with
  | 0x01 | 0x20 => some 0
  | 0x21 => some 1
  | 0x02 | 0x03 | 0x04 | 0x10 => some 2
  | 0x30 | 0x31 => some 3
  | _ => none

/-- The zero fields of a TYPE are zero, and the lengths are those that the header gives (R338, R340). -/
def frFormatOk (f : Frame) : Bool :=
  vcOf f.typ = some f.vc && f.zeros = 0 && f.plen ≤ 16 && f.payload.length = 16 * f.plen &&
  (match f.typ with
   | 0x01 | 0x02 | 0x03 | 0x04 => f.c < 128 && f.d < 128 && f.ef < 4096
   | 0x10 => f.c < 128 && f.d < 128 && f.ef / 256 < 8
   | 0x20 => f.dHi = 0 && f.sHi = 0 && f.d = 0 && f.c < 128
   | 0x21 => f.dHi = 0 && f.sHi = 0 && f.c < 128
   | _ => f.dHi = 0 && f.sHi = 0 && f.c = 0 && f.d = 0 && f.ef = 0)

/-- A discard that CX_DROP counts; the cells of the frame go back. -/
def State.dropFrame (s : State) (arr : Option PortId) (f : Frame) (count : Crossing → Crossing) : State :=
  State.payCredit { s with cx := count s.cx } arr f

def Crossing.onFormat (x : Crossing) : Crossing := { x with dropFormat := satAdd 16 x.dropFormat 1 }
def Crossing.onRoute (x : Crossing) : Crossing := { x with dropRoute := satAdd 16 x.dropRoute 1 }
def Crossing.onNoPart (x : Crossing) : Crossing := { x with dropNoPart := satAdd 16 x.dropNoPart 1 }
def Crossing.onTree (x : Crossing) : Crossing := { x with dropTree := satAdd 16 x.dropTree 1 }
def Crossing.onOlder (x : Crossing) : Crossing := { x with older := satAdd 32 x.older 1 }
def Crossing.onNewer (x : Crossing) : Crossing := { x with newer := satAdd 32 x.newer 1 }

/-- The partition that a frame names. -/
def frPart (f : Frame) : PartId := Fin.ofNat 8 f.part

/-- The port on which a frame came is a storage gateway's (R348). -/
def State.fromGateway (s : State) (arr : Option PortId) : Bool :=
  match arr with
  | some n => s.trainRole n.val = 3
  | none => false

/-- The dimension in which a frame arrived: the one in which the far end differs from this module. -/
def State.arrivalDim (s : State) (arr : Option PortId) : Option Nat :=
  match arr with
  | none => none
  | some n =>
    match (s.port n).peer with
    | some k => (List.range 3).find? fun i => (coordList k.1).getD i 0 ≠ s.geo.coord.getD i 0
    | none => (dirOfPort s.geo n.val).map (· / 2)

/-! Memory requests (R355, R356) -/

/-- A MEM_REQ block. -/
structure MemReq where
  op : Nat := 0
  lines : Nat := 0
  reqId : Nat := 0
  va : Nat := 0
  atop : Nat := 0
  width : Nat := 0
  deriving DecidableEq, Repr

def memReqOf (bs : List Byte) : MemReq :=
  { op := byteAt bs 0, lines := byteAt bs 1, reqId := leAt bs 2 2, va := leAt bs 4 6, atop := byteAt bs 10, width := byteAt bs 11 }

/-- The atomic of a block and the unit behind it. -/
def MemReq.atomic (r : MemReq) (bs : List Byte) : AtomicOp :=
  { atop := r.atop, width := r.width % 16, signed := bit r.width 4, opnd := BitVec.ofNat 64 (leAt bs 16 8)
    exp := BitVec.ofNat 64 (leAt bs 24 8) }

/-- A legal block of the frame's length (R355). -/
def MemReq.ok (r : MemReq) (f : Frame) : Bool :=
  leAt f.payload 12 4 = 0 &&
  match r.op with
  | 1 => 1 ≤ r.lines && r.lines ≤ 4 && f.plen = 1 && r.va % 64 = 0 && r.atop = 0 && r.width = 0
  | 2 => 1 ≤ r.lines && r.lines ≤ 3 && f.plen = 1 + 4 * r.lines && r.va % 64 = 0 && r.atop = 0 && r.width = 0
  | 3 =>
    let a := r.atomic f.payload
    r.lines = 0 && f.plen = 2 && atomicOk a && r.va % a.width = 0 && r.width < 32 && (!a.signed || a.atop = 3 || a.atop = 4)
  | _ => false

/-- STATUS of a translation that fails. -/
def walkStatus : WalkFail → Nat
  | .cause 2 => 2
  | .cause _ => 3
  | .homeOff => 9

/-- Translates the lines of a request through the partition's address book: their physical addresses, or the STATUS
of the first that fails (R356). -/
def reqLines (p : PartId) (book : Nat) (write : Bool) : Nat → Nat → MemSys → Except Nat (List Nat) × MemSys
  | 0, _, m => (.ok [], m)
  | n + 1, va, m =>
    let k := walkBook va (Origin.crossing p) 3 0 book m
    let m := k.m
    match k.res with
    | .error e => (.error (walkStatus e), m)
    | .ok e =>
      let pa := e.pa + (va - e.va)
      if write && !e.write then (.error 4, m)
      else match m.reach pa with
        | .ok _ _ =>
          match reqLines p book write n (va / 64 * 64 + 64) m with
          | (.ok ps, m) => (.ok (pa :: ps), m)
          | r => r
        | .homeOff => (.error 9, m)
        | .unmapped => (.error 3, m)

/-- The answer to a request: STATUS, payload and stain bits. -/
structure MemAnswer where
  status : Nat := 0
  payload : List Byte := []
  stain : List Bool := []

/-- Reads each line at its home. -/
def readAll (p : PartId) (ps : List Nat) (m : MemSys) : List Byte × List Bool × MemSys :=
  ps.foldl (fun a pa => match a.2.2.readLine pa (Origin.crossing p) with
    | some (d, st, m) => (a.1 ++ d, a.2.1 ++ [st], m)
    | none => a) ([], [], m)

/-- Writes each line at its home with its stain bit. -/
def writeAll (p : PartId) (ps : List Nat) (bs : List Byte) (st : List Bool) (m : MemSys) : MemSys :=
  ps.zipIdx.foldl (fun m e =>
    (m.writeLine e.1 (sliceAt bs (64 * e.2) 64) (List.replicate 64 true) (st.getD e.2 false) (Origin.crossing p)).getD m) m

/-- A READ served here counts in FD_BLOCKS_OUT of the bench whose blocks it pulls: the one of the requester's logical number
(13 R373, R388). Whether it is the READ that completes a block is open: the request does not say. -/
def State.countServed (s : State) (p : PartId) (requester : Nat) : State :=
  match s.benchOfLogical p requester with
  | none => s
  | some b =>
    let k := b2n (Config.pullServes s.freeCtr)
    (s.modBench b fun x => { x with fdOut := wrapAdd 64 x.fdOut k }).tick

/-- What a request leaves whose lines were not answered in time (11 R319): each line of a WRITE holds its old or its new
contents, whole, and an atomic is performed once or not at all. -/
def State.requestCut (s : State) (p : PartId) (f : Frame) (ps : List Nat) : State :=
  let r := memReqOf f.payload
  let n := s.freeCtr
  match r.op with
  | 1 => s
  | 2 =>
    let m := ps.zipIdx.foldl (fun (m : MemSys) e =>
      if Config.lineDone (n + e.2) then writeAll p [e.1] ((f.payload.drop 16).drop (64 * e.2)) ((frStains f).drop e.2) m else m) s.mem
    (s.setMem m).tick
  | _ =>
    match s.mem.reach (ps.headD 0) with
    | .ok k o =>
      match homeTile k with
      | some t =>
        if Config.lineDone n then (s.setMem (s.mem.atomicAt t k o (ps.headD 0) (r.atomic f.payload) 0 (Origin.crossing p)).2.2.2).tick else s.tick
      | none => s.tick
    | _ => s.tick

/-- Performs a request on a loaded partition (R356); one whose timer fires has STATUS 0x08 and faults no partition here. -/
def State.memRequest (s : State) (p : PartId) (f : Frame) (ev : FrameEvents) : MemAnswer × State :=
  let r := memReqOf f.payload
  if !r.ok f then ({ status := 5 }, s)
  else
    let (t, m) := reqLines p (s.part p).hdr.addrBook (r.op ≠ 1) (max 1 r.lines) r.va s.mem
    match t with
    | .error e => ({ status := e }, s.setMem m)
    | .ok ps =>
      if ev.timeout then ({ status := 8 }, (s.setMem m).requestCut p f ps)
      else match r.op with
      | 1 =>
        let (d, st, m) := readAll p ps m
        let s := s.setMem m
        ({ payload := d, stain := st }, if f.src = gatewayCoord then s else s.countServed p f.c)
      | 2 => ({}, s.setMem (writeAll p ps (f.payload.drop 16) (frStains f) m))
      | _ =>
        let pa := ps.headD 0
        let a := r.atomic f.payload
        match m.reach pa with
        | .ok k o =>
          match homeTile k with
          | none => ({ status := 6 }, s.setMem m)
          | some t =>
            let (old, stained, twice, m) := m.atomicAt t k o pa a ev.disagree (Origin.crossing p)
            let s := s.setMem m
            if stained then ({ status := 7 }, s.stainConsumed (.crossing p) t)
            else ({ payload := leBytes 8 old ++ List.replicate 8 0 }, if twice then s.stainTicket t (some p) else s)
        | _ => ({ status := 9 }, s.setMem m)

/-- MEM_REQ at its home: performed and answered, a gateway's on the port that it came by (R348). -/
def State.memServe (s : State) (arr : Option PortId) (f : Frame) (ev : FrameEvents) : State :=
  let p := frPart f
  let loaded := (s.part p).loaded
  let (a, s) := if loaded then s.memRequest p f ev else (({ status := 1 } : MemAnswer), s)
  let gate := f.src = gatewayCoord
  let out : Frame := {
    typ := 0x21, vc := 1, part := f.part, plen := ceilDiv a.payload.length 16, stain := stainBits a.stain, epoch := f.epoch
    dst := f.src, src := s.coord, c := f.c, d := a.status, ef := (memReqOf f.payload).reqId, payload := a.payload }
  match arr with
  | some n => if gate then s.enqueue n.val out else s.launch (if loaded then some p else none) out
  | none => s.launch (if loaded then some p else none) out

/-! Delivery -/

/-- A frame for a bench of a loaded partition waits in its receive store until an order takes it (R344, R351); the rest of a
broken message is discarded (R341). -/
def State.toBench (s : State) (arr : Option PortId) (f : Frame) (b : BenchId) : State :=
  let now := s.now
  if (s.bench b).broken.contains (frFlow f) then
    (s.payCredit arr f).modBench b fun x => { x with broken := if f.last then x.broken.filter (· ≠ frFlow f) else x.broken }
  else State.feed (s.modBench b fun x => { x with
    rxStore := x.rxStore ++ [(arr, f)]
    exchanges := x.exchanges.map fun c => if c.awaits f then { c with since := now } else c }) b (frPart f)

/-- The module that sent a one-bit frame of STAGE 0 or 1, which carries its origin in SRC (R361): the far end of its port, or
this module; not to be told where the frame came the long way round (R347). -/
def State.lastHop (s : State) (arr : Option PortId) (f : Frame) : Option Nat :=
  match arr with
  | none => some s.coord
  | some n => if f.rev then none else (s.port n).peer.map (·.1)

/-- Whether a RED frame comes over a tree that the partition holds, from a neighbour in it (R342, R361). -/
def State.redKnown (s : State) (arr : Option PortId) (f : Frame) : Bool :=
  let p := frPart f
  let id := f.c % 16
  let t := s.redTree p id
  let near (w : Nat) : Bool := t.parent = some w || t.kids.contains w
  ((s.part p).trees.any fun r => r.id = id) && (if frOneBit f then (s.lastHop arr f).all near else near f.src)

/-- A RED frame goes to its contribution, or waits for the REDUCE (R344, R358); the rest of a broken stage is discarded
(R341). -/
def State.toRed (s : State) (arr : Option PortId) (f : Frame) (disagree : Nat) : State :=
  let p := frPart f
  if (s.part p).brokenReds.contains (frRedFlow f) then
    (s.payCredit arr f).modPart p fun x => { x with brokenReds := if f.last then x.brokenReds.filter (· ≠ frRedFlow f) else x.brokenReds }
  else match (s.part p).redOf f with
  | some c => (s.payCredit arr f).redTake p c f disagree
  | none => s.modPart p fun x => { x with redFrames := x.redFrames ++ [(arr, f, disagree)] }

/-- A piece of a management message; the last one completes it (15 R437). -/
def State.toMgmt (s : State) (arr : Option PortId) (f : Frame) : State :=
  let s := s.payCredit arr f
  let old := match s.cx.mgmtRx.find? fun e => e.1 = f.src with | some e => e.2 | none => []
  let rest := s.cx.mgmtRx.filter fun e => e.1 ≠ f.src
  if f.last then State.mgmtArrived { s with cx := { s.cx with mgmtRx := rest } } f.src (old ++ f.payload)
  else { s with cx := { s.cx with mgmtRx := rest ++ [(f.src, old ++ f.payload)] } }

/-- PROBE bits are counted in probation; at 10^12 PROBE_DONE is set (R335). -/
def State.toProbe (s : State) (arr : Option PortId) (f : Frame) : State :=
  match arr with
  | none => s.dropFrame arr f Crossing.onRoute
  | some n =>
    (s.payCredit arr f).modPort n fun x =>
      if x.state ≠ 3 then x
      else
        let k := min (2 ^ 40 - 1) (x.probeBits + 128 * f.plen)
        { x with probeBits := k, myProbeDone := x.myProbeDone || 10 ^ 12 ≤ k }

/-- A frame older than its partition's epoch (R363). -/
def frOlder (cur e : BitVec 16) : Bool := 1 ≤ (cur - e).toNat && (cur - e).toNat ≤ 32768

/-- A newer one. -/
def frNewer (cur e : BitVec 16) : Bool := 1 ≤ (e - cur).toNat && (e - cur).toNat ≤ 32767

/-- Whether a partition is being replaced and its old epoch is over: its benches have drained or been cancelled (R367). -/
def State.replacing (s : State) (p : PartId) : Bool :=
  (s.loader.phase = LoadPhase.memWait || s.loader.phase = LoadPhase.rinse) && s.loader.toRinse.contains p

/-- A frame has reached its destination: the checks that apply there, then its effect. -/
def State.local_ (s : State) (arr : Option PortId) (f : Frame) (ev : FrameEvents) : State :=
  if f.typ = 0x30 then s.toMgmt arr f
  else
    let p := frPart f
    let x := s.part p
    let gate := f.src = gatewayCoord
    let bench := if f.typ = 0x10 || f.typ = 0x20 then none else s.benchOfLogical p f.c
    if f.typ ≠ 0x20 && (!x.loaded || (f.typ ≠ 0x10 && bench.isNone)) then s.dropFrame arr f Crossing.onNoPart
    else if f.typ = 0x10 && !s.redKnown arr f then s.dropFrame arr f Crossing.onTree
    else if x.loaded && !gate && (frOlder x.epoch f.epoch || (s.replacing p && f.epoch = x.epoch)) then s.dropFrame arr f Crossing.onOlder
    else if x.loaded && !gate && frNewer x.epoch f.epoch then s.dropFrame arr f Crossing.onNewer
    else if f.typ = 0x10 then s.toRed arr f ev.disagree
    else if f.typ = 0x20 then (s.payCredit arr f).memServe arr f ev
    else match bench with
      | some b => if f.typ = 0x21 then (s.payCredit arr f).foldPulled b p f else s.toBench arr f b
      | none => s

/-- A frame that the crossing has taken in (R342, R345). -/
def State.process (s : State) (arr : Option PortId) (f : Frame) (ev : FrameEvents) : State :=
  let gate := s.fromGateway arr
  if !frFormatOk f then s.dropFrame arr f Crossing.onFormat
  else if f.typ = 0x31 then s.toProbe arr f
  else if !coordOk s.geo f.dst || (gate && (f.dst ≠ s.coord || f.typ ≠ 0x20)) then s.dropFrame arr f Crossing.onRoute
  else match s.route s.geo none (s.arrivalDim arr) f with
    | .here => s.local_ arr f ev
    | .lost => (s.payCredit arr f).countLostFrames 1
    | .port m g =>
      let owed := arr.map fun n => (n, frPair f, f.shr, frCells f)
      s.enqueue m g owed

/-- In hold the crossing keeps what it takes in (R365). -/
def State.takeIn (s : State) (arr : Option PortId) (f : Frame) (ev : FrameEvents) : State :=
  if s.supply.hold then { s with cx := { s.cx with heldFrames := s.cx.heldFrames ++ [(arr, f, ev)] } } else s.process arr f ev

/-- The units of a frame against the receive bucket of its port (R350). -/
def State.countRx (s : State) (n : PortId) (f : Frame) : State :=
  let own : Option PartId := if frUnpart f then none else some (frPart f)
  let rec_ := s.record (0x20 + n.val)
  s.modPort n fun x => { x with rxBucket := Bucket.more rec_ own (frUnits f) x.rxBucket }

/-- A frame arrives: from this module itself, or on a port in LSEQ order (R331). -/
def State.arrive (s : State) (via : Via) (f : Frame) (ev : FrameEvents) : State :=
  if s.power ≠ .running then s
  else match via with
    | .home =>
      if s.cx.home.contains f then
        State.takeIn { s with cx := { s.cx with home := s.cx.home.eraseP fun g => g = f } } none f ev
      else s
    | .port n lseq =>
      let x := s.port n
      if x.state.toNat < 3 then s
      else if lseq ≠ x.rxSeq then s.askReplay n
      else
        let s := s.modPort n fun x => { x with
          rxSeq := (x.rxSeq + 1) % 65536, replayAsked := false, ackDue := true, rxCount := wrapAdd 64 x.rxCount 1 }
        (s.countRx n f).takeIn (some n) f ev

/-- The frames that hold kept are processed in the order they came (R365). -/
def State.releaseHeld (s : State) : State :=
  let fs := s.cx.heldFrames
  fs.foldl (fun s e => s.process e.1 e.2.1 e.2.2) { s with cx := { s.cx with heldFrames := [] } }

/-! The rows. A frame takes the path that its header gives it, whichever row names it. -/

/-- FRAME_TRANSIT (R345). -/
def execFrameTransit (via : Via) (f : Frame) (s : State) : Result := .next (s.arrive via f {})

/-- MSG_FRAME (R351). -/
def execMsgFrame (via : Via) (f : Frame) (s : State) : Result := .next (s.arrive via f {})

/-- EX_HDR_FRAME (09 R264). -/
def execExHdrFrame (via : Via) (f : Frame) (s : State) : Result := .next (s.arrive via f {})

/-- EX_DATA_FRAME (09 R264). -/
def execExDataFrame (via : Via) (f : Frame) (s : State) : Result := .next (s.arrive via f {})

/-- FOLD_DATA_FRAME (13 R377). -/
def execFoldDataFrame (via : Via) (f : Frame) (s : State) : Result := .next (s.arrive via f {})

/-- RED_FRAME (R358); `disagree` counts the tries in which the adder's halves differ (14 R390). -/
def execRedFrame (via : Via) (f : Frame) (disagree : Nat) (s : State) : Result := .next (s.arrive via f { disagree := disagree })

/-- MEM_REQ_FRAME (R356), with what befalls it at its home. -/
def execMemReqFrame (via : Via) (f : ServedFrame) (s : State) : Result := .next (s.arrive via f.frame f.events)

/-- MEM_RESP_FRAME (13 R378). -/
def execMemRespFrame (via : Via) (f : Frame) (s : State) : Result := .next (s.arrive via f {})

/-- MGMT_FRAME (15 R437). -/
def execMgmtFrame (via : Via) (f : Frame) (s : State) : Result := .next (s.arrive via f {})

/-- PROBE_FRAME (R335). -/
def execProbeFrame (via : Via) (f : Frame) (s : State) : Result := .next (s.arrive via f {})

end Sys2Proof.Machine
end

