-- ==== Sys2Proof/Machine/Supply.lean ====
section
/-! DEFINITION. Exit from hold (16 R444; 02 R65) and the loss and return of the reference (02 R61). -/

namespace Sys2Proof.Machine

open Sys2Proof

/-! Exit from hold -/

/-- Stamps of the memory requests of one bench, and of its hold. -/
def Bench.resumeRequests (x : Bench) (go : Nat → Nat) : Bench :=
  { x with
    lineReqs := x.lineReqs.map fun r => (r.1, go r.2)
    walks := x.walks.map fun w => { w with since := go w.since }
    inflight := x.inflight.map fun i => if x.asksMemory i || x.adds i then { i with since := go i.since } else i
    holdSince := go x.holdSince }

/-- The timers that stood still in a hold from `at_` go on with the time they had counted: seam stalls, token waits,
memory requests and crossing credits (02 R65), the loader's phases (03 R103) and arbiter runs. The waits of a partition
that a held bench has frozen stay frozen (14 R398); its memory requests are not. -/
def State.resumeHold (s : State) (at_ : Nat) : State :=
  let go := resumed at_ s.now
  let s := allParts.foldl (fun s p => if (s.part p).frozenSince.isSome then s else s.resumeWaits p at_) s
  { s with
    parts := s.parts.map fun (x : Partition) => { x with pendReqs := x.pendReqs.map fun r => { r with since := go r.since } }
    benches := s.benches.map fun (x : Bench) => x.resumeRequests go
    ports := s.ports.map fun (x : Port) => { x with creditSince := x.creditSince.map go }
    loader := { s.loader with cmdAt := go s.loader.cmdAt, phaseAt := go s.loader.phaseAt }
    integ := { s.integ with runs := s.integ.runs.map fun r => { r with at_ := go r.at_ } } }

/-- HOLD_EXIT: work resumes under a supply cap of 0.60 V; frames that hold kept are processed. -/
def execHoldExit (mv : Nat) (s : State) : Result :=
  let x := s.supply
  if s.power ≠ .running || !x.hold || mv < 32000 || !s.passed x.holdSince (us 100) then .next s
  else
    let s := (s.sample mv).resumeHold x.holdSince
    let s := { s with
      supply := { s.supply with hold := false, cap := .v60, capDue := false, caps := satAdd 16 x.caps (b2n x.capDue) }
      stackSet := s.stackSet.map fun (k : Stack) => { k with selfRefresh := false } }
    .next (allPorts.foldl State.replayNow s.setRails.releaseHeld)

/-! The reference (02 R61) -/

/-- REF_LOSS: module time goes on from the internal oscillator, and every port goes down. -/
def execRefLoss (s : State) : Result :=
  if s.power ≠ .running || 2 ≤ s.time.clkMode.toNat || s.time.holdover then .next s
  else
    let s := State.raise { s with time := { s.time with holdover := true, refLoss := satAdd 16 s.time.refLoss 1 } } 0 0 0x0011
    .next (allPorts.foldl (fun s n => s.portDown n 4) s)

/-- REF_RETURN: module time goes back onto the reference; ports may train again, and serve their probation (01 R29). -/
def execRefReturn (s : State) : Result :=
  if s.power ≠ .running || !s.time.holdover then .next s
  else .next { s with time := { s.time with holdover := false } }

end Sys2Proof.Machine
end

