-- ==== Sys2Proof/Machine/Registers.lean ====
section
/-! DEFINITION. Control space (01 R36 to R40): every register at its address, what a read gives and does, what a
write does, and the clerk-core accesses that reach them. -/

namespace Sys2Proof.Machine

open Sys2Proof

/-- A register: its offset, what a read gives, what a read does, and what a write does (00 R13). -/
structure Register where
  off : Nat
  read : State → Nat
  clear : State → State := id
  write : Nat → State → State := fun _ s => s

def ro (off : Nat) (read : State → Nat) : Register := { off := off, read := read }

def rc (off : Nat) (read : State → Nat) (clear : State → State) : Register := { off := off, read := read, clear := clear }

def rw (off : Nat) (read : State → Nat) (write : Nat → State → State) : Register := { off := off, read := read, write := write }

def wo (off : Nat) (write : Nat → State → State) : Register := { off := off, read := fun _ => 0, write := write }

/-- A register of fields: each with its lowest bit, its width and its value. -/
def fields (fs : List (Nat × Nat × Nat)) : Nat := (fs.map fun f => f.2.2 % 2 ^ f.2.1 * 2 ^ f.1).foldl (· + ·) 0

/-- One bit for each index below `n`. -/
def bitSet (n : Nat) (f : Nat → Bool) : Nat := ((List.range n).map fun i => b2n (f i) * 2 ^ i).foldl (· + ·) 0

/-- What a command does that a register write gives. -/
def State.does (s : State) (r : State → Result) : State := match r s with | .next t => t | _ => s

/-- A field whose value is set only where it is legal; else a reserved-code ticket (00 R16). -/
def State.legal (s : State) (ok : Bool) (put : State → State) : State := if ok then put s else s.reservedCode

/-! Module description (01 R40) -/

def Assign.code : Assign → Nat
  | .free => 0
  | .assigned .. => 1
  | .held _ => 2
  | .retired => 3

/-- BENCH_STATE of a bench: retired until the start self-test has completed (17 R463). -/
def State.benchCode (s : State) (t i : Nat) : Nat :=
  if s.start.selftestDone then Assign.code (s.benches.getD (34 * t + i) {}).asg else 3

/-- A port carries the traffic of another direction: that of a direction whose DETOUR names it, or in ring reversal
that of the opposite direction, while the port of that direction does not serve (12 R336, R337). -/
def State.detouring (s : State) (n : Nat) : Bool :=
  let g := s.geo
  let down (d : Nat) : Bool := g.portDir.getD d 0x0F ≠ 0x0F && !((s.ports.getD (g.portDir.getD d 0x0F) {}).serving)
  (s.ports.getD n {}).serving &&
    ((detoured g n).any down ||
      (match dirOfPort g n with | some d => g.detour.getD (opposite d) 0x0F = 0x0E && down (opposite d) | none => false))

def moduleRegs : List Register :=
  [ ro 0x00 fun _ => fields [(0, 16, 0x5708), (16, 8, 0xA1), (24, 8, 0x01)],
    ro 0x08 fun _ => fields [(0, 4, 4), (4, 8, 34), (12, 8, 32), (20, 4, 14), (24, 4, 8), (28, 6, 32), (34, 4, 8)],
    ro 0x10 fun s => s.modPower,
    ro 0x60 fun s => fields [(0, 14, bitSet 14 fun k => (s.stackSet.getD k {}).spareState = 0),
      (14, 8, bitSet 8 fun n => roleOf s.geo n = 1 && !s.detouring n), (22, 4, s.house.spares.length)] ] ++
  (List.range 4).flatMap fun t =>
    [ ro (0x20 + 0x10 * t) fun s => fields ((List.range 32).map fun i => (2 * i, 2, s.benchCode t i)),
      ro (0x28 + 0x10 * t) fun s => fields [(0, 2, s.benchCode t 32), (2, 2, s.benchCode t 33)] ]

/-! The counting house (15 R429; 14 R419; 17 R479) -/

/-- Eight bytes of a text or an address, the first in the lowest bits (15 R429). -/
def bytes8 (bs : List Byte) (i : Nat) : Nat := leNat (sliceAt bs (8 * i) 8)

/-- A write of CH_RETIRE (15 R430): a class that names no unit is a bad designator. -/
def State.writeRetire (s : State) (v : Nat) : State :=
  let a := bits v 15 8
  let c := bits v 23 16
  match bits v 3 0 with
  | 2 => s.does (execChRetireBench a c)
  | 5 => s.does (execChRetireChannel a c)
  | 6 => s.does (execChRetirePort a c)
  | 7 => s.does (execChRetireLane a c)
  | 8 => s.does (execChRetireClerk a c)
  | _ => State.retireDone (3, s)

/-- A write of CH_WDOG: every heartbeat watch starts anew with the new timeout. -/
def State.writeWdog (s : State) (v : Nat) : State :=
  let n := v % 65536
  s.legal (n = 0 || (10 ≤ n && n ≤ 60000)) fun s =>
    { s with house := { s.house with wdog := n, beats := List.replicate 32 s.now } }

def State.writeStartCtl (s : State) (v : Nat) : State :=
  let s := if bits v 3 0 = 0 then s else s.does (execStartCtlStage (bits v 3 0))
  if bit v 4 then s.does execStartCtlDone else s

def State.writeLcCmd (s : State) (v : Nat) : State :=
  let confirm := BitVec.ofNat 32 (bits v 63 32)
  match bits v 3 0 with
  | 1 => s.does (execLcNonce confirm)
  | 2 => s.does (execLcField confirm)
  | 3 => s.does (execLcReturn confirm)
  | 4 => s.does (execLcVoid confirm)
  | _ => s.reservedCode

def State.writeFlCmd (s : State) (v : Nat) : State :=
  let count := bits v 31 16
  match bits v 2 0 with
  | 1 => s.does (execFlRead count)
  | 2 => s.does (execFlProgram count)
  | 3 => s.does (execFlErase count)
  | 4 => s.does (execFlCommit count)
  | _ => s.reservedCode

def LifeCycle.code : LifeCycle → Nat
  | .maker => 0
  | .field => 1
  | .return_ => 2
  | .void_ => 3

def startRegs : List Register :=
  [ ro 0x300 fun s => fields [(0, 2, s.start.bootSrc.toNat), (2, 2, s.time.clkMode.toNat), (4, 4, s.start.stage), (8, 1, b2n s.start.recovery),
      (9, 1, b2n s.start.done), (10, 1, b2n s.start.selftestDone), (11, 1, b2n s.start.failed)],
    ro 0x308 fun s => fields [(0, 4, s.nv.ledger), (4, 1, b2n s.start.clearPending)],
    wo 0x310 fun v s => s.writeStartCtl v,
    ro 0x318 fun s => fields [(0, 2, LifeCycle.code s.nv.life), (2, 1, b2n s.debugIsOpen), (3, 7, s.nv.arbCount), (10, 7, s.start.imageSvn),
      (17, 1, b2n s.start.devKey)],
    rw 0x340 (fun s => s.start.lcAuth) fun v s => { s with start := { s.start with lcAuth := bits v 47 0 } },
    wo 0x348 fun v s => s.writeLcCmd v,
    ro 0x350 fun s => s.start.lcResult.toNat,
    rw 0x358 (fun s => s.start.flAddr) fun v s => { s with start := { s.start with flAddr := bits v 31 0 } },
    rw 0x360 (fun s => s.start.flBuf) fun v s => { s with start := { s.start with flBuf := bits v 47 0 } },
    wo 0x368 fun v s => s.writeFlCmd v,
    ro 0x370 fun s => fields [(0, 1, b2n s.start.flBusy.isSome), (1, 3, s.start.flResult.toNat)],
    ro 0x378 fun s => fields [(0, 16, s.start.flSizeMib), (16, 1, b2n s.start.sfdpOk)] ] ++
  (List.range 4).map fun n => ro (0x320 + 8 * n) fun s => bytes8 (s.start.nonce.getD []) n

/-- The integrity registers of a partition (14 R419). -/
def partIntegRegs (p : PartId) : List Register :=
  let at_ := 0x100000 + 0x40 * p.val
  [ rw at_ (fun s => (s.integOf p).step.toNat) fun v s => s.modInteg p fun x => { x with step := BitVec.ofNat 64 v, stepSet := true },
    rw (at_ + 0x08) (fun s => fields [(6, 42, (s.integOf p).groupTable), (48, 16, (s.integOf p).groupCount)])
      fun v s => s.modInteg p fun x => { x with groupTable := bits v 47 6, groupCount := bits v 63 48 },
    ro (at_ + 0x10) fun s => let x := s.integOf p; fields [(0, 32, x.tallyStep), (32, 3, x.verdict.toNat), (35, 16, x.present)],
    ro (at_ + 0x18) fun s => let x := s.integOf p; fields [(0, 16, x.barrierEpoch.toNat), (16, 16, x.ready.length), (32, 1, b2n x.barrierDone)],
    ro (at_ + 0x20) fun s => bytes8 (s.integOf p).tval 0,
    ro (at_ + 0x28) fun s => bytes8 (s.integOf p).tval 1,
    ro (at_ + 0x30) fun s => fields [(0, 32, (s.integOf p).agreed), (32, 32, (s.integOf p).groupMin)] ]

/-- A write of IN_CFG: ARB_EN is set in any case. -/
def State.writeInCfg (s : State) (v : Nat) : State :=
  let n := bits v 13 0
  State.legal { s with integ := { s.integ with arbEn := bit v 14 } } (100 ≤ n && n ≤ 10000) fun s =>
    { s with integ := { s.integ with timeoutMs := n } }

def integRegs : List Register :=
  [ rw 0x100200 (fun s => fields [(0, 14, s.integ.timeoutMs), (14, 1, b2n s.integ.arbEn)]) fun v s => s.writeInCfg v,
    rc 0x100208 (fun s => match s.integ.lastArb with
        | some (t, b, at_, ab, k, v) => fields [(0, 2, t), (2, 6, b), (8, 2, at_), (10, 6, ab), (16, 3, k), (19, 3, v)]
        | none => 0)
      fun s => { s with integ := { s.integ with lastArb := none } },
    rw 0x100210 (fun s => fields [(6, 42, s.integ.extraTable), (48, 9, s.integ.extraCount)])
      fun v s => { s with integ := { s.integ with extraTable := bits v 47 6, extraCount := bits v 56 48 } } ] ++
  allParts.flatMap partIntegRegs

def houseRegs : List Register :=
  [ ro 0x00 fun s => fields [(0, 1, b2n s.house.link), (1, 1, b2n s.house.slot.isSome), (2, 1, b2n s.relays)],
    ro 0x08 fun s => match s.house.netPrefix with | some p => p.toNat | none => 0,
    ro 0x10 fun s => match s.house.netPrefix with | some _ => s.house.iid.toNat | none => 0,
    ro 0x18 fun s => (s.house.mgr.getD 0).toNat % 2 ^ 64,
    ro 0x20 fun s => (s.house.mgr.getD 0).toNat / 2 ^ 64,
    ro 0x48 fun s => fields [(0, 11, s.house.tickets.length), (11, 32, s.house.lost)],
    wo 0x50 fun v s => s.writeRetire v,
    ro 0x58 fun s => s.house.retireStatus.toNat,
    ro 0x60 fun s => fields [(0, 32, s.house.active.toNat), (32, 32, s.house.failed.toNat)],
    wo 0x68 fun v s => s.does (execChBeat (Fin.ofNat 32 v)),
    rw 0x70 (fun s => s.house.wdog) fun v s => s.writeWdog v,
    rw 0x78 (fun s => s.house.entry) fun v s => { s with house := { s.house with entry := bits v 47 0 } } ] ++
  ((List.range 4).map fun n => ro (0x28 + 8 * n) fun s => bytes8 (s.house.slot.getD []) n) ++ startRegs ++ integRegs

/-! The pattern loader (03 R104) -/

def State.writePlCmd (s : State) (v : Nat) : State :=
  let p : PartId := Fin.ofNat 8 (bits v 6 4)
  match bits v 3 0 with
  | 1 => s.does execPlLoad
  | 2 => s.does (execPlUnload p)
  | 3 => s.does (execPlUnloadSnapshot p)
  | 4 => s.does (execPlRelease p)
  | _ => s.reservedCode

def loaderRegs : List Register :=
  [ rw 0x00 (fun s => s.loader.src) fun v s => { s with loader := { s.loader with src := bits v 47 0 } },
    rw 0x08 (fun s => s.loader.len) fun v s => { s with loader := { s.loader with len := bits v 20 0 } },
    wo 0x10 fun v s => s.writePlCmd v,
    ro 0x18 fun s => let l := s.loader
      fields [(0, 1, b2n l.busy), (1, 3, l.result.toNat), (4, 1, b2n l.drainTimeout), (8, 8, l.code), (16, 8, l.sect), (24, 20, l.offset)],
    ro 0x20 fun s =>
      let of (f : Partition → Bool) : Nat := bitSet 8 fun j => f (s.parts.getD j {})
      fields [(0, 8, of (·.loaded)), (8, 8, of (·.rinsing)), (16, 8, of (·.snapshot)), (24, 1, b2n s.loader.geometry.isSome),
        (25, 1, b2n s.loader.staged.isSome)],
    ro 0x28 fun s => s.loader.lastTime % 2 ^ 32 ] ++
  (List.range 8).map fun j => ro (0x40 + 8 * j) fun s => let x := s.parts.getD j {}
    fields [(0, 16, x.epoch.toNat), (16, 8, x.benches.length), (24, 8, x.reserves.length)]

/-! The crossing (12 R368) -/

/-- A regulator's register: RATE and DEPTH of the record, and its level (11 R325). -/
def State.regulator (s : State) (target : Nat) (k : Bucket) (p : PartId) : Nat :=
  match s.record target p with
  | some r => fields [(0, 11, r.rate), (11, 16, r.depth), (27, 27, k.lvl.getD p.val 0)]
  | none => 0

/-- A write of PORT_CTL: DISABLE where it changes, then RECAL_NOW. -/
def State.writePortCtl (s : State) (n : PortId) (v : Nat) : State :=
  let s := if bit v 0 = (s.port n).disable then s else s.does (execPortCtlDisable n (bit v 0))
  if bit v 1 then s.does (execRecalNow n) else s

def portRegs (n : PortId) : List Register :=
  let at_ := 0x1000 + 0x100 * n.val
  [ ro at_ fun s =>
      let x := s.port n
      fields [(0, 3, x.state.toNat), (3, 3, if s.loader.geometry.isSome then roleOf s.geo n.val else 0),
        (6, 3, if s.loader.geometry.isSome then (dirOfPort s.geo n.val).getD 7 else 0), (9, 1, b2n (s.detouring n.val)),
        (10, 4, x.idleLane.getD 15), (14, 4, x.cause), (18, 10, min 1023 x.lostLast)],
    rw (at_ + 0x08) (fun s => fields [(0, 1, b2n (s.port n).disable), (2, 1, b2n (s.port n).retired)]) fun v s => s.writePortCtl n v,
    ro (at_ + 0x10) fun s => match (s.port n).peer with
      | some (c, k, hw, r) => fields [(0, 18, c), (18, 3, k), (21, 16, hw), (37, 3, r)]
      | none => 0,
    rc (at_ + 0x18) (fun s => fields [(0, 32, (s.port n).fecCorr), (32, 32, (s.port n).fecUnc)])
      fun s => s.modPort n fun x => { x with fecCorr := 0, fecUnc := 0 },
    rc (at_ + 0x20) (fun s => fields [(0, 32, (s.port n).replays), (32, 32, (s.port n).crcFail)])
      fun s => s.modPort n fun x => { x with replays := 0, crcFail := 0 },
    ro (at_ + 0x28) fun s => (s.port n).probeBits % 2 ^ 40,
    ro (at_ + 0x30) fun s => (s.port n).txCount,
    ro (at_ + 0x38) fun s => (s.port n).rxCount ] ++
  allParts.flatMap fun p =>
    [ ro (at_ + 0x80 + 8 * p.val) fun s => s.regulator (0x20 + n.val) (s.port n).txBucket p,
      ro (at_ + 0xC0 + 8 * p.val) fun s => s.regulator (0x20 + n.val) (s.port n).rxBucket p ]

def crossingRegs : List Register :=
  [ ro 0x00 fun s => fields [(0, 1, b2n s.portsOn), (1, 1, b2n s.supply.hold),
      (2, 6, ((s.parts.filter (·.loaded)).map fun x => x.trees.length).foldl (· + ·) 0)],
    rw 0x08 (fun s => s.cx.recal) fun v s =>
      let n := bits v 10 0
      s.legal (n = 0 || (10 ≤ n && n ≤ 1440)) fun s => { s with cx := { s.cx with recal := n } },
    rc 0x10 (fun s => fields [(0, 16, s.cx.dropFormat), (16, 16, s.cx.dropRoute), (32, 16, s.cx.dropNoPart), (48, 16, s.cx.dropTree)])
      fun s => { s with cx := { s.cx with dropFormat := 0, dropRoute := 0, dropNoPart := 0, dropTree := 0 } },
    rc 0x18 (fun s => fields [(0, 32, s.cx.older), (32, 32, s.cx.newer)]) fun s => { s with cx := { s.cx with older := 0, newer := 0 } },
    rc 0x20 (fun s => fields [(0, 32, s.cx.lost)]) fun s => { s with cx := { s.cx with lost := 0 } },
    ro 0x28 fun s => s.cx.transit ] ++
  allPorts.flatMap portRegs

/-! A stack controller (11 R325) -/

/-- REFRESH: 1x, 2x or 4x by the row of R305. -/
def refreshCode (row : Nat) : Nat := if row = 0 then 0 else if row ≤ 2 then 1 else 2

def stackRegs (k : StackId) : List Register :=
  [ rw 0x00 (fun s => fields [(0, 2, (s.stack k).mode.toNat), (2, 1, b2n (s.stack k).lock)]) fun v s => s.does (execStCtlWrite k (BitVec.ofNat 64 v)),
    ro 0x08 fun s => let x := s.stack k
      fields [(0, 2, if 12 ≤ k.val && x.row = 2 then 1 else x.row), (2, 2, refreshCode x.row), (4, 1, b2n x.selfRefresh), (5, 1, b2n x.degraded), (6, 1, b2n x.zeroBusy)],
    ro 0x10 fun s => (tempWord (s.stack k).temp).toNat,
    rw 0x18 (fun s => (s.stack k).ceThresh) fun v s =>
      let n := bits v 15 0
      s.legal (n ≠ 0) fun s => s.modStack k fun x => { x with ceThresh := n },
    rc 0x20 (fun s => fields [(0, 32, (s.stack k).ue)]) fun s => s.modStack k fun x => { x with ue := 0 },
    rc 0x28 (fun s => fields [(0, 40, (s.stack k).ueAddr.getD 0)]) fun s => s.modStack k fun x => { x with ueAddr := none },
    rw 0x30 (fun s => (s.stack k).scrubH) fun v s =>
      let n := bits v 7 0
      s.legal (1 ≤ n && n ≤ 168) fun s => s.modStack k fun x => { x with scrubH := n },
    rw 0x38 (fun s => (s.stack k).zeroBase) fun v s => s.modStack k fun x => { x with zeroBase := bits v 39 0 },
    rw 0x40 (fun s => (s.stack k).zeroLen) fun v s => s.modStack k fun x => { x with zeroLen := bits v 39 0 },
    wo 0x48 fun v s => if bit v 0 then s.does (execZeroGo k) else s,
    ro 0x50 fun s => let x := s.stack k; fields [(0, 2, x.spareState.toNat), (2, 5, x.replaced), (7, 33, x.pointer)],
    ro 0x58 fun s => (s.stack k).stainReads,
    ro 0x60 fun s => (s.stack k).readLines,
    ro 0x68 fun s => (s.stack k).writeLines ] ++
  ((List.range 17).map fun n => rc (0x100 + 8 * n) (fun s => fields [(0, 32, (s.stack k).ce.getD n 0)])
    fun s => s.modStack k fun x => { x with ce := x.ce.set n 0 }) ++
  allParts.map fun p => ro (0x200 + 8 * p.val) fun s => s.regulator k.val (s.stack k).bucket p

/-! Supply and rails (16 R453, R454) -/

def SupplyCap.code : SupplyCap → Nat
  | .none => 0
  | .v70 => 1
  | .v60 => 2

def supplyRegs : List Register :=
  [ ro 0x00 fun s => fields [(0, 2, if s.supply.hold then 3 else SupplyCap.code s.supply.cap), (2, 1, b2n s.supply.hold),
      (3, 1, b2n s.supply.surgeSince.isSome), (4, 1, b2n s.supply.coolantHot)],
    ro 0x08 fun s => fields [(0, 16, s.supply.mv), (16, 16, s.supply.current)],
    rc 0x10 (fun s => fields [(0, 16, s.supply.dips), (16, 16, s.supply.caps), (32, 16, s.supply.holds), (48, 16, s.supply.surges)])
      fun s => { s with supply := { s.supply with dips := 0, caps := 0, holds := 0, surges := 0 } },
    rc 0x18 (fun s => if 0x10000 ≤ s.supply.minMv then 0 else s.supply.minMv) fun s => { s with supply := { s.supply with minMv := 0x10000 } },
    ro 0x60 fun s => fields [(0, 4, bitSet 4 fun t => s.supply.denied.getD t false),
      (4, 14, (allTiles.map s.boostTime).foldl (· + ·) 0 / ms 10)] ] ++
  allTiles.flatMap fun t =>
    [ rw (0x20 + 0x10 * t.val) (fun s => s.supply.railSet.getD t.val 0) fun v s => s.does (execRailSetWrite t (BitVec.ofNat 64 v)),
      ro (0x28 + 0x10 * t.val) fun s =>
        fields [(0, 10, s.supply.railNow.getD t.val 0), (10, 3, if s.tileIsOn t.val then (s.railTarget t).2 else 0),
          (13, 1, b2n (s.supply.moving.getD t.val false)), (14, 10, s.supply.jcap.getD t.val 0)] ]

/-- The sensors of a tile; TS_RAIL gives the value of the last renewal. -/
def senseRegs (t : TileId) : List Register :=
  [ ro 0x00 fun s => (tempWord (s.supply.junction.getD t.val 0)).toNat,
    rc 0x08 (fun s => let m := s.supply.jMax.getD t.val 0; if m = -32768 then 0 else (tempWord m).toNat)
      fun s => { s with supply := { s.supply with jMax := s.supply.jMax.set t.val (-32768) } },
    ro 0x10 fun s => (s.sensor (0x30 + t.val)).toNat % 1024 ]

/-! Module time (02 R70) -/

/-- The registers of a tile's step rate. DEDUCED (log 123): in hold RATE alone reads 0; FLOOR and SHORTFALL stay. -/
def tileTimeRegs (t : TileId) : List Register :=
  let at_ := 0x20 + 0x20 * t.val
  let on (s : State) (n : Nat) : Nat := if s.tileIsOn t.val then n else 0
  [ ro at_ fun s => on s (s.time.stepCount.getD t.val 0),
    ro (at_ + 0x08) fun s => on s (fields [(0, 16, if s.supply.hold then 0 else s.time.stepRate.getD t.val 0), (16, 16, s.floorOf t),
      (32, 1, b2n (s.time.shortfall.getD t.val false))]),
    rc (at_ + 0x10) (fun s => on s (s.time.stepMin.getD t.val 0))
      fun s => if s.tileIsOn t.val then { s with time := { s.time with stepMin := s.time.stepMin.set t.val 65535 } } else s ]

/-- The hub's guaranteed minimum (02 R51, R53): its rail stands at 0.80 V. -/
def hubFloor : Nat := floorAt 800

def timeRegs : List Register :=
  [ ro 0x00 fun s => s.now,
    ro 0x08 fun s => fields [(0, 2, s.time.clkMode.toNat), (2, 1, b2n (2 ≤ s.time.clkMode.toNat || s.time.holdover)), (3, 1, b2n s.time.holdover)],
    rc 0x10 (fun s => s.time.refLoss) fun s => { s with time := { s.time with refLoss := 0 } },
    rw 0x18 (fun s => s.time.wtMgmt) fun v s =>
      let n := bits v 13 0
      s.legal (100 ≤ n && n ≤ 10000) fun s => { s with time := { s.time with wtMgmt := n } },
    ro 0xA0 fun s => s.time.hubCount,
    ro 0xA8 fun s => fields [(0, 16, if s.supply.hold then 0 else s.time.hubRate), (16, 16, hubFloor)] ] ++
  allTiles.flatMap tileTimeRegs

/-! The clerk-core platform (15 R426) -/

/-- HART, LEVEL and THRESH of a route; the reserved LEVEL leaves the level as it is. -/
def routeWrite (v level : Nat) : Nat × Nat × Nat := (bits v 4 0, if bits v 6 5 = 3 then level else bits v 6 5, bits v 23 8)

def State.ticketLevel (s : State) (v : Nat) : State := if bits v 6 5 = 3 then s.reservedCode else s

def ringRegs (p : PartId) : List Register :=
  let at_ := 0x40 * p.val
  [ rw at_ (fun s => (s.ring p).base) fun v s =>
      let pa := bits v 47 12 * 4096
      s.legal (pa = 0 || inHub pa) fun s => s.modRing p fun r => { r with base := pa },
    rw (at_ + 0x08) (fun s => (s.ring p).size) fun v s =>
      let n := bits v 4 0
      s.legal (7 ≤ n && n ≤ 20) fun s => s.modRing p fun r => { r with size := n },
    ro (at_ + 0x10) fun s => (s.ring p).head.toNat,
    rw (at_ + 0x18) (fun s => (s.ring p).tail.toNat) fun v s => s.does (execErTailWrite p (BitVec.ofNat 32 v)),
    rw (at_ + 0x20) (fun s => fields [(0, 5, (s.ring p).hart), (5, 2, (s.ring p).level), (8, 16, (s.ring p).thresh)]) fun v s =>
      State.ticketLevel (s.modRing p fun r =>
        let (h, l, n) := routeWrite v r.level
        { r with hart := h, level := l, thresh := n }) v,
    rc (at_ + 0x28) (fun s => (s.ring p).lost) fun s => s.modRing p fun r => { r with lost := 0 } ]

/-- THRESH of ER_FAIL_ROUTE is kept and read back; a failure is signalled without regard to it. -/
def platformRegs : List Register :=
  [ rw 0x200 (fun s => fields [(0, 5, s.failRoute.1), (5, 2, s.failRoute.2.1), (8, 16, s.failRoute.2.2)]) fun v s =>
      State.ticketLevel { s with failRoute := routeWrite v s.failRoute.2.1 } v ] ++
  allParts.flatMap ringRegs

/-! A bench (07 R238; 05 R152; 06 R189; 08 R255; 09 R273; 13 R388; 14 R418) -/

/-- STATE of BQ_STATUS: held, or stopped by a fault of its partition, before running and halted. -/
def State.benchState (s : State) (b : BenchId) : Nat :=
  let x := s.bench b
  let faulted : Bool := match x.partOf with | some p => (s.part p).stopped | none => false
  if x.hold ≠ .none || faulted then 3
  else match x.seqState with
    | .idle => 0
    | .running => 1
    | .halted => 2

/-- A write of BQ_CTL: FORCE_EXACT, then CLR_TOKENS, START and STOP. -/
def State.writeBqCtl (s : State) (b : BenchId) (v : Nat) : State :=
  let s := s.modBench b fun x => { x with forceExact := bit v 3 }
  let s := if bit v 2 then s.does (execBqClrTokens b) else s
  let s := if bit v 0 then s.does (execBqStart b) else s
  if bit v 1 then s.does (execBqStop b) else s

/-- A register that firmware may not write while the bench runs (07 R197; 08 R255). -/
def State.whenIdle (s : State) (b : BenchId) (f : Bench → Bench) : State :=
  if (s.bench b).seqState = .running then s.misuse else s.modBench b f

def flagsCode (f : Flags) : Nat := b2n f.nanIn + 2 * b2n f.invalid + 4 * b2n f.overflow

def benchQueueRegs (b : BenchId) : List Register :=
  let x (s : State) : Bench := s.bench b
  [ rw 0x00 (fun s => 8 * b2n (x s).forceExact) fun v s => s.writeBqCtl b v,
    ro 0x08 fun s => fields [(0, 2, s.benchState b), (2, 9, (x s).queue.length), (11, 6, (x s).fStream.length), (17, 6, (x s).bStream.length),
      (23, 3, (x s).loops.length)],
    rw 0x10 (fun s => (x s).pc) fun v s => s.whenIdle b fun x => { x with pc := bits v 47 0 },
    rw 0x18 (fun s => (x s).dtab) fun v s => s.whenIdle b fun x => { x with dtab := bits v 47 0 },
    rw 0x20 (fun s => (x s).dcount) fun v s => s.whenIdle b fun x => { x with dcount := bits v 16 0 },
    rw 0x28 (fun s => (x s).seed.toNat) fun v s => s.does (execBqSeedWrite b (BitVec.ofNat 64 v)),
    ro 0x30 fun s => (x s).draw.toNat,
    rc 0x38 (fun s => flagsCode (x s).bqFlags) fun s => s.modBench b fun x => { x with bqFlags := {} },
    rc 0x40 (fun s => match (x s).fault with | some (c, o, q) => fields [(0, 8, c), (8, 8, o), (16, 1, b2n q)] | none => 0)
      fun s => s.modBench b fun x => { x with fault := none },
    rc 0x48 (fun s => (x s).faultPc) fun s => s.modBench b fun x => { x with faultPc := 0 },
    ro 0x50 fun s => (x s).issuedCount,
    ro 0x58 fun s => (x s).headWait ] ++
  (List.range 64).map fun n => ro (0x10000 + 8 * n) fun s => ((x s).tokens.getD n 0).toNat

/-- Some order of a unit has issued and has still to run. -/
def Bench.unitBusy (x : Bench) (f : UnitName → Bool) : Bool := x.inflight.any fun i => !i.ran && f (Order.runsOn i.dec.body)

def Bench.pressBusy (x : Bench) : Bool := x.inflight.any fun i => !i.ran && Order.isPress i.dec.body

def benchMangleRegs (b : BenchId) : List Register :=
  let x (s : State) : Bench := s.bench b
  let stained (s : State) (i : Nat) : Bool := (List.range 4).any fun q => ((x s).tiles.getD (2 * q + i) {}).stained
  [ ro 0x40000 fun s => fields [(0, 1, b2n (x s).pressBusy), (1, 1, b2n (stained s 0)), (2, 1, b2n (stained s 1)), (3, 1, b2n (x s).quad),
      (4, 1, b2n ((x s).hold = .examiner))],
    rw 0x40008 (fun s => b2n (x s).examEn) fun v s => s.modBench b fun x => { x with examEn := bit v 0 && x.checkerOff ≠ .examiner },
    rc 0x40010 (fun s => match (x s).examFirst with
        | some (l, d, q) => fields [(0, 16, (x s).examCount), (16, 5, l), (21, 1, b2n d), (22, 2, q)]
        | none => fields [(0, 16, (x s).examCount)])
      fun s => s.modBench b fun x => { x with examCount := 0, examFirst := none },
    ro 0x40018 fun s => fields [(0, 32, (x s).gatedRows.toNat), (32, 32, (x s).gatedCols.toNat)],
    ro 0x40020 fun s => (x s).mgVectors,
    ro 0x40028 fun s => (x s).mgBusySteps,
    ro 0x40080 fun s => fields ((List.range 8).map fun m => (8 * m, 8, ((x s).masks.getD m {}).tail.toNat)) ] ++
  (List.range 8).map fun m => ro (0x40040 + 8 * m) fun s =>
    fields [(0, 32, ((x s).masks.getD m {}).rows.toNat), (32, 32, ((x s).masks.getD m {}).cols.toNat)]

def benchDarnerRegs (b : BenchId) : List Register :=
  let x (s : State) : Bench := s.bench b
  let busy (s : State) (u : UnitName) : Nat := b2n ((x s).unitBusy (· = u))
  [ ro 0x50000 fun s => fields [(0, 1, busy s .gather), (1, 1, busy s .merge), (2, 1, busy s .sort), (3, 1, busy s .vector), (4, 1, busy s .digest),
      (5, 1, b2n ((x s).hold = .shadow)), (6, 1, b2n (x s).dnFaultStands)],
    rc 0x50008 (fun s => match (x s).dnFault with | some (c, u) => fields [(0, 8, c), (8, 3, u)] | none => 0)
      fun s => s.modBench b fun x => { x with dnFault := none },
    rc 0x50010 (fun s => let (r, k, c, g) := (x s).dnWhere; fields [(0, 24, r), (24, 28, k), (52, 5, c), (57, 3, g)])
      fun s => s.modBench b fun x => { x with dnWhere := (0, 0, 0, 0) },
    rc 0x50018 (fun s => fields [(0, 32, (x s).dnKeep)]) fun s => s.modBench b fun x => { x with dnKeep := 0 },
    rw 0x50020 (fun s => b2n (x s).shadowEn) fun v s => s.modBench b fun x => { x with shadowEn := bit v 0 && x.checkerOff ≠ .shadow },
    rc 0x50028 (fun s => match (x s).shadowFirst with
        | some (g, l) => fields [(0, 16, (x s).shadowCount), (16, 5, g), (21, 4, l)]
        | none => fields [(0, 16, (x s).shadowCount)])
      fun s => s.modBench b fun x => { x with shadowCount := 0, shadowFirst := none },
    ro 0x50030 fun s => (x s).splitRows,
    ro 0x50038 fun s => (x s).pairsOut,
    ro 0x50040 fun s => (x s).vecSteps ]

/-- A write of BD_TC_CTL: INVAL_ALL, then INVAL_VA. -/
def State.writeTcCtl (s : State) (b : BenchId) (v : Nat) : State :=
  let s := if bit v 0 then s.does (execInvalAll b) else s
  if bit v 1 then s.does (execInvalVa b (bits v 47 21 * 2 ^ 21)) else s

def benchMemoryRegs (b : BenchId) : List Register :=
  let x (s : State) : Bench := s.bench b
  [ ro 0x60000 fun s => fields [(0, 3, (x s).walks.length), (3, 1, b2n ((x s).invalWaits.any fun l => (x s).lineReqs.any fun r => r.1 = l))],
    rw 0x60008 (fun s => (x s).oobBase) fun v s => s.whenIdle b fun x => { x with oobBase := bits v 47 0 },
    ro 0x60010 fun s => (x s).oobTotal,
    rc 0x60018 (fun s => fields [(0, 16, (x s).oobLast.getD 0), (16, 1, b2n (x s).oobLast.isSome), (17, 1, b2n (x s).countLost)])
      fun s => s.modBench b fun x => { x with oobLast := none, countLost := false },
    rc 0x60020 (fun s => match (x s).bdFault with | some (c, d, w) => fields [(0, 3, c), (3, 16, d), (19, 1, b2n w)] | none => 0)
      fun s => s.modBench b fun x => { x with bdFault := none },
    rc 0x60028 (fun s => (x s).bdFaultVa) fun s => s.modBench b fun x => { x with bdFaultVa := 0 },
    wo 0x60030 fun v s => s.writeTcCtl b v,
    ro 0x60038 fun s => (x s).tcMiss,
    ro 0x60040 fun s => (x s).bdLines ]

def causeCode (f : Option (Nat × Nat)) (w : Nat) : Nat := match f with | some (c, i) => fields [(0, 3, c), (3, w, i)] | none => 0

/-- The orders in flight that `is` tells, issued and not completed, with those of `seqs` that no slot holds (09 R273; 13 R388). -/
def Bench.crossInFlight (x : Bench) (is : Order → Bool) (seqs : List Nat) : Nat :=
  (x.inflight.filter fun i => is i.dec.body).length + (seqs.filter fun q => x.inflight.all fun i => i.dec.seq ≠ q).length

/-- The EXCHANGE orders in flight: those issued that have not completed (09 R273). -/
def Bench.exchangesInFlight (x : Bench) : Nat :=
  x.crossInFlight (fun o => match o with | .exchange _ => true | _ => false) (x.exchanges.map (·.seq))

/-- The FOLD orders in flight (13 R388). -/
def Bench.foldsInFlight (x : Bench) : Nat :=
  x.crossInFlight (fun o => match o with | .fold _ => true | _ => false) (x.folds.map (·.seq))

def benchCrossRegs (b : BenchId) : List Register :=
  let x (s : State) : Bench := s.bench b
  [ ro 0x70000 fun s => fields [(0, 4, (x s).exchangesInFlight), (4, 1, b2n ((x s).exchanges.any fun e => e.rx.any fun r => r.counts.isNone))],
    ro 0x70008 fun s => (x s).exOverflow,
    ro 0x70010 fun s => (x s).exOob,
    rc 0x70018 (fun s => causeCode (x s).exFault 32) fun s => s.modBench b fun x => { x with exFault := none },
    ro 0x80000 fun s => fields [(0, 4, (x s).foldsInFlight), (4, 1, b2n !(x s).poolWaits.isEmpty),
      (5, 1, b2n ((x s).folds.any (fun c => c.staged ≠ 0) && Config.stagingNow s.freeCtr s.now))],
    ro 0x80008 fun s => fields [(0, 26, 64 * ((s.cache b.tile).stageLines.filter fun e => e.2 = b.phys).length)],
    ro 0x80010 fun s => (x s).fdOut,
    ro 0x80018 fun s => (x s).fdIn,
    rc 0x80020 (fun s => causeCode (x s).fdFault 8) fun s => s.modBench b fun x => { x with fdFault := none } ]

def benchIntegRegs (b : BenchId) : List Register :=
  let x (s : State) : Bench := s.bench b
  let four (ns : List Nat) : Nat := fields ((List.range 4).map fun i => (16 * i, 16, ns.getD i 0))
  [ ro 0x90000 fun s => fields [(0, 3, HoldKind.code (x s).hold), (3, 1, b2n (x s).arbitrating), (4, 1, b2n (x s).arbiter), (5, 1, b2n (x s).testing),
      (6, 1, b2n (x s).unchecked)],
    rw 0x90008 (fun s => fields [(2, 1, b2n (x s).testPending.isSome), (3, 2, (x s).testResult.toNat), (5, 3, (x s).failUnit.toNat)])
      fun v s => if bit v 0 then s.does (execBiTestGo b (bit v 1)) else s,
    rc 0x90010 (fun s => four (x s).sram) fun s => s.modBench b fun x => { x with sram := [0, 0, 0, 0] },
    ro 0x90018 fun s => four (x s).verdicts ]

def benchRegs (b : BenchId) : List Register :=
  benchQueueRegs b ++ benchMangleRegs b ++ benchDarnerRegs b ++ benchMemoryRegs b ++ benchCrossRegs b ++ benchIntegRegs b

/-! A tile cache (11 R326, R311) -/

def amoRegs (t : TileId) (c : CoreId) : List Register :=
  let at_ := 0x100 + 0x40 * c.val
  let w (s : State) : AmoWin := (s.cache t).amo.getD c.val {}
  let put (s : State) (f : AmoWin → AmoWin) : State := s.modCache t fun x => { x with amo := x.amo.modify c.val f }
  [ rw at_ (fun s => (w s).addr) fun v s => put s fun x => { x with addr := bits v 47 0 },
    rw (at_ + 0x08) (fun s => (w s).opnd.toNat) fun v s => put s fun x => { x with opnd := BitVec.ofNat 64 v },
    rw (at_ + 0x10) (fun s => (w s).exp.toNat) fun v s => put s fun x => { x with exp := BitVec.ofNat 64 v },
    wo (at_ + 0x18) fun v s => s.does (execTcAmoGo t c (BitVec.ofNat 64 v) 0),
    ro (at_ + 0x20) fun s => (w s).old.toNat,
    ro (at_ + 0x28) fun s => (w s).stat.toNat ]

def allCores : List CoreId := (List.range 32).map (Fin.ofNat 32)

/-- A partition whose lines a tile cache writes back or drops: in the rinse of a load, or with its benches on the tile. -/
def State.rinsesOn (s : State) (t : TileId) (j : Nat) : Bool :=
  (s.loader.phase = LoadPhase.rinse && s.loader.toRinse.contains (Fin.ofNat 8 j) && s.tileIsOn t.val) ||
  (allBenches.filter fun b => b.tile = t).any fun b => (s.bench b).rinsing = some (Fin.ofNat 8 j) && !(s.bench b).snapshot

def cacheRegs (t : TileId) : List Register :=
  [ ro 0x00 fun s => fields [(0, 8, bitSet 8 fun j => s.rinsesOn t j), (8, 20, min 0xFFFFF ((s.cache t).lines.countP (·.stain)))],
    ro 0x08 fun s => (s.cache t).hits,
    ro 0x10 fun s => (s.cache t).misses,
    ro 0x18 fun s => (s.cache t).atomics,
    ro 0x20 fun s => (s.cache t).forwarded,
    rc 0x28 (fun s => fields [(0, 32, (s.cache t).errCorr), (32, 16, (s.cache t).errDouble)])
      fun s => s.modCache t fun x => { x with errCorr := 0, errDouble := 0 } ] ++
  allCores.flatMap (amoRegs t)

/-! The map (01 R37) -/

/-- The block of an offset in the window of a tile, with the offset in it. -/
def tileBlock (t : TileId) (o : Nat) : List Register × Nat :=
  if h : o / 2 ^ 20 < 34 then (benchRegs ⟨t, ⟨o / 2 ^ 20, h⟩⟩, o % 2 ^ 20)
  else if o / 2 ^ 24 = 0x10 then (cacheRegs t, o % 2 ^ 24)
  else if o / 2 ^ 24 = 0x11 then
    if o % 2 ^ 24 / 2 ^ 20 < 3 then (stackRegs (Fin.ofNat 14 (3 * t.val + o % 2 ^ 24 / 2 ^ 20)), o % 2 ^ 20) else ([], 0)
  else if o / 2 ^ 20 = 0x130 then (senseRegs t, o % 2 ^ 20)
  else ([], 0)

/-- The block of an offset in the hub's windows, with the offset in it. -/
def hubBlock (o : Nat) : List Register × Nat :=
  let i := o % 2 ^ 24
  match o / 2 ^ 24 with
  | 0 => (moduleRegs, i)
  | 1 => (houseRegs, i)
  | 2 => (loaderRegs, i)
  | 3 => (crossingRegs, i)
  | 4 => if i / 2 ^ 20 < 2 then (stackRegs (Fin.ofNat 14 (12 + i / 2 ^ 20)), i % 2 ^ 20) else ([], 0)
  | 6 => (supplyRegs, i)
  | 7 => (timeRegs, i)
  | 8 => (platformRegs, i)
  | _ => ([], 0)

def ctlBase : Nat := 0xF00000000000
def ctlSize : Nat := 2 ^ 40
def tileWindows : Nat := 0x1000000000

def inCtl (a : Nat) : Bool := ctlBase ≤ a && a < ctlBase + ctlSize

/-- The tile in whose window a control-space address lies. -/
def tileOfCtl (a : Nat) : Option TileId :=
  let o := a - ctlBase
  if tileWindows ≤ o && o < tileWindows + 4 * 2 ^ 32 then some (Fin.ofNat 4 ((o - tileWindows) / 2 ^ 32)) else none

/-- The register at a control-space address. -/
def regAt (a : Nat) : Option Register :=
  let o := a - ctlBase
  let (rs, i) := match tileOfCtl a with
    | some t => tileBlock t ((o - tileWindows) % 2 ^ 32)
    | none => hubBlock o
  rs.find? fun r => r.off = i

/-- The register that an access reaches: none at an unassigned offset and in the window of an unpowered tile (R38). -/
def State.regFor (s : State) (a : Nat) : Option Register :=
  match tileOfCtl a with
  | some t => if s.tileIsOn t.val then regAt a else none
  | none => regAt a

/-- An aligned 64-bit load from control space. -/
def State.ctlRead (s : State) (a : Nat) : State :=
  match s.regFor a with
  | some r => (r.clear s).reply (BitVec.ofNat 64 (r.read s))
  | none => s.misuse.reply 0

/-- An aligned 64-bit store to control space. -/
def State.ctlWrite (s : State) (a : Nat) (v : BitVec 64) : State :=
  match s.regFor a with
  | some r => r.write v.toNat s
  | none => s.misuse

/-- Only aligned 64-bit accesses reach a register (00 R12). -/
def ctlAligned (a width : Nat) : Bool := width = 8 && a % 8 = 0

/-- CONTROL_SPACE_MISUSE: an access of another width or alignment (00 R12). -/
def execControlSpaceMisuse (addr width : Nat) (write : Bool) (s : State) : Result :=
  if !s.clerkTime || !inCtl addr || ctlAligned addr width then .next s
  else .next (if write then s.misuse else s.misuse.reply 0)

/-- CONTROL_SPACE_UNASSIGNED: an aligned access that reaches no register (01 R38). -/
def execControlSpaceUnassigned (addr : Nat) (write : Bool) (s : State) : Result :=
  if !s.clerkTime || !inCtl addr || addr % 8 ≠ 0 || (s.regFor addr).isSome then .next s
  else .next (if write then s.misuse else s.misuse.reply 0)

/-- REGISTER_WRITE: an aligned 64-bit store to control space (00 R13). -/
def execRegisterWrite (addr : Nat) (v : BitVec 64) (s : State) : Result :=
  if !s.clerkTime || !inCtl addr || addr % 8 ≠ 0 then .next s else .next (s.ctlWrite addr v)

/-! Clerk-core loads and stores (01 R34; 11 R296), and the clerk cores' own caches (15 R420, R421): coherent among the cores
and, for H0 and H1, with every other writer, so that only lines of tile stacks need a place in the state. -/

/-- Bytes stored into a cached line from a place in it. -/
def ClerkLine.store (l : ClerkLine) (i : Nat) (data : List Byte) : ClerkLine :=
  let mask := List.replicate i false ++ List.replicate data.length true
  let bytes := List.replicate i (0 : Byte) ++ data
  { l with data := mergeBytes l.data bytes mask, dirty := l.dirty.zipIdx.map fun e => e.1 || mask.getD e.2 false }

/-- The line of an address as the clerk cores see it: from their caches, else read at its home, with the flushed bytes
that have still to reach it, and cached where it is a tile stack's. None where it reaches no memory. -/
def State.clerkLine (s : State) (pa : Nat) : Option (List Byte × State) :=
  match s.mem.reach pa with
  | .ok k _ =>
    match (if (homeTile k).isSome then s.clerkLines.find? fun l => l.addr = lineBase pa else none) with
    | some l => some (l.data, s)
    | none =>
      match s.mem.readLine pa Origin.hub with
      | none => none
      | some (d, _, m) =>
        let s := s.setMem m
        if (homeTile k).isNone then some (d, s)
        else
          let d := (s.clerkFlush.filter fun e => e.2.addr = lineBase pa).foldl (fun d e => mergeBytes d e.2.data e.2.dirty) d
          some (d, { s with clerkLines := s.clerkLines ++ [{ addr := lineBase pa, data := d, dirty := List.replicate 64 false }] })
  | _ => none

/-- A load of bytes that may cross a line. -/
def State.clerkLoad (s : State) (pa n : Nat) : Option (List Byte × State) :=
  let k := min n (64 - pa % 64)
  match s.clerkLine pa with
  | none => none
  | some (d, s) =>
    if k = n then some (sliceAt d (pa % 64) n, s)
    else match s.clerkLine (pa + k) with
      | none => none
      | some (e, s) => some (sliceAt d (pa % 64) k ++ sliceAt e 0 (n - k), s)

/-- A store within one line: to H0 or H1 at once, to a tile stack into the cores' caches. -/
def State.clerkPut (s : State) (pa : Nat) (data : List Byte) : Option State :=
  match s.clerkLine pa with
  | none => none
  | some (_, t) =>
    if inHub pa then
      match s.mem.writeIn pa data false Origin.hub with
      | some m => some (s.setMem m)
      | none => none
    else some { t with clerkLines := t.clerkLines.map fun l => if l.addr = lineBase pa then l.store (pa % 64) data else l }

/-- A store of bytes that may cross a line; none of it where a part reaches no memory. -/
def State.clerkStore (s : State) (pa : Nat) (data : List Byte) : Option State :=
  let k := min data.length (64 - pa % 64)
  match s.clerkPut pa (data.take k) with
  | none => none
  | some s => if k = data.length then some s else s.clerkPut (pa + k) (data.drop k)

/-- cbo.flush: the line leaves the caches; what was stored in it reaches its home by the core's next fence (R421). -/
def State.clerkFlushLine (s : State) (c : CoreId) (pa : Nat) : State :=
  let here (l : ClerkLine) : Bool := l.addr = lineBase pa
  { s with
    clerkLines := s.clerkLines.filter fun l => !here l
    clerkFlush := s.clerkFlush ++ ((s.clerkLines.filter fun l => here l && l.dirty.any id).map fun l => (c.val, l)) }

/-- fence rw,rw: what the core has flushed is written at its homes (R421). -/
def State.clerkFence (s : State) (c : CoreId) : State :=
  let put (s : State) (l : ClerkLine) : State :=
    match s.mem.writeLine l.addr l.data l.dirty false Origin.hub with
    | some m => s.setMem m
    | none => s
  let s' := (s.clerkFlush.filter fun e => e.1 = c.val).foldl (fun s e => put s e.2) s
  { s' with clerkFlush := s.clerkFlush.filter fun e => e.1 ≠ c.val }

/-- CLERK_ACCESS: a load or a store of a clerk core reaches control space, its caches or memory; an address that is
unmapped, unpopulated, or homed in a tile that is off raises an access fault (R34; 16 R450). Cache operations act on
lines of tile stacks (15 R421). -/
def execClerkAccess (c : CoreId) (pa : Nat) (op : ClerkOp) (s : State) : Result :=
  if !s.clerkTime || !s.coreRuns c then .next s
  else
    match op with
    | .load n =>
      if inCtl pa then .next (if ctlAligned pa n then s.ctlRead pa else s.misuse.reply 0)
      else match s.clerkLoad pa n with
        | some (d, s) => .next (s.reply (BitVec.ofNat 64 (leNat d)))
        | none => .next (s.except_ .loadAccess)
    | .store n v =>
      if inCtl pa then .next (if ctlAligned pa n then s.ctlWrite pa v else s.misuse)
      else match s.clerkStore pa (leBytes n v.toNat) with
        | some s => .next s
        | none => .next (s.except_ .storeAccess)
    | .flush => .next (s.clerkFlushLine c pa)
    | .inval => .next { s with clerkLines := s.clerkLines.filter fun l => l.addr ≠ lineBase pa }
    | .evict => .next { s with clerkLines := s.clerkLines.filter fun l => l.addr ≠ lineBase pa || l.dirty.any id }
    | .fence => .next (s.clerkFence c)

/-- CLERK_AMO: an atomic instruction of a clerk core (11 R309). On control space an access of another width or
alignment, or one that reaches no register, is answered as R12 and R38 say; an aligned 64-bit one takes an access fault
(DESIGN CHOICE, log 121: R12 speaks of loads and stores). -/
def execClerkAmo (c : CoreId) (pa : Nat) (op : ClerkAmo) (width : Nat) (opnd : BitVec 64) (s : State) : Result :=
  if !s.clerkTime || !s.coreRuns c then .next s
  else if inCtl pa then
    if ctlAligned pa width && (s.regFor pa).isSome then .next (s.except_ (if amoLoads op then .loadAccess else .storeAccess))
    else .next (s.misuse.reply 0)
  else .next (s.memAmo c pa op width opnd)

end Sys2Proof.Machine
end

