-- ==== Sys2Proof/Machine/Timers.lean ====
section
/-! DEFINITION. The watch timers of a partition that a command lets fire (02 R62 to R66): seam stall, token wait and
memory request. -/

namespace Sys2Proof.Machine

open Sys2Proof

/-- The seam-stall and token-wait timers of a partition run: outside hold, and while no bench of it is held for an
arbiter run (02 R65; 14 R398). -/
def State.waitsRun (s : State) (p : PartId) : Bool := s.clerkTime && (s.part p).live && (s.part p).frozenSince.isNone

/-- SEAM_STALL_EXPIRY: no row has left a queue that holds rows for T_SEAM_MS; the fault is the destination bench's. -/
def execSeamStallExpiry (p : PartId) (seam : Nat) (s : State) : Result :=
  match (s.part p).seams[seam]? with
  | none =>
    match (s.benchesOf p)[seam - (s.part p).seams.length]? with
    | none => .next s
    | some b =>
      match (s.bench b).streams.head? with
      | none => .next s
      | some st =>
        if !s.waitsRun p || !s.passed st.since (ms (s.part p).hdr.tSeamMs) then .next s
        else .next (s.orderFault b { code := 0x20 } ((s.bench b).orderOf st.seq (.compactStream { sid := st.sid, desc := st.desc })))
  | some m =>
    if !s.waitsRun p || m.rows.isEmpty || !s.passed m.since (ms (s.part p).hdr.tSeamMs) then .next s
    else match s.benchOfLogical p m.rcd.dst with
      | some b => .next (s.benchFault b 0x20 0 false 0)
      | none => .next s

/-! Token waits -/

/-- What a token-wait timer of a bench watches: the order, since when, and whether it is the receive side of a
FOLD. -/
structure TokenWatch where
  dec : DecOrder
  since : Nat
  fold : Bool := false

/-- The receive sides of a bench that await frames: RECV, EXCHANGE, FOLD and REDUCE (09 R271; 12 R354). -/
def State.receives (s : State) (b : BenchId) (p : PartId) : List TokenWatch :=
  let x := s.bench b
  let at_ (seq : Nat) (body : Order) : DecOrder := x.orderOf seq body
  (x.recvs.map fun c => { dec := at_ c.seq (.recv default), since := c.since }) ++
  (x.exchanges.map fun c => { dec := at_ c.seq (.exchange c.ex), since := c.since }) ++
  (x.folds.map fun c => { dec := at_ c.seq (.fold c.fold), since := c.since, fold := true }) ++
  ((s.part p).reds.filter fun c => c.bench = x.logical).map fun c => { dec := at_ c.seq (.reduce default), since := c.since }

/-- What the timer of a slot watches: an unmet WAIT, or what a crossing order in that slot receives; past the slots,
what orders without a slot receive. -/
def State.tokenWatch (s : State) (b : BenchId) (p : PartId) (slot : Nat) : Option TokenWatch :=
  let x := s.bench b
  let rs := s.receives b p
  match x.inflight[slot]? with
  | some i =>
    match i.dec.body with
    | .wait _ => if x.unmet i then some { dec := i.dec, since := i.since } else none
    | _ => if i.ran then none else rs.find? fun r => r.dec.seq = i.dec.seq
  | none => (rs.filter fun r => !(x.inflight.any fun i => i.dec.seq = r.dec.seq))[slot - x.inflight.length]?

/-- TOKEN_WAIT_EXPIRY: no signal to the awaited counter, or no awaited frame, for T_TOKEN_MS. -/
def execTokenWaitExpiry (b : BenchId) (slot : Nat) (s : State) : Result :=
  match (s.bench b).partOf with
  | none => .next s
  | some p =>
    match s.tokenWatch b p slot with
    | none => .next s
    | some r =>
      if !s.waitsRun p || !s.passed r.since (ms (s.part p).hdr.tTokenMs) then .next s
      else .next (if r.fold then s.foldFail b r.dec { code := 0x21 } 4 0 else s.orderFault b { code := 0x21 } r.dec)

/-! Memory requests -/

/-- An outstanding memory request: one that a load waits for, an order line or a walk read, a request of an issued order
that has not run, or a counter add of one that has (02 R62; 07 R190; 08 R245). -/
inductive MemWatch where
  | pending (bench pa : Nat)
  | line (b : BenchId) (va : Nat)
  | order (b : BenchId) (i : InFlight)
  | add (b : BenchId) (i : InFlight)

def State.benchRequests (s : State) (b : BenchId) : List (MemWatch × Nat) :=
  let x := s.bench b
  (x.lineReqs.map fun r => (.line b r.1, r.2)) ++ (x.walks.map fun w => (.line b w.va, w.since)) ++
  ((x.inflight.filter x.asksMemory).map fun i => (.order b i, i.since)) ++
  (x.inflight.filter x.adds).map fun i => (.add b i, i.since)

def State.memRequests (s : State) (p : PartId) : List (MemWatch × Nat) :=
  ((s.part p).pendReqs.map fun r => (.pending r.bench r.pa, r.since)) ++ (s.benchesOf p).flatMap s.benchRequests

/-- The shelf of an order some of whose reads were never answered: any of the segments that it would have written has
arrived, but one at least has not (11 R319). -/
def Bench.arrivedOf (old new : Bench) (rows : List (Nat × Nat)) (c : Nat) : Bench :=
  let segs := rows.flatMap fun r => (List.range (8 * r.2)).map (8 * r.1 + ·)
  let lost := Config.stepsTaken c % max 1 segs.length
  let here := segs.zipIdx.filter fun g => g.2 ≠ lost && Config.lineDone (c + 1 + g.2)
  here.foldl (fun x g => (x.shelfWrite (64 * g.1) (new.shelfRead (64 * g.1) 64)).shelfMark g.1 (new.shelfStain.contains g.1)) old

/-- What an order whose requests were never answered leaves behind (11 R319): a read delivers nothing, and each line
that it would have written holds its old or its new contents, whole. An order that still lacked its descriptor leaves
nothing. -/
def State.orderLost (s : State) (b : BenchId) (p : PartId) (i : InFlight) : State :=
  let w0 := { s.work b p with drawNo := i.dec.drawBase.toNat, cut := true }
  if (Order.descs i.dec.body).any fun d => w0.x.dcache.all fun c => c.1 ≠ d then s
  else match i.dec.body with
    | .fetch q =>
      let w := w0.fetchOp q
      let x := { w.x with shelf := w0.x.shelf, shelfStain := w0.x.shelfStain }
      (s.putWork b p { w with x := Bench.arrivedOf x w.x w.outRows s.freeCtr }).tick
    | .store q =>
      let w := w0.storeOp q
      s.putWork b p { w with x := { w.x with shelf := w0.x.shelf, shelfStain := w0.x.shelfStain } }
    | .sort q => s.putWork b p { w0.sortOp q with cut := false }
    | _ => s

/-- A request ends without a response: order fault 0x22 of its partition (11 R319; 07 R190; 08 R245). An add is
performed once or not at all. -/
def State.requestLost (s : State) (p : PartId) (w : MemWatch) : State :=
  match w with
  | .pending bench pa =>
    let s := (s.modPart p fun x => { x with pendReqs := x.pendReqs.filter fun r => r.bench ≠ bench || r.pa ≠ pa }).memSettled
    match benchOfIdx bench with
    | some b => s.benchFault b 0x22 0 false 0
    | none => s
  | .line b va =>
    let pc := (s.bench b).pc
    s.orderFault b { code := 0x22 } { va := if lineBase pc = lineBase va then pc else lineBase va, body := .illegal 0 }
  | .order b i =>
    match i.dec.body with
    | .fold _ => s.foldFail b i.dec { code := 0x22 } 0 0
    | _ => (s.orderLost b p i).orderFault b { code := 0x22 } i.dec
  | .add b i =>
    let t := if Config.lineDone s.freeCtr then (s.oobAdds b p i.oob).1 else s
    t.tick.orderFault b { code := 0x22 } i.dec

/-- MEMORY_REQUEST_EXPIRY: a request has had no response within T_MEM, in units of 0.1 ms (03 R82). -/
def execMemoryRequestExpiry (p : PartId) (i : Nat) (s : State) : Result :=
  match (s.memRequests p)[i]? with
  | none => .next s
  | some (w, since) =>
    if !s.clerkTime || !s.passed since ((s.part p).hdr.tMem * us 100) then .next s else .next (s.requestLost p w)

end Sys2Proof.Machine
end

