-- ==== Sys2Proof/Machine/Tap.lean ====
section
/-! DEFINITION. The test access port (18 R488, R489): the controller of IEEE 1149.1, the module's IDCODE, and the
instructions that act as BYPASS. -/

namespace Sys2Proof.Machine

open Sys2Proof

/-- The controller's next state for TMS (IEEE 1149.1). -/
def TapState.next (t : TapState) (tms : Bool) : TapState :=
  match t, tms with
  | .testLogicReset, true => .testLogicReset
  | .testLogicReset, false => .runTestIdle
  | .runTestIdle, true => .selectDr
  | .runTestIdle, false => .runTestIdle
  | .selectDr, true => .selectIr
  | .selectDr, false => .captureDr
  | .captureDr, true => .exit1Dr
  | .captureDr, false => .shiftDr
  | .shiftDr, true => .exit1Dr
  | .shiftDr, false => .shiftDr
  | .exit1Dr, true => .updateDr
  | .exit1Dr, false => .pauseDr
  | .pauseDr, true => .exit2Dr
  | .pauseDr, false => .pauseDr
  | .exit2Dr, true => .updateDr
  | .exit2Dr, false => .shiftDr
  | .updateDr, true => .selectDr
  | .updateDr, false => .runTestIdle
  | .selectIr, true => .testLogicReset
  | .selectIr, false => .captureIr
  | .captureIr, true => .exit1Ir
  | .captureIr, false => .shiftIr
  | .shiftIr, true => .exit1Ir
  | .shiftIr, false => .shiftIr
  | .exit1Ir, true => .updateIr
  | .exit1Ir, false => .pauseIr
  | .pauseIr, true => .exit2Ir
  | .pauseIr, false => .pauseIr
  | .exit2Ir, true => .updateIr
  | .exit2Ir, false => .shiftIr
  | .updateIr, true => .selectDr
  | .updateIr, false => .runTestIdle

/-- The IDCODE register (R488). -/
def idcode : BitVec 32 := 0x1#4 ++ 0x5708#16 ++ Config.jep106 ++ 1#1

/-- The instruction that a code of the instruction register selects: the BSDL file gives it. -/
def tapInstr (code : Nat) : TapInstr :=
  match Config.tapKind code with
  | 0 => .idcode
  | 1 => .samplePreload
  | 2 => .pinControl
  | 3 => .debugChain (Config.tapTile code)
  | _ => .bypass

/-- What the instruction in force acts as: pin control only while MOD_RESET_N is held low, a debug chain only while
DEBUG_OPEN reads 1 and, for a chain of a tile, while that tile's chains are open (17 R475); BYPASS otherwise (R489). -/
def State.tapActs (s : State) : TapInstr :=
  match s.tap.ir with
  | .pinControl => if s.power = .inReset && s.resetPin then .pinControl else .bypass
  | .debugChain t => if (match t with | some t => s.chainsOpen t | none => s.debugIsOpen) then .debugChain t else .bypass
  | i => i

/-- The bits that a data register captures, the least significant first. -/
def State.tapCapture (s : State) : List Bool :=
  let other (k : Nat) : List Bool := (List.range (Config.tapDrLength k + 1)).map (Config.tapCapture k s.freeCtr)
  match s.tapActs with
  | .idcode => (List.range 32).map idcode.getLsbD
  | .bypass => [false]
  | .samplePreload => other 1
  | .pinControl => other 2
  | .debugChain _ => other 3

/-- The bits that the instruction register captures: 01 in the lowest two (IEEE 1149.1). -/
def State.irCapture (s : State) : List Bool :=
  [true, false] ++ (List.range Config.tapIrLength).map (Config.tapCapture 4 s.freeCtr)

def shiftBit (r : List Bool) (b : Bool) : List Bool := r.drop 1 ++ [b]

def bitsNat (bs : List Bool) : Nat := bs.foldr (fun b n => b2n b + 2 * n) 0

/-- The rising edge of TCK: registers capture or shift, and the controller moves. -/
def State.tapRise (s : State) (tms tdi : Bool) : State :=
  let t := s.tap
  let t := match t.state with
    | .captureIr => { t with irShift := s.irCapture }
    | .shiftIr => { t with irShift := shiftBit t.irShift tdi }
    | .captureDr => { t with dr := s.tapCapture }
    | .shiftDr => { t with dr := shiftBit t.dr tdi }
    | _ => t
  let st := t.state.next tms
  { s.tick with tap := { t with state := st, ir := if st = .testLogicReset then .idcode else t.ir } }

/-- The falling edge: the instruction register updates, and TDO is driven while a register shifts. -/
def State.tapFall (s : State) : State :=
  let t := s.tap
  { s with tap := { t with
    ir := if t.state = .updateIr then tapInstr (bitsNat t.irShift) else t.ir
    tdo := match t.state with
      | .shiftIr => t.irShift.head?
      | .shiftDr => t.dr.head?
      | _ => none } }

/-- TRST_N low resets the port (R488). -/
def execTrstN (s : State) : Result :=
  if s.power = .unpowered then .next s else .next { s with tap := {} }

/-- An edge of TCK; the port is powered whenever the hub is. -/
def execTck (rising tms tdi : Bool) (s : State) : Result :=
  if s.power = .unpowered then .next s else .next (if rising then s.tapRise tms tdi else s.tapFall)

end Sys2Proof.Machine
end

