-- ==== Sys2Proof/Machine/Dispatch.lean ====
section
/-! DEFINITION. One arm for each command: a direct call of its meaning. -/

namespace Sys2Proof.Machine

/-- What a command does to everything but the queue. -/
def exec (i : Instr) (s : State) : Host.Outcome State Fault Refusal :=
  match i with
  | .fetch b o u => Sys2Proof.Machine.execFetch b o u s
  | .store b o u => Sys2Proof.Machine.execStore b o u s
  | .copyShelf b o u => Sys2Proof.Machine.execCopyShelf b o u s
  | .copyToSeam b o u => Sys2Proof.Machine.execCopyToSeam b o u s
  | .copyFromSeam b o u => Sys2Proof.Machine.execCopyFromSeam b o u s
  | .copyConvert b o u => Sys2Proof.Machine.execCopyConvert b o u s
  | .loadw b o u => Sys2Proof.Machine.execLoadw b o u s
  | .loadwMask b o u => Sys2Proof.Machine.execLoadwMask b o u s
  | .press b o u => Sys2Proof.Machine.execPress b o u s
  | .pressCompacted b o u => Sys2Proof.Machine.execPressCompacted b o u s
  | .compactCount b o u => Sys2Proof.Machine.execCompactCount b o u s
  | .compactPlan b o u => Sys2Proof.Machine.execCompactPlan b o u s
  | .compactStream b o u => Sys2Proof.Machine.execCompactStream b o u s
  | .compactCompress b o u => Sys2Proof.Machine.execCompactCompress b o u s
  | .merge b o u => Sys2Proof.Machine.execMerge b o u s
  | .sort b o u => Sys2Proof.Machine.execSort b o u s
  | .scan b o u => Sys2Proof.Machine.execScan b o u s
  | .vec b o u => Sys2Proof.Machine.execVec b o u s
  | .vecSoftmaxForward b o u => Sys2Proof.Machine.execVecSoftmaxForward b o u s
  | .vecSoftmaxBackward b o u => Sys2Proof.Machine.execVecSoftmaxBackward b o u s
  | .vecNormForward b o u => Sys2Proof.Machine.execVecNormForward b o u s
  | .vecNormBackward b o u => Sys2Proof.Machine.execVecNormBackward b o u s
  | .size b o u => Sys2Proof.Machine.execSize b o u s
  | .quant b o u => Sys2Proof.Machine.execQuant b o u s
  | .stat b o u => Sys2Proof.Machine.execStat b o u s
  | .update b o u => Sys2Proof.Machine.execUpdate b o u s
  | .digest b o u => Sys2Proof.Machine.execDigest b o u s
  | .signal b o => Sys2Proof.Machine.execSignal b o s
  | .wait b o => Sys2Proof.Machine.execWait b o s
  | .fence b scope => Sys2Proof.Machine.execFence b scope s
  | .send b o => Sys2Proof.Machine.execSend b o s
  | .recv b o => Sys2Proof.Machine.execRecv b o s
  | .reduce b o => Sys2Proof.Machine.execReduce b o s
  | .exchangeDispatch b o => Sys2Proof.Machine.execExchangeDispatch b o s
  | .exchangeReturn b o => Sys2Proof.Machine.execExchangeReturn b o s
  | .fold b o => Sys2Proof.Machine.execFold b o s
  | .loop b o => Sys2Proof.Machine.execLoop b o s
  | .jump b disp => Sys2Proof.Machine.execJump b disp s
  | .event b o => Sys2Proof.Machine.execEvent b o s
  | .halt b code => Sys2Proof.Machine.execHalt b code s
  | .benchHalted b => Sys2Proof.Machine.execBenchHalted b s
  | .orderLineFetch b line => Sys2Proof.Machine.execOrderLineFetch b line s
  | .orderDecode b parity => Sys2Proof.Machine.execOrderDecode b parity s
  | .orderIssue b => Sys2Proof.Machine.execOrderIssue b s
  | .orderComplete b slot => Sys2Proof.Machine.execOrderComplete b slot s
  | .signalDeliver b src => Sys2Proof.Machine.execSignalDeliver b src s
  | .descriptorFill b desc parity => Sys2Proof.Machine.execDescriptorFill b desc parity s
  | .translationWalk b walk => Sys2Proof.Machine.execTranslationWalk b walk s
  | .seamRowArrive p seam => Sys2Proof.Machine.execSeamRowArrive p seam s
  | .eventRingInterrupt p => Sys2Proof.Machine.execEventRingInterrupt p s
  | .bqStart b => Sys2Proof.Machine.execBqStart b s
  | .bqStop b => Sys2Proof.Machine.execBqStop b s
  | .bqClrTokens b => Sys2Proof.Machine.execBqClrTokens b s
  | .bqSeedWrite b seed => Sys2Proof.Machine.execBqSeedWrite b seed s
  | .invalAll b => Sys2Proof.Machine.execInvalAll b s
  | .invalVa b va => Sys2Proof.Machine.execInvalVa b va s
  | .plLoad => Sys2Proof.Machine.execPlLoad s
  | .plUnload p => Sys2Proof.Machine.execPlUnload p s
  | .plUnloadSnapshot p => Sys2Proof.Machine.execPlUnloadSnapshot p s
  | .plRelease p => Sys2Proof.Machine.execPlRelease p s
  | .loadValidateDone => Sys2Proof.Machine.execLoadValidateDone s
  | .loadDrainDone => Sys2Proof.Machine.execLoadDrainDone s
  | .loadDrainTimeout => Sys2Proof.Machine.execLoadDrainTimeout s
  | .loadMemoryWaitExpiry => Sys2Proof.Machine.execLoadMemoryWaitExpiry s
  | .rinseComplete p => Sys2Proof.Machine.execRinseComplete p s
  | .stCtlWrite k v => Sys2Proof.Machine.execStCtlWrite k v s
  | .zeroGo k => Sys2Proof.Machine.execZeroGo k s
  | .zeroFillDone c => Sys2Proof.Machine.execZeroFillDone c s
  | .tcAmoGo t c v disagree => Sys2Proof.Machine.execTcAmoGo t c v disagree s
  | .chRetireBench a c => Sys2Proof.Machine.execChRetireBench a c s
  | .chRetireChannel a c => Sys2Proof.Machine.execChRetireChannel a c s
  | .chRetirePort a c => Sys2Proof.Machine.execChRetirePort a c s
  | .chRetireLane a c => Sys2Proof.Machine.execChRetireLane a c s
  | .chRetireClerk a c => Sys2Proof.Machine.execChRetireClerk a c s
  | .chBeat c => Sys2Proof.Machine.execChBeat c s
  | .clerkHeartbeatTimeout c => Sys2Proof.Machine.execClerkHeartbeatTimeout c s
  | .clerkCacheUe c => Sys2Proof.Machine.execClerkCacheUe c s
  | .clerkAccess c pa op => Sys2Proof.Machine.execClerkAccess c pa op s
  | .clerkAmo c pa op width opnd => Sys2Proof.Machine.execClerkAmo c pa op width opnd s
  | .startCtlStage n => Sys2Proof.Machine.execStartCtlStage n s
  | .startCtlDone => Sys2Proof.Machine.execStartCtlDone s
  | .ledgerClear => Sys2Proof.Machine.execLedgerClear s
  | .lcNonce confirm => Sys2Proof.Machine.execLcNonce confirm s
  | .lcField confirm => Sys2Proof.Machine.execLcField confirm s
  | .lcReturn confirm => Sys2Proof.Machine.execLcReturn confirm s
  | .lcVoid confirm => Sys2Proof.Machine.execLcVoid confirm s
  | .flRead count => Sys2Proof.Machine.execFlRead count s
  | .flProgram count => Sys2Proof.Machine.execFlProgram count s
  | .flErase count => Sys2Proof.Machine.execFlErase count s
  | .flCommit count => Sys2Proof.Machine.execFlCommit count s
  | .flashCommandDone flashOk => Sys2Proof.Machine.execFlashCommandDone flashOk s
  | .railSetWrite t v => Sys2Proof.Machine.execRailSetWrite t v s
  | .portCtlDisable n on => Sys2Proof.Machine.execPortCtlDisable n on s
  | .recalNow n => Sys2Proof.Machine.execRecalNow n s
  | .erTailWrite p v => Sys2Proof.Machine.execErTailWrite p v s
  | .biTestGo b extra => Sys2Proof.Machine.execBiTestGo b extra s
  | .selfTestDone b r => Sys2Proof.Machine.execSelfTestDone b r s
  | .controlSpaceMisuse addr width write => Sys2Proof.Machine.execControlSpaceMisuse addr width write s
  | .controlSpaceUnassigned addr write => Sys2Proof.Machine.execControlSpaceUnassigned addr write s
  | .registerWrite addr v => Sys2Proof.Machine.execRegisterWrite addr v s
  | .seamStallExpiry p seam => Sys2Proof.Machine.execSeamStallExpiry p seam s
  | .tokenWaitExpiry b slot => Sys2Proof.Machine.execTokenWaitExpiry b slot s
  | .memoryRequestExpiry p k => Sys2Proof.Machine.execMemoryRequestExpiry p k s
  | .crossingCreditExpiry n pair => Sys2Proof.Machine.execCrossingCreditExpiry n pair s
  | .mgmtCommandExpiry k => Sys2Proof.Machine.execMgmtCommandExpiry k s
  | .bootStageExpiry => Sys2Proof.Machine.execBootStageExpiry s
  | .startCompletionExpiry => Sys2Proof.Machine.execStartCompletionExpiry s
  | .stepRateWindow steps hub => Sys2Proof.Machine.execStepRateWindow steps hub s
  | .boostLimit t => Sys2Proof.Machine.execBoostLimit t s
  | .boostPermit t => Sys2Proof.Machine.execBoostPermit t s
  | .refLoss => Sys2Proof.Machine.execRefLoss s
  | .refReturn => Sys2Proof.Machine.execRefReturn s
  | .powerOnReset mv => Sys2Proof.Machine.execPowerOnReset mv s
  | .modReset lowUs acts => Sys2Proof.Machine.execModReset lowUs acts s
  | .resetRelease straps core => Sys2Proof.Machine.execResetRelease straps core s
  | .supplyCap mv => Sys2Proof.Machine.execSupplyCap mv s
  | .supplyCapDeepen mv => Sys2Proof.Machine.execSupplyCapDeepen mv s
  | .dipEnd mv => Sys2Proof.Machine.execDipEnd mv s
  | .holdEnter mv => Sys2Proof.Machine.execHoldEnter mv s
  | .holdExit mv => Sys2Proof.Machine.execHoldExit mv s
  | .supplyCapLift mv => Sys2Proof.Machine.execSupplyCapLift mv s
  | .supplyLossStop => Sys2Proof.Machine.execSupplyLossStop s
  | .overvoltageStop => Sys2Proof.Machine.execOvervoltageStop s
  | .railSettle t => Sys2Proof.Machine.execRailSettle t s
  | .stackHeatEnter k temp => Sys2Proof.Machine.execStackHeatEnter k temp s
  | .stackHeatLeave k temp => Sys2Proof.Machine.execStackHeatLeave k temp s
  | .junctionSample t temp => Sys2Proof.Machine.execJunctionSample t temp s
  | .tileThermalStop t stack temp => Sys2Proof.Machine.execTileThermalStop t stack temp s
  | .moduleThermalStop stack temp => Sys2Proof.Machine.execModuleThermalStop stack temp s
  | .coolantHotSet temp => Sys2Proof.Machine.execCoolantHotSet temp s
  | .coolantHotClear temp => Sys2Proof.Machine.execCoolantHotClear temp s
  | .lineRequestArrive r pa op e => Sys2Proof.Machine.execLineRequestArrive r pa op e s
  | .memoryResponse k line errs => Sys2Proof.Machine.execMemoryResponse k line errs s
  | .regulatorServe target waiting e => Sys2Proof.Machine.execRegulatorServe target waiting e s
  | .scrubRead k errs => Sys2Proof.Machine.execScrubRead k errs s
  | .channelCeThreshold k ch => Sys2Proof.Machine.execChannelCeThreshold k ch s
  | .channelNoResponse k ch => Sys2Proof.Machine.execChannelNoResponse k ch s
  | .spareCopyDone c => Sys2Proof.Machine.execSpareCopyDone c s
  | .portTrainStart n => Sys2Proof.Machine.execPortTrainStart n s
  | .identityBlock n blk => Sys2Proof.Machine.execIdentityBlock n blk s
  | .portTrainDone n => Sys2Proof.Machine.execPortTrainDone n s
  | .portTrainTimeout n => Sys2Proof.Machine.execPortTrainTimeout n s
  | .portTrainRetry n => Sys2Proof.Machine.execPortTrainRetry n s
  | .probationDone n => Sys2Proof.Machine.execProbationDone n s
  | .laneFecThreshold n lane => Sys2Proof.Machine.execLaneFecThreshold n lane s
  | .laneLockLoss n lane => Sys2Proof.Machine.execLaneLockLoss n lane s
  | .laneRecalPeriod n => Sys2Proof.Machine.execLaneRecalPeriod n s
  | .laneSwapDone n => Sys2Proof.Machine.execLaneSwapDone n s
  | .portUncorrectableBurst n codewords => Sys2Proof.Machine.execPortUncorrectableBurst n codewords s
  | .portFarEndSilent n => Sys2Proof.Machine.execPortFarEndSilent n s
  | .linkUnitDiscard n u => Sys2Proof.Machine.execLinkUnitDiscard n u s
  | .controlBlock n blk => Sys2Proof.Machine.execControlBlock n blk s
  | .takeoverRequest n failed lseq => Sys2Proof.Machine.execTakeoverRequest n failed lseq s
  | .takeoverAnswer n lseq => Sys2Proof.Machine.execTakeoverAnswer n lseq s
  | .takeoverTimeout n => Sys2Proof.Machine.execTakeoverTimeout n s
  | .frameTransit via f => Sys2Proof.Machine.execFrameTransit via f s
  | .msgFrame via f => Sys2Proof.Machine.execMsgFrame via f s
  | .exHdrFrame via f => Sys2Proof.Machine.execExHdrFrame via f s
  | .exDataFrame via f => Sys2Proof.Machine.execExDataFrame via f s
  | .foldDataFrame via f => Sys2Proof.Machine.execFoldDataFrame via f s
  | .redFrame via f disagree => Sys2Proof.Machine.execRedFrame via f disagree s
  | .memReqFrame via f => Sys2Proof.Machine.execMemReqFrame via f s
  | .memRespFrame via f => Sys2Proof.Machine.execMemRespFrame via f s
  | .mgmtFrame via f => Sys2Proof.Machine.execMgmtFrame via f s
  | .probeFrame via f => Sys2Proof.Machine.execProbeFrame via f s
  | .hello => Sys2Proof.Machine.execHello s
  | .setSlot m slot => Sys2Proof.Machine.execSetSlot m slot s
  | .measure m nonce => Sys2Proof.Machine.execMeasure m nonce s
  | .status m => Sys2Proof.Machine.execStatus m s
  | .sensors m => Sys2Proof.Machine.execSensors m s
  | .retire m cls a c => Sys2Proof.Machine.execRetire m cls a c s
  | .ticketAck m seq => Sys2Proof.Machine.execTicketAck m seq s
  | .ticketResend => Sys2Proof.Machine.execTicketResend s
  | .tally m part step tally => Sys2Proof.Machine.execTally m part step tally s
  | .tallyTimeout p => Sys2Proof.Machine.execTallyTimeout p s
  | .faultNotice m part epoch cause cls => Sys2Proof.Machine.execFaultNotice m part epoch cause cls s
  | .epochReady m part epoch loc => Sys2Proof.Machine.execEpochReady m part epoch loc s
  | .peerAck m typ part n => Sys2Proof.Machine.execPeerAck m typ part n s
  | .peerResend => Sys2Proof.Machine.execPeerResend s
  | .stageWrite m offset data => Sys2Proof.Machine.execStageWrite m offset data s
  | .stageCommit m length sha => Sys2Proof.Machine.execStageCommit m length sha s
  | .bootData m offset data => Sys2Proof.Machine.execBootData m offset data s
  | .bootReqResend => Sys2Proof.Machine.execBootReqResend s
  | .arbiterStart b => Sys2Proof.Machine.execArbiterStart b s
  | .arbiterCopyDone b => Sys2Proof.Machine.execArbiterCopyDone b s
  | .arbiterVerdict b u => Sys2Proof.Machine.execArbiterVerdict b u s
  | .arbiterTimeout b => Sys2Proof.Machine.execArbiterTimeout b s
  | .bootImageVerify => Sys2Proof.Machine.execBootImageVerify s
  | .updateCopyDone => Sys2Proof.Machine.execUpdateCopyDone s
  | .startSelftestDone results => Sys2Proof.Machine.execStartSelftestDone results s
  | .sealKeyReady => Sys2Proof.Machine.execSealKeyReady s
  | .returnRinseDone => Sys2Proof.Machine.execReturnRinseDone s
  | .smbusReadWord addr cmd => Sys2Proof.Machine.execSmbusReadWord addr cmd s
  | .sensorRenew v => Sys2Proof.Machine.execSensorRenew v s
  | .trstN => Sys2Proof.Machine.execTrstN s
  | .dipStart mv => Sys2Proof.Machine.execDipStart mv s
  | .surgeStart mv => Sys2Proof.Machine.execSurgeStart mv s
  | .surgeEnd mv => Sys2Proof.Machine.execSurgeEnd mv s
  | .managementPortUp => Sys2Proof.Machine.execManagementPortUp s
  | .managementPortDown => Sys2Proof.Machine.execManagementPortDown s
  | .unknownType m data => Sys2Proof.Machine.execUnknownType m data s
  | .manglePowerGate b rows cols => Sys2Proof.Machine.execManglePowerGate b rows cols s
  | .hubSelfTestDone pass sfdp sizeMib => Sys2Proof.Machine.execHubSelfTestDone pass sfdp sizeMib s
  | .clerkCoresHalt => Sys2Proof.Machine.execClerkCoresHalt s
  | .arbiterRinseDone b => Sys2Proof.Machine.execArbiterRinseDone b s
  | .ceWindowRestart k => Sys2Proof.Machine.execCeWindowRestart k s
  | .tck rising tms tdi => Sys2Proof.Machine.execTck rising tms tdi s

end Sys2Proof.Machine
end

