-- ==== Sys2Proof/Safety.lean ====
section
/-! DEFINITION. What counts as a safe state and a safe run of the block, and the conditions on a state and a command
that the statements name. -/

namespace Sys2Proof.Safety

open Sys2Proof Sys2Proof.Machine

/-- The memories hold their one canonical form: the stacks' cells, the boot flash and every shelf. -/
def Canonical (s : State) : Prop :=
  Memory.wf 0 s.cells = true ∧ Memory.wf 0xFF s.nv.flash = true ∧ ∀ x ∈ s.benches, Memory.wf 0 x.shelf = true

/-- Every unit of the module has its place: 4 tiles, 136 benches, 8 partitions, 14 stacks, 4 tile caches, 8 ports, and
the registers of 8 partitions. -/
def Sized (s : State) : Prop :=
  s.tileOn.length = 4 ∧ s.benches.length = 136 ∧ s.parts.length = 8 ∧ s.stackSet.length = 14 ∧ s.caches.length = 4 ∧
    s.ports.length = 8 ∧ s.pint.length = 8 ∧ s.rings.length = 8

/-- A step that answers a next state: no command of this block stops the machine. -/
def Runs (s : State) : Prop := ∃ t, step s = .next t

/-- The order, its bench and its upsets, of a command that a unit of a bench runs by itself (07 R208, R209 to R227),
COPY mode 2 apart. -/
def unitOrder : Instr → Option (BenchId × Order × Upset)
  | .fetch b o u => some (b, .fetch o, u)
  | .store b o u => some (b, .store o, u)
  | .copyShelf b o u => some (b, .copyShelf o, u)
  | .copyToSeam b o u => some (b, .copyToSeam o, u)
  | .copyConvert b o u => some (b, .copyConvert o, u)
  | .loadw b o u => some (b, .loadw o, u)
  | .loadwMask b o u => some (b, .loadwMask o, u)
  | .press b o u => some (b, .press o, u)
  | .pressCompacted b o u => some (b, .pressCompacted o, u)
  | .compactCount b o u => some (b, .compactCount o, u)
  | .compactPlan b o u => some (b, .compactPlan o, u)
  | .compactStream b o u => some (b, .compactStream o, u)
  | .compactCompress b o u => some (b, .compactCompress o, u)
  | .merge b o u => some (b, .merge o, u)
  | .sort b o u => some (b, .sort o, u)
  | .scan b o u => some (b, .scan o, u)
  | .vec b o u => some (b, .vec o, u)
  | .vecSoftmaxForward b o u => some (b, .softmaxForward o, u)
  | .vecSoftmaxBackward b o u => some (b, .softmaxBackward o, u)
  | .vecNormForward b o u => some (b, .normForward o, u)
  | .vecNormBackward b o u => some (b, .normBackward o, u)
  | .size b o u => some (b, .size o, u)
  | .quant b o u => some (b, .quant o, u)
  | .stat b o u => some (b, .stat o, u)
  | .update b o u => some (b, .update o, u)
  | .digest b o u => some (b, .digest o, u)
  | _ => none

/-- A bench of partition `p` on which a legal order that no slot holds runs by itself: it is live, serves `p`, is not
held, has nothing in flight, and for an order of the gather unit no stream-mode COMPACT holds that unit (07 R208). -/
def Alone (s : State) (b : BenchId) (p : PartId) (o : Order) : Prop :=
  s.benchLive b = true ∧ (s.bench b).partOf = some p ∧ (s.bench b).inflight = [] ∧ (s.bench b).hold = .none ∧
    Order.check (s.checkCtx b p) o = none ∧ (Order.runsOn o = .gather → (s.bench b).streams = [])

/-- The work of an order met no fault, and every checker that compared its results found them equal (05 R150; 06 R181; 14
R390, R391). -/
def Undisturbed (w : Work) : Prop := w.fault = none ∧ ∀ c ∈ w.checks, c.fails = false

/-- The slot of an order that no slot holds: its number and the base of its draws are those of its bench. -/
def directSlot (x : Bench) (o : Order) : InFlight := { dec := { body := o, drawBase := x.draw, seq := x.nextSeq } }

/-- An issued order stands in slot `k`, has not run, and its unit can take it. -/
def Issued (s : State) (b : BenchId) (p : PartId) (o : Order) (k : Nat) (i : InFlight) : Prop :=
  s.benchLive b = true ∧ (s.bench b).partOf = some p ∧ (s.bench b).slotOf o = some k ∧ (s.bench b).inflight[k]? = some i ∧
    (s.bench b).mustWait o k = false

/-- Module time runs, outside hold, and the tile of a bench is powered: a clerk core's register access reaches it. -/
def Reached (s : State) (b : BenchId) : Prop := s.clerkTime = true ∧ s.tileIsOn b.tile.val = true

/-- The port on which a frame comes; none for a frame of this module to itself. -/
def cameBy : Via → Option PortId
  | .port n _ => some n
  | .home => none

/-- The way and the frame of a frame command, and what happens while it is served (12 R339). -/
def frameOf : Instr → Option (Via × Frame × FrameEvents)
  | .frameTransit v f => some (v, f, {})
  | .msgFrame v f => some (v, f, {})
  | .exHdrFrame v f => some (v, f, {})
  | .exDataFrame v f => some (v, f, {})
  | .foldDataFrame v f => some (v, f, {})
  | .redFrame v f d => some (v, f, { disagree := d })
  | .memReqFrame v f => some (v, f.frame, f.events)
  | .memRespFrame v f => some (v, f, {})
  | .mgmtFrame v f => some (v, f, {})
  | .probeFrame v f => some (v, f, {})
  | _ => none

/-- The crossing accepts a frame, and `t` is the state with it taken in: on a trained port in LSEQ order, counted there and
acknowledged (12 R331, R350), or from this module's own frames. -/
def Accepted (s : State) (via : Via) (f : Frame) (t : State) : Prop :=
  s.power = .running ∧
  match via with
  | .port n lseq =>
    3 ≤ (s.port n).state.toNat ∧ lseq = (s.port n).rxSeq ∧
      t = (s.modPort n fun x => { x with
        rxSeq := (x.rxSeq + 1) % 65536, replayAsked := false, ackDue := true, rxCount := wrapAdd 64 x.rxCount 1 }).countRx n f
  | .home => s.cx.home.contains f = true ∧ t = { s with cx := { s.cx with home := s.cx.home.eraseP fun g => g = f } }

/-- A frame that has reached its module in good order: its format and its destination are right and its route ends here
(12 R342, R345). -/
def ForHere (s : State) (via : Via) (f : Frame) : Prop :=
  s.supply.hold = false ∧ frFormatOk f = true ∧ coordOk s.geo f.dst = true ∧ s.fromGateway (cameBy via) = false ∧
    s.route s.geo none (s.arrivalDim (cameBy via)) f = .here

/-- A frame of a loaded partition in its epoch (12 R342, R363), while no load replaces the partition (R367). -/
def OfItsEpoch (s : State) (f : Frame) : Prop :=
  (s.part (frPart f)).loaded = true ∧ f.epoch = (s.part (frPart f)).epoch ∧ s.replacing (frPart f) = false

/-- Edges of the reference, one after the other. -/
def afterEdges : Nat → State → State
  | 0, s => s
  | n + 1, s => afterEdges n s.edge

end Sys2Proof.Safety
end

