-- ==== Sys2Proof/Certificates/Slice0/Obligations.lean ====
section
/-! DEFINITION. The statements for the provers. -/

open Sys2Proof Sys2Proof.Machine Sys2Proof.Safety

/-! The queue, the clock and the whole command set -/

/-- The front command of the queue runs on the state with the queue's rest; on an empty queue one edge of the reference passes
(the model's choice, assumption 2). -/
def Obligations.StepRunsFrontCommand : Prop :=
  ∀ s : State,
    (∀ (c : Instr) (rest : List Instr), s.pending = c :: rest → step s = exec c { s with pending := rest }) ∧
    (s.pending = [] → step s = .next s.edge)

/-- Every command of the module is carried out (none stops the machine), and none touches the queue. -/
def Obligations.EveryCommandAnswersAndKeepsTheQueue : Prop :=
  ∀ (c : Instr) (s : State), ∃ t, exec c s = .next t ∧ t.pending = s.pending

/-- R59: with CLK_MODE 0b00 an edge adds 6 ns and two fifths, a whole fifth part carried; five edges add exactly 32 ns; in
the other modes an edge adds 10 ns and the fifths, zero at reset release, stay zero. -/
def Obligations.ReferenceEdgesAdvanceModuleTime : Prop :=
  State.reset.time.fifth = 0 ∧
  ∀ s : State, s.power = .running → s.time.holdover = false → s.time.fifth < 5 →
    (s.time.clkMode = 0 →
      s.edge = { s with time := { s.time with
        now := s.time.now + BitVec.ofNat 64 (6 + (s.time.fifth + 2) / 5), fifth := (s.time.fifth + 2) % 5 } } ∧
      (afterEdges 5 s).time.now = s.time.now + 32) ∧
    (s.time.clkMode ≠ 0 → s.time.fifth = 0 →
      s.edge = { s with time := { s.time with now := s.time.now + 10 } } ∧ s.edge.time.fifth = 0)

/-! Bench orders -/

/-- A legal order on its bench: its draws are taken, its unit's effect on the bench, on memory and on the seams is
written, its flags are ORed into BQ_FLAGS and its out-of-bounds counts are added (R200, R208, R245); it holds of every order
whose effect raises no fault (R235) and in which no checker finds a difference (R150, R181, R390, R391). -/
def Obligations.UnitOrderRunsOnItsBench : Prop :=
  ∀ (c : Instr) (b : BenchId) (o : Order) (u : Upset) (s : State) (p : PartId),
    unitOrder c = some (b, o, u) → Alone s b p o →
    let s1 := (s.modBench b fun x => { x with
      draw := x.draw + BitVec.ofNat 64 (s.drawsOf b p (s.bench b).masks o), nextSeq := x.nextSeq + 1 }).upsetSram b p u
    let w := Order.effect o (s1.orderWork b p u (directSlot (s.bench b) o))
    let done := ((s1.putWork b p w).after b p o).modBench b fun x => { x with
      bqFlags := fOr x.bqFlags w.flags, decMasks := match o with | .loadwMask _ => x.masks | _ => x.decMasks }
    Undisturbed w → (done.oobAdds b p w.oob).2 = false → exec c s = .next (done.oobAdds b p w.oob).1

/-- An issued order runs in its slot: the same effect, and the slot keeps its flags, its counts and its outputs until it
completes (R195, R200); a stream-mode COMPACT has begun and runs on until its PRESS has read its last vector (R208). -/
def Obligations.IssuedOrderRunsInItsSlot : Prop :=
  ∀ (c : Instr) (b : BenchId) (o : Order) (u : Upset) (s : State) (p : PartId) (k : Nat) (i : InFlight),
    unitOrder c = some (b, o, u) → Issued s b p o k i →
    let s1 := s.upsetSram b p u
    let w := Order.effect o (s1.orderWork b p u i)
    Undisturbed w →
    exec c s = .next (((s1.putWork b p w).after b p o).modBench b fun x => { x with
      inflight := x.inflight.set k { i with
        ran := !Order.staysOn o, started := Order.staysOn o || i.started, since := s.now, flags := w.flags, oob := w.oob
        outRows := w.outRows, outTill := w.outTill, checks := [], outs := [], took := w.took } })

/-- The orders whose operands lie in rows, tiles, masks and slots alone (COPY, LOADW, PRESS,
SCAN, VEC, SIZE, QUANT, STAT, and SORT and MERGE in the forms over rows) leave every stack, every stain of a line and every
tile cache as they are (R210 to R224). -/
def Obligations.RowOrdersLeaveMemory : Prop :=
  ∀ (o : Order) (w : Work),
    (match o with
      | .copyShelf _ | .copyToSeam _ | .copyConvert _ | .loadw _ | .loadwMask _ | .press _ | .scan _ | .vec _ | .softmaxForward _
      | .softmaxBackward _ | .normForward _ | .normBackward _ | .size _ | .quant _ | .stat _ => true
      | .sort q => !q.mem
      | .merge q => !q.dense
      | _ => false) = true →
    (Order.effect o w).m.cells = w.m.cells ∧ (Order.effect o w).m.lineStain = w.m.lineStain ∧
      (Order.effect o w).m.caches = w.m.caches ∧ (Order.effect o w).m.stackSet = w.m.stackSet

/-- COPY mode 0 (R210): row i of the source appears with its stain bits in row i of the destination; every other row of
the shelf, and everything outside this bench, stays. -/
def Obligations.CopyShelfMovesWholeRows : Prop :=
  ∀ (b : BenchId) (o : CopyOp) (s : State) (p : PartId),
    Alone s b p (.copyShelf o) → Memory.wf 0 (s.bench b).shelf = true → o.srcRow + o.rows ≤ 16384 → o.dstRow + o.rows ≤ 16384 →
    ∃ x : Bench, exec (.copyShelf b o {}) s = .next (s.setBench b x) ∧
      (∀ i, i < o.rows → x.getRow (o.dstRow + i) = (s.bench b).getRow (o.srcRow + i) ∧
        x.rowStain (o.dstRow + i) = (s.bench b).rowStain (o.srcRow + i)) ∧
      (∀ r, r < o.dstRow ∨ o.dstRow + o.rows ≤ r → x.getRow r = (s.bench b).getRow r ∧ x.rowStain r = (s.bench b).rowStain r) ∧
      { x with shelf := (s.bench b).shelf, shelfStain := (s.bench b).shelfStain, nextSeq := (s.bench b).nextSeq, sram := (s.bench b).sram } =
        s.bench b

/-- LOADW in mask form (R211): mask M takes the order's row mask, column mask and tail; nothing else changes but the order
count. -/
def Obligations.LoadwMaskWritesItsMask : Prop :=
  ∀ (b : BenchId) (o : MaskOp) (s : State) (p : PartId), Alone s b p (.loadwMask o) →
    ∃ x : Bench, exec (.loadwMask b o {}) s = .next (s.setBench b x) ∧
      x.masks = (s.bench b).masks.set o.m { rows := o.rowMask, cols := o.colMask, tail := BitVec.ofNat 8 o.tail } ∧
      { x with masks := (s.bench b).masks, decMasks := (s.bench b).decMasks, nextSeq := (s.bench b).nextSeq, sram := (s.bench b).sram } =
        s.bench b

/-- An order whose fields break a rule (R235) takes the order fault of that breach: its partition stops (R236). -/
def Obligations.IllegalOrderFaults : Prop :=
  ∀ (c : Instr) (b : BenchId) (o : Order) (u : Upset) (s : State) (p : PartId) (f : Nat),
    unitOrder c = some (b, o, u) → s.benchLive b = true → (s.bench b).partOf = some p → (s.bench b).inflight = [] →
    (s.bench b).hold = .none → Order.check (s.checkCtx b p) o = some f →
    exec c s = .next (s.benchFault b f (Order.opcode o) false 0)

/-- Stopping a live partition (R236): it reads stopped, every bench of it keeps nothing in flight, no token withheld and
none on its way, and a partition-fault ticket is raised; benches of other partitions, the other
partitions and module time stay. -/
def Obligations.StoppedPartitionHasNothingInFlight : Prop :=
  ∀ (s : State) (p : PartId) (code : Nat) (cause : Option Nat) (notice : Option (Nat × Nat)),
    (s.part p).live = true →
    let t := s.stopPart p code cause notice
    (t.part p).stopped = true ∧
    (∀ b : BenchId, (s.bench b).partOf = some p →
      (t.bench b).inflight = [] ∧ (t.bench b).withheld = [] ∧ (t.bench b).sigIn = [] ∧ (t.bench b).asg = (s.bench b).asg ∧
        (t.bench b).shelf = (s.bench b).shelf ∧ (t.bench b).tokens = (s.bench b).tokens) ∧
    (∀ b : BenchId, (s.bench b).partOf ≠ some p → t.bench b = s.bench b) ∧
    (∀ q : PartId, q ≠ p → t.part q = s.part q) ∧ t.time = s.time ∧ t.nv = s.nv ∧ t.pending = s.pending

/-- COPY modes 1 and 2 (R202): rows sent go, with their stain bits, on the way of the seam of their end and of no other; with
ROWS rows queued at its end a receive takes them in order for rows DST_ROW on, and the seam-stall timer starts anew. -/
def Obligations.SeamCopiesMoveTheirRows : Prop :=
  (∀ (b : BenchId) (o : CopyOp) (s : State) (p : PartId), Alone s b p (.copyToSeam o) → o.srcRow + o.rows ≤ 16384 →
    ∃ t, exec (.copyToSeam b o {}) s = .next t ∧
      (t.part p).seams = (s.part p).seams.map (fun m =>
        if m.rcd.src = (s.bench b).logical && m.rcd.srcOut = o.seamEnd then
          { m with
            onTheWay := m.onTheWay ++ (s.bench b).seamRows o.srcRow o.rows
            senders := m.senders ++ List.replicate o.rows (s.bench b).nextSeq } else m) ∧
      (t.bench b).shelf = (s.bench b).shelf ∧ (t.bench b).shelfStain = (s.bench b).shelfStain ∧ t.mem = s.mem) ∧
  (∀ (b : BenchId) (o : CopyOp) (s : State) (p : PartId) (k : Nat) (m : SeamState),
    Alone s b p (.copyFromSeam o) → Memory.wf 0 (s.bench b).shelf = true → o.dstRow + o.rows ≤ 16384 → 0 < o.rows →
    (s.part p).seams.findIdx? (fun m => m.rcd.dst = (s.bench b).logical && m.rcd.dstIn = o.seamEnd) = some k →
    (s.part p).seams[k]? = some m → o.rows ≤ m.rows.length →
    ∃ t, exec (.copyFromSeam b o {}) s = .next t ∧
      (t.part p).seams = (s.part p).seams.set k { m with rows := m.rows.drop o.rows, since := s.now } ∧
      (∀ i, i < o.rows → (t.bench b).getRow (o.dstRow + i) = sliceAt (m.rows.getD i {}).bytes 0 512) ∧
      (∀ r, r < o.dstRow ∨ o.dstRow + o.rows ≤ r → (t.bench b).getRow r = (s.bench b).getRow r) ∧ t.mem = s.mem)

/-! The sequencer -/

/-- SIGNAL (R201, R228): a bench's own counter takes the sum at once, saturating with order fault 0x0A past 0xFFFF_FFFF;
for another bench of the partition the signal goes on its way to it. -/
def Obligations.SignalReachesItsCounter : Prop :=
  ∀ (b t : BenchId) (o : SignalOp) (s : State) (p : PartId), Alone s b p (.signal o) →
    s.benchOfLogical p o.bench = some t → o.value ≠ 0 →
    (t ≠ b → exec (.signal b o) s = .next (s.modBench t fun x => { x with sigIn := x.sigIn ++ [(b.idx, o.ctr, o.value.toNat)] })) ∧
    (t = b → ((s.bench b).tokens.getD o.ctr 0).toNat + o.value.toNat ≤ 0xFFFFFFFF →
      exec (.signal b o) s = .next (s.modBench b fun x => { x with tokens := x.tokens.set o.ctr (x.tokens.getD o.ctr 0 + o.value) })) ∧
    (t = b → 0xFFFFFFFF < ((s.bench b).tokens.getD o.ctr 0).toNat + o.value.toNat →
      exec (.signal b o) s =
        .next ((s.modBench b fun x => { x with tokens := x.tokens.set o.ctr 0xFFFFFFFF }).benchFault b 0x0A 0 false 0))

/-- A signal that arrives (R201): the first one of its source leaves the arriving signals and its value is added to its
counter; the other counters, the other benches and memory stay. -/
def Obligations.DeliveredSignalAddsToItsCounter : Prop :=
  ∀ (b : BenchId) (src ctr v : Nat) (s : State) (rest : List (Nat × Nat × Nat)),
    s.benchLive b = true → (s.bench b).sigIn = (src, ctr, v) :: rest → (s.bench b).inflight = [] →
    ((s.bench b).tokens.getD ctr 0).toNat + v ≤ 0xFFFFFFFF →
    exec (.signalDeliver b src) s = .next (s.modBench b fun x => { x with
      sigIn := rest, tokens := if v = 0 then x.tokens else x.tokens.set ctr (x.tokens.getD ctr 0 + BitVec.ofNat 32 v) })

/-- WAIT, FENCE and EVENT (R228, R233): a WAIT whose counter has reached THRESH goes on, and CONSUME subtracts THRESH from it;
a FENCE changes nothing; an EVENT writes its record with its code and data. -/
def Obligations.WaitFenceEventTakeEffect : Prop :=
  (∀ (b : BenchId) (o : WaitOp) (s : State) (p : PartId), Alone s b p (.wait o) →
    o.thresh.toNat ≤ ((s.bench b).tokens.getD o.ctr 0).toNat →
    exec (.wait b o) s = .next (if o.consume then s.modBench b fun x => { x with tokens := x.tokens.modify o.ctr (· - o.thresh) } else s)) ∧
  (∀ (b : BenchId) (scope : Bool) (s : State) (p : PartId), Alone s b p (.fence scope) → exec (.fence b scope) s = .next s) ∧
  (∀ (b : BenchId) (o : EventOp) (s : State) (p : PartId), Alone s b p (.event o) →
    exec (.event b o) s = .next (s.ringWrite p (eventBytes 0x02 p.val (s.bench b).logical (64 * b.tile.val + b.phys.val) o.code 0 0x52 0 o.data s.now)))

/-- LOOP, JUMP and HALT at decode (R233): a LOOP with passes opens a level over its body, and with COUNT 0 skips it; a JUMP
outside every loop goes on DISP orders further; a HALT ends the fetching of orders and keeps its code. -/
def Obligations.LoopJumpHaltActAtDecode : Prop :=
  ∀ (b : BenchId) (s : State) (p : PartId), (s.bench b).partOf = some p → s.decodes b = true →
    let x := s.bench b
    let back (y : Bench) : State := s.setBench b (y.refill (s.part p).hdr.addrBook s.now)
    (∀ o : LoopOp, 1 ≤ o.body → x.loops.length < 4 →
      (∀ l ∈ x.loops.head?, x.pc + 16 + 16 * o.body ≤ l.first + 16 * l.body) →
      (1 ≤ o.count → exec (.loop b o) s = .next (back { x with
        pc := x.pc + 16
        loops := { first := x.pc + 16, body := o.body, count := o.count, iter := 0, rs := o.rs, es := o.es } :: x.loops })) ∧
      (o.count = 0 → exec (.loop b o) s = .next (back (x.advance (x.pc + 16 + 16 * o.body))))) ∧
    (∀ d : Int, x.loops = [] →
      exec (.jump b d) s = .next (back (x.redirect (((x.pc : Int) + 16 * d) % 2 ^ 48).toNat))) ∧
    (∀ code : Nat, exec (.halt b code) s = .next (back { x with haltCode := some (code, x.pc), lineReqs := [], walks := [], queue := [], loops := [] })) ∧
    (∀ o : LoopOp, o.body = 0 ∨ 4 ≤ x.loops.length → exec (.loop b o) s = .next (s.benchFault b 0x09 0x50 false x.pc)) ∧
    (∀ d : Int, x.loops ≠ [] → exec (.jump b d) s = .next (s.benchFault b 0x09 0x51 false x.pc))

/-- Decode (R191, R192, R204): the order at the decode address, legal, enters its stream behind the others with its header,
its sequence number and the base of its draws; the draw counter moves past its draws. -/
def Obligations.DecodedOrderEntersItsStream : Prop :=
  ∀ (b : BenchId) (s : State) (p : PartId) (q : QEntry) (o : Order),
    (s.bench b).partOf = some p → s.decodes b = true → (s.bench b).queue.find? (fun e => e.va = (s.bench b).pc) = some q →
    s.decodeWord b p q.word.toNat = (o, none) →
    (match o with | .loop _ | .jump _ | .halt _ => false | _ => true) = true →
    (s.bench b).fStream.length < 32 → (s.bench b).bStream.length < 32 →
    let d : DecOrder := { hdr := headerOf q.word.toNat, body := o, va := (s.bench b).pc, seq := (s.bench b).nextSeq,
                          drawBase := (s.bench b).draw, staticFault := none }
    let n := s.drawsOf b p (s.bench b).decMasks o
    exec (.orderDecode b false) s = .next (s.modBench b fun x =>
      (({ x with
          draw := x.draw + BitVec.ofNat 64 n, nextSeq := x.nextSeq + 1
          fStream := if d.hdr.stream then x.fStream else x.fStream ++ [d]
          bStream := if d.hdr.stream then x.bStream ++ [d] else x.bStream
          decMasks := match o with
            | .loadwMask m => x.decMasks.set m.m { rows := m.rowMask, cols := m.colMask, tail := BitVec.ofNat 8 m.tail }
            | _ => x.decMasks }).advance (x.pc + 16)).refill (s.part p).hdr.addrBook s.now)

/-- Issue (R193, R195, R199): the chosen stream head leaves its stream, its NEED token is consumed, and it takes a slot. -/
def Obligations.IssuedHeadTakesASlot : Prop :=
  ∀ (b : BenchId) (s : State) (p : PartId) (d : DecOrder),
    (s.bench b).partOf = some p → s.benchLive b = true → (s.bench b).seqState = .running → (s.bench b).stopped = false →
    (s.bench b).hold = .none → (s.part p).quiescing = false → (s.bench b).chosen = some d → d.staticFault = none →
    (d.hdr.sigEn = true → d.hdr.sigBench < (s.part p).benches.length) →
    ∃ t, exec (.orderIssue b) s = .next t ∧
      (t.bench b).inflight = (s.bench b).inflight ++ [{ dec := d, since := s.now, mask := (s.bench b).acceptMask d.body }] ∧
      (t.bench b).tokens = (if d.hdr.needEn then (s.bench b).tokens.modify d.hdr.need (· - 1) else (s.bench b).tokens) ∧
      (t.bench b).fStream = (if d.hdr.stream then (s.bench b).fStream else (s.bench b).fStream.drop 1) ∧
      (t.bench b).bStream = (if d.hdr.stream then (s.bench b).bStream.drop 1 else (s.bench b).bStream) ∧
      (t.bench b).issuedCount = ((s.bench b).issuedCount + 1) % 2 ^ 64 ∧
      (t.bench b).shelf = (s.bench b).shelf ∧ t.mem.cells = s.mem.cells ∧ t.caches = s.caches ∧ t.parts = s.parts ∧
      ∀ c : BenchId, c ≠ b → t.bench c = s.bench c

/-- The chosen head (R193): it is the head of its stream, it is ready, and of two ready heads it is the older. -/
def Obligations.ChosenHeadIsTheOlderReadyOne : Prop :=
  ∀ (x : Bench) (d : DecOrder), x.chosen = some d →
    (x.fStream.head? = some d ∨ x.bStream.head? = some d) ∧ x.ready d = true ∧
    (∀ e, (x.fStream.head? = some e ∨ x.bStream.head? = some e) → x.ready e = true → d.seq ≤ e.seq) ∧
    (d.hdr.needEn = true → 1 ≤ (x.tokens.getD d.hdr.need 0).toNat)

/-- Completion (R200): an order that may complete leaves its slot, its flags are ORed into BQ_FLAGS, its record is written
with EVT, and its header signal of 1 goes to its counter. -/
def Obligations.CompletedOrderFreesItsSlotAndSignals : Prop :=
  ∀ (b : BenchId) (k : Nat) (s : State) (p : PartId) (i : InFlight),
    (s.bench b).partOf = some p → s.benchLive b = true → (s.bench b).inflight[k]? = some i → (s.bench b).mayComplete k i = true →
    i.oob = [] → (s.bench b).hold = .none → (s.bench b).stopped = false →
    let s1 := s.modBench b fun x => { x with inflight := removeAt x.inflight k, bqFlags := fOr x.bqFlags i.flags }
    let s2 := if i.dec.hdr.evt then s1.benchEvent b 0x01 0 i.flags (Order.opcode i.dec.body) i.dec.va else s1
    exec (.orderComplete b k) s = .next (if i.dec.hdr.sigEn then s2.signalTo b i.dec.hdr.sigBench i.dec.hdr.sig 1 else s2)

/-- A bench reads halted (R233): with its streams and slots empty after HALT, the HALT record is written and its state
changes; a tally that is due forms (R402). -/
def Obligations.HaltedBenchWritesItsRecord : Prop :=
  ∀ (b : BenchId) (s : State) (p : PartId) (code va : Nat),
    (s.bench b).partOf = some p → s.benchLive b = true → (s.bench b).haltCode = some (code, va) → (s.bench b).seqState = .running →
    (s.bench b).fStream = [] → (s.bench b).bStream = [] → (s.bench b).inflight = [] →
    exec (.benchHalted b) s =
      .next (((s.benchEvent b 0x03 code {} 0x53 va).modBench b fun x => { x with seqState := .halted }).tallyDue p)

/-- BQ_CTL and BD_TC_CTL (R197, R198, R238, R249): START on an idle bench of a live partition begins at BQ_PC with empty
streams, an empty queue and an empty descriptor cache; STOP on a running one ends decode and issue, and the bench reads halted
once nothing of it is in flight; CLR_TOKENS clears the
64 counters of a bench that does not run; a seed write clears the draw counter; the invalidations drop the walk cache and
the leaves they name, and walks in progress begin again at the root. -/
def Obligations.BenchControlWritesAct : Prop :=
  ∀ (b : BenchId) (s : State), Reached s b →
    (∀ p, (s.bench b).partOf = some p → (s.bench b).seqState ≠ .running → (s.bench b).hold = .none → (s.part p).live = true →
      (s.bench b).pc % 16 = 0 →
      ∃ t, exec (.bqStart b) s = .next t ∧ (t.bench b).seqState = .running ∧ (t.bench b).stopped = false ∧
        (t.bench b).pc = (s.bench b).pc ∧ (t.bench b).queue = [] ∧ (t.bench b).fStream = [] ∧ (t.bench b).bStream = [] ∧
        (t.bench b).inflight = [] ∧ (t.bench b).loops = [] ∧ (t.bench b).dcache = [] ∧ (t.bench b).ownerLines = [] ∧ (t.bench b).tokens = (s.bench b).tokens ∧
        (t.bench b).shelf = (s.bench b).shelf ∧ (t.bench b).draw = (s.bench b).draw ∧ t.mem = s.mem ∧
        ∀ c : BenchId, c ≠ b → t.bench c = s.bench c) ∧
    (∀ p, (s.bench b).partOf = some p → (s.bench b).seqState = .running → (s.bench b).stopped = false →
      let ended : State := s.modBench b fun x => { x with
        stopped := true, fStream := [], bStream := [], queue := [], lineReqs := [], walks := [], loops := [], haltCode := none }
      ((s.bench b).inflight ≠ [] → exec (.bqStop b) s = .next ended) ∧
      ((s.bench b).inflight = [] →
        exec (.bqStop b) s = .next ((ended.modBench b fun x => { x with seqState := .halted }).tallyDue p))) ∧
    ((s.bench b).seqState ≠ .running →
      exec (.bqClrTokens b) s = .next (s.modBench b fun x => { x with tokens := List.replicate 64 0 })) ∧
    (∀ v, (s.bench b).seqState ≠ .running →
      exec (.bqSeedWrite b v) s = .next (s.modBench b fun x => { x with seed := v, draw := 0 })) ∧
    (let anew (ws : List Walk) : List Walk := ws.map fun w => { w with level := 0, table := s.bookOf b }
     exec (.invalAll b) s = .next (s.modBench b fun x => { x with
       walks := anew x.walks, tlb := [], wcache := [], invalWaits := x.lineReqs.map (·.1) }) ∧
     ∀ va, exec (.invalVa b va) s = .next (s.modBench b fun x => { x with
       walks := anew x.walks, tlb := x.tlb.filter fun e => !e.covers (va / 2 ^ 21 * 2 ^ 21), wcache := []
       invalWaits := (x.lineReqs.map (·.1)).filter fun l => x.tlb.any fun e => e.covers (va / 2 ^ 21 * 2 ^ 21) && e.covers l }))

/-- The fills behind the sequencer (R190, R249; R241; R202): a requested order line, read without a fault, enters the queue where
it has room; a walk read goes a level down; a descriptor read places a legal descriptor in the descriptor cache, and the orders
that name it go on; a seam row on its way enters its queue. -/
def Obligations.FetchesAndWalksArrive : Prop :=
  (∀ (b : BenchId) (s : State) (p : PartId) (line : Nat) (d : List Byte) (w : Work),
    (s.bench b).partOf = some p → s.benchLive b = true → ((s.bench b).lineReqs.any fun r => r.1 = lineBase line) = true →
    ((s.part p).pendReqs.any fun r => r.bench = b.idx && r.pa = lineBase line) = false → (s.bench b).queue.length ≤ 252 →
    let s1 := s.modBench b fun x => { x with
      lineReqs := x.lineReqs.filter fun r => r.1 ≠ lineBase line
      walks := x.walks.filter fun w => w.va / 2 ^ 21 ≠ lineBase line / 2 ^ 21 }
    (s1.work b p).fetchLine (lineBase line) = (d, w) → w.fault = none →
    ∃ t, exec (.orderLineFetch b line) s = .next t ∧
      ∀ i, i < 4 → (s.bench b).pc ≤ lineBase line + 16 * i →
        (∀ e ∈ (s.bench b).queue, e.va ≠ lineBase line + 16 * i) →
        ({ va := lineBase line + 16 * i, word := BitVec.ofNat 128 (leAt d (16 * i) 16) } : QEntry) ∈ (t.bench b).queue) ∧
  (∀ (b : BenchId) (s : State) (p : PartId) (i pa : Nat) (k : Walk) (d : List Byte) (st : Bool) (m : MemSys),
    (s.bench b).partOf = some p → s.benchLive b = true → (s.bench b).walks[i]? = some k →
    s.mem.readIn (k.table + 8 * bookIndex k.level k.va) 8 (s.originOf (.bench b)) = some (d, st, m) →
    bookEntry k.level (leNat d) = .table pa →
    ∃ t, exec (.translationWalk b i) s = .next t ∧
      (t.bench b).walks = (s.bench b).walks.set i { k with level := k.level + 1, table := pa, since := s.now } ∧
      (t.bench b).bdLines = wrapAdd 64 (s.bench b).bdLines 1) ∧
  (∀ (b : BenchId) (s : State) (p : PartId) (i : Nat) (d : List Byte) (w : Work),
    (s.bench b).partOf = some p → s.benchLive b = true → (s.work b p).rawDesc i = (d, w) → w.fault = none →
    (w.checkDesc (parseDesc d)).fault = none →
    exec (.descriptorFill b i false) s = .next ((s.putWork b p (w.checkDesc (parseDesc d))).modBench b (·.filled i s.now))) ∧
  (∀ (s : State) (p : PartId) (k : Nat) (m : SeamState) (r : SeamRow) (rest : List SeamRow),
    (s.part p).live = true → s.supply.hold = false → (s.part p).seams[k]? = some m → m.onTheWay = r :: rest → m.rows.length < 64 →
    (∀ b, s.benchOfLogical p m.rcd.dst = some b → ∀ i ∈ (s.bench b).inflight, i.started = false) →
    ∃ t, exec (.seamRowArrive p k) s = .next t ∧ t.mem = s.mem ∧
      (t.part p).seams = (s.part p).seams.set k { m with
        rows := m.rows ++ [r], onTheWay := rest, senders := m.senders.drop 1
        since := if m.rows.isEmpty then s.now else m.since })

/-! The crossing interface of a bench -/

/-- SEND (R230, R351): its rows leave in 2 × ROWS frames of 256 bytes, in row order, numbered by FIDX with LAST on the last;
the bench's rows and memory stay. -/
def Obligations.SendLaunchesTwoFramesARow : Prop :=
  ∀ (b : BenchId) (o : MsgOp) (s : State) (p : PartId), Alone s b p (.send o) → o.row + o.rows ≤ 16384 →
    ∃ fs : List Frame,
      exec (.send b o) s = .next ((s.modBench b fun x => { x with nextSeq := x.nextSeq + 1 }).launchAll (some p) fs) ∧
      fs.length = 2 * o.rows ∧
      ∀ (k : Nat) (f : Frame), fs[k]? = some f →
        f.payload = (s.bench b).shelfRead (512 * o.row + 256 * k) 256 ∧ f.plen = 16 ∧ frFidx f = k % 4096 ∧
        f.last = (k + 1 = 2 * o.rows : Bool) ∧ f.typ = 1 ∧ f.vc = 0 ∧ f.ef = o.tag ∧ f.d = (s.bench b).logical ∧
        f.dst = o.peer.toNat % 2 ^ 18 ∧ f.part = p.val ∧ f.epoch = (s.part p).epoch

/-- RECV (R230): it awaits 2 × ROWS frames of its peer and tag; with ROWS 0 it completes at once. -/
def Obligations.RecvAwaitsItsFrames : Prop :=
  ∀ (b : BenchId) (o : MsgOp) (s : State) (p : PartId), Alone s b p (.recv o) → o.row + o.rows ≤ 16384 → (s.bench b).rxStore = [] →
    exec (.recv b o) s = .next (s.modBench b fun x => { x with
      nextSeq := x.nextSeq + 1
      recvs := if o.rows = 0 then x.recvs
        else x.recvs ++ [{ source := o.peer, tag := o.tag, row := o.row, total := 2 * o.rows, seq := x.nextSeq, since := s.now }] })

/-- REDUCE (R231, R358): it takes the next SEQ of its bench and tree; with N 0 it contributes nothing and completes, and at a
leaf of its tree in 16-bit mode its entries go up to the parent in one frame. -/
def Obligations.ReduceContributesItsEntries : Prop :=
  ∀ (b : BenchId) (o : ReduceOp) (s : State) (p : PartId), Alone s b p (.reduce o) → (s.bench b).forceExact = false →
    let x := s.bench b
    let seqOf := match (s.part p).redSeq.find? fun e => e.1 = x.logical && e.2.1 = o.tree with | some e => e.2.2 | none => 0
    let seqs := (x.logical, o.tree, (seqOf + 1) % 256) :: (s.part p).redSeq.filter fun e => !(e.1 = x.logical && e.2.1 = o.tree)
    let s1 := (s.modBench b fun x => { x with nextSeq := x.nextSeq + 1 }).modPart p fun q => { q with redSeq := seqs }
    (o.n = 0 → o.srcRow ≤ 16384 → o.dstRow ≤ 16384 → exec (.reduce b o) s = .next s1) ∧
    (∀ parent, o.mode = 0 → 1 ≤ o.n → o.n ≤ 128 → o.srcRow + 1 ≤ 16384 → o.dstRow + 1 ≤ 16384 →
      (s.part p).reds = [] → (s.part p).redFrames = [] → (s.redTree p o.tree).parent = some parent → (s.redTree p o.tree).kids = [] →
      ∃ (c : RedCtx) (f : Frame),
        exec (.reduce b o) s = .next ((s1.modPart p fun q => { q with reds := [c] }).launchAll (some p) [f]) ∧
        c.tree = o.tree ∧ c.bench = x.logical ∧ c.seqNo = seqOf ∧ c.dst = o.dstRow ∧ c.sentUp = 1 ∧
        c.local_ = (x.packed 16 o.srcRow o.n).map (·.1) ∧
        f.typ = 0x10 ∧ f.dst = parent ∧ f.last = true ∧ f.d = x.logical ∧ f.ef = seqOf ∧ f.c = o.tree ∧
        f.payload = sliceAt (((x.packed 16 o.srcRow o.n).map fun e => (sum16 e.1 []).1).flatMap (leBytes 2)) 0
          (16 * ceilDiv (2 * o.n) 16))

/-- EXCHANGE (R262 to R266, R273; 12 R352) that awaits at least one other bench: with legal tables and no stain, the message of
each peer word but its own leaves in the order of the words, a header of its counts and the tokens behind it; a dispatch adds the
routes out of bounds and past capacity to its counters and writes the overflow counts to their row; and the order waits with its
receive context open, every other bench and all memory as before. -/
def Obligations.ExchangeCountsSendsAndWaits : Prop :=
  ∀ (b : BenchId) (o : ExchangeOp) (s : State) (p : PartId) (dd : DispDesc),
    Alone s b p (.exchange o) → parseDisp ((s.bench b).shelfRead (512 * o.dispRow) 64) = (dd, true, true) →
    exRowsBad dd o = false → (s.bench b).shelfStain = [] → (s.bench b).rxStore = [] →
    (∀ e ∈ (s.bench b).exchanges, e.seq ≠ (s.bench b).nextSeq) →
    let x := s.bench b
    let peers := x.words o.peerRow o.peers
    let hist := x.words dd.histRow dd.experts
    let m := x.expertMap dd
    let me := peerWord s.coord x.logical
    let order := localOrder m ((peers.zipIdx.find? fun e => e.1 = me).map (·.2)) dd.locals_
    let w := walkRoutes x dd (dd.mode = 0 && (dd.strict || (s.part p).hdr.strictPolicy = 1)) ((s.part p).caps.getD dd.cap 0) hist m
    let keptOf (q : Nat) : List Kept := w.kept.filter fun k => k.1 = q
    let (first, count) := x.receiveTable dd o.peers
    let message (counts src : Nat → List Nat) (e : Nat × Nat) : List Frame :=
      if e.1 = me then [] else
        let (bs, st) := x.tokensAt o.srcRow o.tokq (src e.2)
        exMessage { s.header p 0x02 2 (e.1 % 2 ^ 18) with c := bits e.1 24 18, d := x.logical, ef := o.tag } (counts e.2) bs st
    let waits (c : ExCtx) (ret : Bool) : Prop :=
      c.ex = o ∧ c.ret = ret ∧ c.desc = dd ∧ c.peers = peers.map (BitVec.ofNat 32) ∧ c.started = false ∧ c.order = order ∧
        c.since = s.now ∧ c.seq = x.nextSeq
    peers.any (peerBad s.geo) = false → (∃ pw ∈ peers, pw ≠ me) → w.strictAt = none →
    (dd.mode = 0 → tableBreach dd hist (x.words dd.offRow dd.experts) m peers = none →
      (∀ e, peers.zipIdx.find? (fun e => e.1 = me) = some e → localsOf m e.2 = dd.locals_) →
      let counts (q : Nat) : List Nat :=
        (List.range (localsOf m q)).map fun l => ((keptOf q).filter fun k => k.2.1 = l).length
      ∃ c, waits c false ∧
        exec (.exchangeDispatch b o) s = .next (((s.modBench b fun x => { x.putWords dd.ovfRow w.excess with
            nextSeq := x.nextSeq + 1, exOob := wrapAdd 64 x.exOob w.oob
            exOverflow := wrapAdd 64 x.exOverflow (w.excess.foldl (· + ·) 0) }).launchAll (some p)
          (peers.zipIdx.flatMap (message counts fun q => (keptOf q).map (·.2.2.1)))).modBench b fun x => { x with
            exchanges := x.exchanges ++ [c] })) ∧
    (dd.mode = 1 →
      (List.range o.peers).all (fun q => (peerPositions order first count q).all fun τ =>
        o.srcRow + rowsFor ((τ + 1) * o.tokq * 64) ≤ shelfRows) = true →
      ∃ c, waits c true ∧
        exec (.exchangeReturn b o) s = .next (((s.modBench b fun x => { x with nextSeq := x.nextSeq + 1 }).launchAll (some p)
          (peers.zipIdx.flatMap (message (fun q => count.map fun cs => cs.getD q 0) (peerPositions order first count)))).modBench b
            fun x => { x with exchanges := x.exchanges ++ [c] }))

/-- FOLD (R371, R373, R374, R388): descriptors that R371 refuses fault it with 0x03 or 0x04 and cause 1; a FOLD whose plan keeps
within this bench reads every block before it writes one, counts its blocks, and completes at once with its staging lines
released, so that a FOLD waiting for them may issue (R375). -/
def Obligations.FoldMovesItsLocalBlocks : Prop :=
  ∀ (b : BenchId) (o : FoldOp) (s : State) (p : PartId) (sd dd : TDesc) (so do_ : Option TDesc) (rs rd : List Byte) (w1 w2 w3 w : Work),
    Alone s b p (.fold o) → (s.bench b).rxStore = [] → (∀ e ∈ (s.bench b).folds, e.seq ≠ (s.bench b).nextSeq) →
    let s1 := s.modBench b fun x => { x with nextSeq := x.nextSeq + 1 }
    let src : FoldSide := { i := o.src, d := sd, o := so }
    let dst : FoldSide := { i := o.dst, d := dd, o := do_ }
    let own := if so.isSome then sd else dd
    let elems := blockElems own
    let dec : DecOrder := { body := .fold o, seq := (s.bench b).nextSeq }
    (s1.work b p).desc o.src = (sd, so, w1) → w1.desc o.dst = (dd, do_, w2) → w2.rawDesc o.src = (rs, w3) →
    w3.rawDesc o.dst = (rd, w) → w.fault = none →
    (∀ code, foldMismatch src dst = some code →
      exec (.fold b o) s = .next ((s1.putWork b p w).foldFail b dec { code := code } 1 0)) ∧
    (∀ (plan : List FoldStep) (v v1 : Work) (ds : List FoldData),
      foldMismatch src dst = none →
      Work.foldPlan src dst (peerWord s.coord (s.bench b).logical) (blockCount own) 0 w = (plan, v) → v.fault = none →
      (plan.all fun k => match k with | .move _ _ | .fill _ => true | _ => false) = true →
      Work.readSteps src elems own plan v = (ds, v1) → v1.fault = none →
      let lines := (if so.isSome && do_.isSome then stagedSlots src dst elems plan else []).length * stageLinesOf src.f elems
      let fills := (plan.filter fun k => match k with | .fill _ => true | _ => false).length
      let u := ds.foldl (fun w k => if w.ok then w.writeStep dst elems own k else w)
        { v1 with m := MemSys.stage b.tile b.phys 524289 lines 0 v1.m }
      64 * lines ≤ 4194304 → (lines = 0 ∨ (s.cache b.tile).stageLines.length + lines ≤ 524288) → u.fault = none → u.oob = [] →
      let done := ((s1.putWork b p u).modBench b fun x => { x with
          fdOut := wrapAdd 64 x.fdOut (ds.length - fills), fdIn := wrapAdd 64 x.fdIn ds.length }).modCache
        b.tile fun t => { t with stageLines := dropStage b.phys lines t.stageLines }
      exec (.fold b o) s = .next (if lines = 0 then done else done.poolFreed b.tile))

/-! Frames -/

/-- Transit (R345): a frame for another module joins the queue of its port by the routes in force, with the cells that it holds
of the port it came by; nothing else of the module changes. -/
def Obligations.TransitFramesGoOn : Prop :=
  ∀ (c : Instr) (via : Via) (f g : Frame) (ev : FrameEvents) (m : Nat) (s s1 : State),
    frameOf c = some (via, f, ev) → Accepted s via f s1 → s1.supply.hold = false → frFormatOk f = true → f.typ ≠ 0x31 →
    coordOk s1.geo f.dst = true → s1.fromGateway (cameBy via) = false →
    s1.route s1.geo none (s1.arrivalDim (cameBy via)) f = .port m g →
    exec c s = .next (State.enqueue s1 m g ((cameBy via).map fun n => (n, frPair f, f.shr, frCells f)))

/-- The four frame kinds of a bench (R341, R344, R351; 09 R271): a frame of a loaded partition in its epoch joins the receive
store of its bench, from which the orders that await it take it, and restarts the watch of the exchange that awaits it; a frame
of a message whose sequence has broken is discarded, and its last frame ends that. -/
def Obligations.BenchFramesReachTheirBench : Prop :=
  ∀ (c : Instr) (via : Via) (f : Frame) (ev : FrameEvents) (s s1 : State) (b : BenchId),
    frameOf c = some (via, f, ev) → Accepted s via f s1 → ForHere s1 via f → OfItsEpoch s1 f → f.src ≠ gatewayCoord →
    (f.typ = 0x01 ∨ f.typ = 0x02 ∨ f.typ = 0x03 ∨ f.typ = 0x04) → s1.benchOfLogical (frPart f) f.c = some b →
    ((s1.bench b).broken.contains (frFlow f) = false →
      exec c s = .next ((s1.modBench b fun x => { x with
        rxStore := x.rxStore ++ [(cameBy via, f)]
        exchanges := x.exchanges.map fun e => if e.awaits f then { e with since := s1.now } else e }).feed b (frPart f))) ∧
    ((s1.bench b).broken.contains (frFlow f) = true →
      exec c s = .next ((s1.payCredit (cameBy via) f).modBench b fun x => { x with
        broken := if f.last then x.broken.filter (· ≠ frFlow f) else x.broken }))

/-- A MSG frame that its RECV awaits (R351): with nothing else waiting, the next frame in sequence puts its 256 bytes and its
four stain bits into its half row, and no other row changes. -/
def Obligations.MsgFrameFillsItsHalfRow : Prop :=
  ∀ (b : BenchId) (p : PartId) (s : State) (c : RecvCtx) (f : Frame),
    s.benchLive b = true → (s.bench b).partOf = some p → Memory.wf 0 (s.bench b).shelf = true → (s.part p).hdr.stainPolicy ≠ 1 →
    frFidx f = c.got % 4096 → f.last = (c.got + 1 = c.total : Bool) →
    let t := s.recvFrame b p c f
    (t.bench b).shelfRead (512 * c.row + 256 * c.got) 256 = sliceAt f.payload 0 256 ∧
    (∀ a, a < 512 * c.row + 256 * c.got ∨ 512 * c.row + 256 * c.got + 256 ≤ a →
      memGet 0 (t.bench b).shelf a = memGet 0 (s.bench b).shelf a) ∧
    (∀ i, i < 4 → (t.bench b).shelfStain.contains (8 * c.row + 4 * c.got + i) = bit f.stain i) ∧ t.mem = s.mem ∧ t.parts = s.parts

/-- RED, MEM_REQ and MEM_RESP frames (R342, R344, R356, R378): a RED frame of a held tree waits for its REDUCE or goes to it,
unless its stage has broken off, when it is discarded; a MEM_REQ for an unloaded partition is answered with STATUS 1, and for a
loaded one it is performed and answered; a MEM_RESP goes to the gather that asked for it. -/
def Obligations.ReductionAndMemoryFramesAreServed : Prop :=
  ∀ (via : Via) (f : Frame) (s s1 : State), Accepted s via f s1 → ForHere s1 via f → f.src ≠ gatewayCoord →
    (∀ k, f.typ = 0x10 → OfItsEpoch s1 f → s1.redKnown (cameBy via) f = true →
      let x := s1.part (frPart f)
      (x.brokenReds.contains (frRedFlow f) = true →
        exec (.redFrame via f k) s = .next ((s1.payCredit (cameBy via) f).modPart (frPart f) fun x => { x with
          brokenReds := if f.last then x.brokenReds.filter (· ≠ frRedFlow f) else x.brokenReds })) ∧
      (x.brokenReds.contains (frRedFlow f) = false → x.redOf f = none →
        exec (.redFrame via f k) s =
          .next (s1.modPart (frPart f) fun x => { x with redFrames := x.redFrames ++ [(cameBy via, f, k)] })) ∧
      (∀ c, x.brokenReds.contains (frRedFlow f) = false → x.redOf f = some c →
        exec (.redFrame via f k) s = .next ((s1.payCredit (cameBy via) f).redTake (frPart f) c f k))) ∧
    (∀ ev, f.typ = 0x20 → (s1.part (frPart f)).loaded = false →
      exec (.memReqFrame via ⟨f, ev⟩) s = .next ((s1.payCredit (cameBy via) f).launch none {
        typ := 0x21, vc := 1, part := f.part, epoch := f.epoch, dst := f.src, src := s1.coord, c := f.c, d := 1
        ef := (memReqOf f.payload).reqId })) ∧
    (∀ ev, f.typ = 0x20 → OfItsEpoch s1 f →
      ∃ (a : MemAnswer) (t : State), (s1.payCredit (cameBy via) f).memRequest (frPart f) f ev = (a, t) ∧
        exec (.memReqFrame via ⟨f, ev⟩) s = .next (t.launch (some (frPart f)) {
          typ := 0x21, vc := 1, part := f.part, plen := ceilDiv a.payload.length 16, stain := stainBits a.stain, epoch := f.epoch
          dst := f.src, src := t.coord, c := f.c, d := a.status, ef := (memReqOf f.payload).reqId, payload := a.payload })) ∧
    (∀ b, f.typ = 0x21 → OfItsEpoch s1 f → s1.benchOfLogical (frPart f) f.c = some b →
      exec (.memRespFrame via f) s = .next ((s1.payCredit (cameBy via) f).foldPulled b (frPart f) f))

/-- MGMT and PROBE frames (R335, R437): a piece of a management message is kept behind the earlier ones of its sender and
the last one delivers it; a PROBE frame in probation adds its bits, and at 10^12 probation is done. -/
def Obligations.ManagementAndProbeFramesAccumulate : Prop :=
  ∀ (via : Via) (f : Frame) (s s1 : State), Accepted s via f s1 →
    let s2 := s1.payCredit (cameBy via) f
    let old := match s2.cx.mgmtRx.find? fun e => e.1 = f.src with | some e => e.2 | none => []
    let rest := s2.cx.mgmtRx.filter fun e => e.1 ≠ f.src
    (f.typ = 0x30 → ForHere s1 via f → f.last = false →
      exec (.mgmtFrame via f) s = .next { s2 with cx := { s2.cx with mgmtRx := rest ++ [(f.src, old ++ f.payload)] } }) ∧
    (f.typ = 0x30 → ForHere s1 via f → f.last = true →
      exec (.mgmtFrame via f) s = .next (State.mgmtArrived { s2 with cx := { s2.cx with mgmtRx := rest } } f.src (old ++ f.payload))) ∧
    (∀ n lseq, via = .port n lseq → f.typ = 0x31 → s1.supply.hold = false → frFormatOk f = true → (s2.port n).state = 3 →
      exec (.probeFrame via f) s = .next (s2.modPort n fun x => { x with
        probeBits := min (2 ^ 40 - 1) (x.probeBits + 128 * f.plen)
        myProbeDone := x.myProbeDone || 10 ^ 12 ≤ min (2 ^ 40 - 1) (x.probeBits + 128 * f.plen) }))

/-- Discards (R342): a frame with a breach of its format, an illegal destination, or no partition here is counted under its
one cause; its cells go back and nothing else of it stays. -/
def Obligations.DiscardedFramesAreCountedOnce : Prop :=
  ∀ (c : Instr) (via : Via) (f : Frame) (ev : FrameEvents) (s s1 : State),
    frameOf c = some (via, f, ev) → Accepted s via f s1 → s1.supply.hold = false →
    (frFormatOk f = false → exec c s = .next (s1.dropFrame (cameBy via) f Crossing.onFormat)) ∧
    (frFormatOk f = true → f.typ ≠ 0x31 → coordOk s1.geo f.dst = false →
      exec c s = .next (s1.dropFrame (cameBy via) f Crossing.onRoute)) ∧
    (ForHere s1 via f → f.typ ≠ 0x20 → f.typ ≠ 0x30 → f.typ ≠ 0x31 → (s1.part (frPart f)).loaded = false →
      exec c s = .next (s1.dropFrame (cameBy via) f Crossing.onNoPart)) ∧
    (ForHere s1 via f → f.typ = 0x10 → (s1.part (frPart f)).loaded = true → s1.redKnown (cameBy via) f = false →
      exec c s = .next (s1.dropFrame (cameBy via) f Crossing.onTree))

/-- R363: of any two epochs a frame's is equal, older (1 to 32,768 behind) or newer (1 to 32,767 ahead); at its destination an
older frame and a newer one are discarded and counted apart; transit, management frames and gateway frames are not compared. -/
def Obligations.FrameEpochsAreCompared : Prop :=
  (∀ cur e : BitVec 16,
    (frOlder cur e = true ↔ 1 ≤ (cur - e).toNat ∧ (cur - e).toNat ≤ 32768) ∧
    (frNewer cur e = true ↔ 1 ≤ (e - cur).toNat ∧ (e - cur).toNat ≤ 32767) ∧
    ((e = cur ∧ frOlder cur e = false ∧ frNewer cur e = false) ∨ (e ≠ cur ∧ frOlder cur e = true ∧ frNewer cur e = false) ∨
      (e ≠ cur ∧ frOlder cur e = false ∧ frNewer cur e = true))) ∧
  ∀ (c : Instr) (via : Via) (f : Frame) (ev : FrameEvents) (s s1 : State),
    frameOf c = some (via, f, ev) → Accepted s via f s1 → s1.supply.hold = false →
    (∀ b : BenchId, ForHere s1 via f → f.typ ≠ 0x30 → f.typ ≠ 0x31 → f.src ≠ gatewayCoord → (s1.part (frPart f)).loaded = true →
      (f.typ = 0x10 ∧ s1.redKnown (cameBy via) f = true ∨ f.typ = 0x20 ∨
        f.typ ≠ 0x10 ∧ f.typ ≠ 0x20 ∧ s1.benchOfLogical (frPart f) f.c = some b) →
      let late := s1.dropFrame (cameBy via) f Crossing.onOlder
      let early := s1.dropFrame (cameBy via) f Crossing.onNewer
      (frOlder (s1.part (frPart f)).epoch f.epoch = true →
        exec c s = .next late ∧ late.cx.older = satAdd 32 s1.cx.older 1 ∧ late.cx.newer = s1.cx.newer) ∧
      (frNewer (s1.part (frPart f)).epoch f.epoch = true →
        exec c s = .next early ∧ early.cx.newer = satAdd 32 s1.cx.newer 1 ∧ early.cx.older = s1.cx.older)) ∧
    (∀ (m : Nat) (g : Frame), frFormatOk f = true → f.typ ≠ 0x31 → coordOk s1.geo f.dst = true → s1.fromGateway (cameBy via) = false →
      s1.route s1.geo none (s1.arrivalDim (cameBy via)) f = .port m g →
      ∃ t, exec c s = .next t ∧ t.cx = s1.cx) ∧
    (ForHere s1 via f → f.typ = 0x30 → exec c s = .next (s1.toMgmt (cameBy via) f)) ∧
    (frFormatOk f = true → f.typ = 0x20 → f.src = gatewayCoord → f.dst = s1.coord → coordOk s1.geo f.dst = true →
      s1.route s1.geo none (s1.arrivalDim (cameBy via)) f = .here →
      exec c s = .next ((s1.payCredit (cameBy via) f).memServe (cameBy via) f ev))

/-! The pattern loader -/

/-- PL_CMD (R96, R100, R101, R104): LOAD starts its validation; UNLOAD removes a loaded partition, rinses it and drops its
tile-cache lines without writing them back; UNLOAD_SNAPSHOT, in MAKER and RETURN, removes it and keeps shelves, seam queues and
lines (no FOLD in flight is cut short here, which would leave its slots undefined: R381); RELEASE rinses what was kept; a busy loader and a partition not in the state asked for are refused. -/
def Obligations.LoaderCommandsAnswer : Prop :=
  ∀ s : State, s.clerkTime = true →
    let refused (r : BitVec 3) : Result := .next { s with loader := { s.loader with result := r } }
    let gone (p : PartId) (t : State) : Prop :=
      (t.part p).loaded = false ∧ (t.part p).trees = [] ∧ (t.part p).regs = [] ∧ (∀ b, (t.bench b).ownerOf ≠ some p) ∧
        t.loader.result = 1 ∧ t.cells = s.cells ∧ t.lineStain = s.lineStain ∧ ∀ q, q ≠ p → (t.part q).benches = (s.part q).benches
    (s.loader.busy = false → exec .plLoad s = .next { s with loader := { s.loader with
      busy := true, phase := .validate, cmdAt := s.now, phaseAt := s.now, cmdSrc := s.loader.src, cmdLen := s.loader.len
      drainTimeout := false } }) ∧
    (s.loader.busy = true → exec .plLoad s = refused 3 ∧
      ∀ p, exec (.plUnload p) s = refused 3 ∧ exec (.plUnloadSnapshot p) s = refused 3 ∧ exec (.plRelease p) s = refused 3) ∧
    (∀ p, s.loader.busy = false → (s.part p).loaded = true → (∀ b ∈ s.benchesOf p, (s.bench b).folds = []) →
      ∃ t, exec (.plUnload p) s = .next t ∧ gone p t ∧ (t.part p).rinsing = true ∧
        ∀ c ∈ t.caches, ∀ l ∈ c.lines, l.writer ≠ some p) ∧
    (∀ p, s.loader.busy = false → (s.part p).loaded = true → (s.part p).snapshot = false →
      (∀ b ∈ s.benchesOf p, (s.bench b).folds = []) → (s.nv.life = .maker ∨ s.nv.life = .return_) →
      ∃ t, exec (.plUnloadSnapshot p) s = .next t ∧ gone p t ∧ (t.part p).snapshot = true ∧ (t.part p).rinsing = true ∧
        t.caches = s.caches ∧ (t.part p).keptSeams = (s.part p).seams ∧
        ∀ b, (s.bench b).partOf = some p → (t.bench b).shelf = (s.bench b).shelf ∧ (t.bench b).snapshot = true) ∧
    (∀ p, s.loader.busy = false → (s.part p).snapshot = true →
      ∃ t, exec (.plRelease p) s = .next t ∧ (t.part p).snapshot = false ∧ (t.part p).rinsing = true ∧ t.loader.result = 1 ∧
        t.cells = s.cells ∧ (∀ c ∈ t.caches, ∀ l ∈ c.lines, l.writer ≠ some p) ∧ ∀ b, (t.bench b).shelf = (s.bench b).shelf) ∧
    (∀ p, s.loader.busy = false → (s.part p).loaded = false → exec (.plUnload p) s = refused 4) ∧
    (∀ p, s.loader.busy = false → (s.nv.life = .field ∨ s.nv.life = .void_) → exec (.plUnloadSnapshot p) s = refused 4) ∧
    (∀ p, s.loader.busy = false → (s.part p).snapshot = false → exec (.plRelease p) s = refused 4)

/-- The phases of a LOAD (R92, R96, R97, R98): a stream that fails validation ends it with its code and place and nothing
else changed; a first load applies at once; the drain ends when its benches have drained, or at DRAIN_MS with DRAIN_TIMEOUT;
after 2 ms in the memory wait what is outstanding is discarded and the rinse begins; a rinse empties the old benches' shelves
and counters. -/
def Obligations.LoaderPhasesFollowEachOther : Prop :=
  ∀ s : State, s.clerkTime = true →
    (∀ (d : List Byte) (st : Bool) (m : MemSys) (r : Reject), s.loader.phase = .validate → s.loader.cmdSrc % 64 = 0 →
      s.mem.readBytes s.loader.cmdSrc (max 64 s.loader.cmdLen) Origin.hub = some (d, st, m) →
      (s.setMem m).validate d s.loader.cmdLen = .error r →
      exec .loadValidateDone s = .next ((s.setMem m).finishLoad 2 r)) ∧
    (∀ (d : List Byte) (st : Bool) (m : MemSys) (img : PatImage), s.loader.phase = .validate → s.loader.cmdSrc % 64 = 0 →
      s.mem.readBytes s.loader.cmdSrc (max 64 s.loader.cmdLen) Origin.hub = some (d, st, m) →
      (s.setMem m).validate d s.loader.cmdLen = .ok img → (allParts.all fun p => !((s.part p).loaded && img.names p)) = true →
      s.recheck img = none →
      ∃ t, exec .loadValidateDone s = .next t ∧ t.loader.result = 1 ∧ t.loader.busy = false ∧ t.cells = m.cells ∧
        ∀ x ∈ img.parts, x.part < s.parts.length → (t.part (Fin.ofNat 8 x.part)).loaded = true) ∧
    (∀ img, s.loader.phase = .drain → s.loader.image = some img →
      ((s.loader.toRinse.filter img.drains).all s.drained) = true → exec .loadDrainDone s = .next (s.endDrain img)) ∧
    (∀ img, s.loader.phase = .drain → s.loader.image = some img →
      ((s.loader.toRinse.filter img.drains).all s.drained) = false →
      (∀ p ∈ s.loader.toRinse, img.drains p = true → s.drained p = true ∨
        ∃ x ∈ img.parts, x.part = p.val ∧ s.loader.phaseAt + 1000000 * x.hdr.drainMs ≤ s.now) →
      ∃ t, exec .loadDrainTimeout s = .next t ∧ t.loader.drainTimeout = true ∧
        (t.loader.phase = .memWait ∨ t.loader.phase = .rinse)) ∧
    (s.loader.phase = .memWait → s.loader.phaseAt + 2000000 ≤ s.now →
      ∃ t, exec .loadMemoryWaitExpiry s = .next t ∧ t.loader.phase = .rinse ∧ (∀ p ∈ s.loader.toRinse, (t.part p).pendReqs = []) ∧
        t.mem = s.mem ∧ t.benches = s.benches) ∧
    (∀ p, (s.part p).rinsing = true → s.loader.image = none →
      ∃ t, exec (.rinseComplete p) s = .next t ∧ (t.part p).rinsing = false ∧ t.cells = s.cells ∧
        ∀ b, (s.bench b).rinsing = some p → (s.bench b).snapshot = false →
          (t.bench b).rinsing = none ∧ (t.bench b).shelf = [] ∧ (t.bench b).tokens = List.replicate 64 0) ∧
    (∀ p q img, (s.part p).rinsing = false → s.loader.image = some img → s.loader.phase = .rinse → p ∈ s.loader.toRinse →
      q ∈ s.loader.toRinse → q ≠ p →
      ∃ t, exec (.rinseComplete p) s = .next t ∧ t.loader.toRinse = s.loader.toRinse.filter (· ≠ p) ∧
        (∀ c ∈ t.caches, ∀ l ∈ c.lines, l.writer ≠ some p) ∧
        ∀ b, (s.bench b).partOf = some p → (t.bench b).shelf = [] ∧ (t.bench b).tlb = [] ∧ (t.bench b).queue = [] ∧
          (t.bench b).tokens = List.replicate 64 0)

/-! Stacks and tile caches -/

/-- ST_CTL, zero fill, spare channels and the scrubber (R295, R318, R320, R321, R322, R323): an unlocked controller takes the
mode and the lock, a reserved mode keeps its mode; a legal fill drops the range from the home cache, and what it has passed reads
as clean zeros, with no clean line of it left in the home cache; the first failing channel takes CH16 and its ticket, another one
leaves the stack degraded; the copy pointer moves on, lines that could not be read are stained in CH16, and at the last line CH16
is in the channel's place; a scrub read that finds no error goes to the next line; the window counts restart at a 10 s window. -/
def Obligations.StackControlsAct : Prop :=
  ∀ (k : StackId) (s : State), s.clerkTime = true → s.stackOn k = true → k.val < s.stackSet.length → Memory.wf 0 s.cells = true →
    let x := s.stack k
    (∀ v : BitVec 64, x.lock = false → v.setWidth 2 ≠ 3#2 →
      exec (.stCtlWrite k v) s = .next (s.modStack k fun x => { x with lock := v.getLsbD 2, mode := v.setWidth 2 })) ∧
    (∀ v : BitVec 64, x.lock = false → v.setWidth 2 = 3#2 →
      exec (.stCtlWrite k v) s = .next ((s.modStack k fun x => { x with lock := v.getLsbD 2 }).reservedCode)) ∧
    (∀ v : BitVec 64, x.lock = true → exec (.stCtlWrite k v) s = .next s.misuse) ∧
    (x.zeroBusy = false → zeroOk x.zeroBase x.zeroLen = true →
      ∃ t, exec (.zeroGo k) s = .next t ∧ (t.stack k).zeroBusy = true ∧ (t.stack k).zeroRun = (x.zeroBase, x.zeroLen) ∧
        (t.stack k).zeroAt = x.zeroBase ∧ t.cells = s.cells ∧
        ∀ c, homeTile k = some c → ∀ l ∈ (t.cache c).lines,
          l.addr < k.val * stackWindow + x.zeroBase ∨ k.val * stackWindow + x.zeroBase + x.zeroLen ≤ l.addr) ∧
    (x.zeroBusy = true ∨ zeroOk x.zeroBase x.zeroLen = false → exec (.zeroGo k) s = .next s.misuse) ∧
    (∀ upto, x.zeroBusy = true →
      let at_ := max x.zeroAt (min (x.zeroRun.1 + x.zeroRun.2) (upto / 64 * 64))
      let past (key : Nat) : Bool := inRange k x.mode.toNat x.zeroAt (at_ - x.zeroAt) key
      ∃ t, exec (.zeroFillDone ⟨k, upto⟩) s = .next t ∧ (t.stack k).zeroBusy = decide (at_ ≠ x.zeroRun.1 + x.zeroRun.2) ∧
        (t.stack k).zeroAt = at_ ∧ (∀ key ∈ t.lineStain, past key = false) ∧
        (∀ key, memGet 0 t.cells key = if past key then 0 else memGet 0 s.cells key) ∧
        ∀ c, homeTile k = some c → ∀ l ∈ (t.cache c).lines,
          k.val * stackWindow + x.zeroAt ≤ l.addr → l.addr < k.val * stackWindow + at_ → l.dirty = true) ∧
    (∀ ch, ch < 16 → x.ceThresh ≤ (x.windowed s.now).ceWin.getD ch 0 → x.spareState = 0 → 16 ∉ x.degradedCh →
      exec (.channelCeThreshold k ch) s = .next ((s.modStack k fun x => { x with
        spareState := 1, replaced := ch, pointer := 0 }).raise 0x5 (32 * k.val + ch) 0x0034)) ∧
    (∀ ch, ch < 17 → x.spareState ≠ 0 → ch ≠ x.replaced → ch ∉ x.degradedCh →
      exec (.channelNoResponse k ch) s = .next ((s.modStack k fun x => { x with
        degraded := true, degradedCh := setInsert x.degradedCh ch }).raise 0x5 (32 * k.val + ch) 0x0033)) ∧
    (∀ upto, x.spareState = 1 →
      let at_ := max x.pointer (min channelLines upto)
      exec (.spareCopyDone ⟨k, upto, []⟩) s = .next (s.modStack k fun x => { x with
        spareState := if at_ = channelLines then 2 else 1, pointer := at_ }) ∧
      ∀ lost : List Nat, ∃ t, exec (.spareCopyDone ⟨k, upto, lost⟩) s = .next t ∧ (t.stack k).pointer = at_ ∧
        ∀ l ∈ lost, x.pointer ≤ l → l < at_ → (k.val * 16 + x.replaced) * 2 ^ 33 + 64 * l ∈ t.lineStain) ∧
    exec (.scrubRead k []) s = .next (s.modStack k fun x => { x with scrubPos := (x.scrubPos + 1) % scrubLines }) ∧
    (x.ceWinAt + 10000000000 ≤ s.now →
      ∃ t, exec (.ceWindowRestart k) s = .next t ∧ (t.stack k).ceWin = List.replicate 17 0 ∧ (t.stack k).ce = x.ce) ∧
    (s.now < x.ceWinAt + 10000000000 → exec (.ceWindowRestart k) s = .next s)

/-- Accesses at the home of a line (R296, R308, R309, R311, R312, R314, R315, R317; 15 R420, R421): a read answers with its bytes;
a whole line written reads back from its home, with its stain; an atomic that finds no stain stores its value and answers the old
one; a single-bit error of a held line is counted before, a double-bit error drops a clean line; a line that arrives from a stack
is decoded, with up to two wrong symbols corrected and three to five found, and enters its home cache; a clerk core loads and
stores in H0 and H1, in its caches' lines of tile stacks and in control space, moves those lines and takes its exceptions; an
atomic window answers OLD with STAT 0, and the STAT of what it refuses. -/
def Obligations.AccessesReachTheirHome : Prop :=
  (∀ (d : List Byte) (es : SymbolErrors), d.length = 64 →
    (symbolWeight (errorWord es) = 0 → decodeWith d false es = .clean d) ∧
    (symbolWeight (errorWord es) = 1 ∨ symbolWeight (errorWord es) = 2 → decodeWith d false es = .corrected d) ∧
    (symbolWeight (errorWord es) ≤ 2 → decodeWith d true es = .stained d) ∧
    (3 ≤ symbolWeight (errorWord es) → symbolWeight (errorWord es) ≤ 5 → ∃ g, decodeWith d false es = .uncorrectable g)) ∧
  ∀ s : State, s.power = .running → s.supply.hold = false → Sized s → Memory.wf 0 s.cells = true →
    (∀ (r : Requester) (pa : Nat) (k : StackId) (o : Nat) (n : Nat), s.mem.reach pa = .ok k o →
      (∃ d st m, s.mem.readLine pa (s.originOf r) = some (d, st, m) ∧
        exec (.lineRequestArrive r pa .read ⟨n, .none⟩) s = .next ((s.setMem m).reply (BitVec.ofNat 64 (leAt d (pa % 64 / 8 * 8) 8)))) ∧
      (∀ (data : List Byte) (stain : Bool),
        ∃ t, exec (.lineRequestArrive r pa (.write data (List.replicate 64 true) stain) ⟨n, .none⟩) s = .next t ∧
          ∀ v, ∃ m, t.mem.readLine pa v = some (sliceAt data 0 64, stain, m)) ∧
      (∀ (h : TileId) (a : AtomicOp) (old : Nat) (m : MemSys), homeTile k = some h → atomicOk a = true → pa % a.width = 0 →
        s.mem.atomicAt h k o pa a n (s.originOf r) = (old, false, false, m) →
        exec (.lineRequestArrive r pa (.atomic a) ⟨n, .none⟩) s = .next ((s.setMem m).reply (BitVec.ofNat 64 old))) ∧
      (∀ (h : TileId) (l : CacheLine) (op : LineOp), homeTile k = some h → (s.cache h).find pa = some l →
        exec (.lineRequestArrive r pa op ⟨n, .single⟩) s =
          exec (.lineRequestArrive r pa op ⟨n, .none⟩) (s.modCache h fun c => { c with errCorr := satAdd 32 c.errCorr 1 }) ∧
        (l.dirty = false → exec (.lineRequestArrive r pa op ⟨n, .double⟩) s =
          exec (.lineRequestArrive r pa op ⟨n, .none⟩)
            ((s.modCache h fun c => { c with errDouble := satAdd 16 c.errDouble 1 }).modCache h fun c => c.drop pa)))) ∧
    (∀ (k : StackId) (line : Nat) (es : SymbolErrors), s.stackOn k = true → 64 * line < stackBytes →
      let key := cellKey k (s.stack k).mode.toNat (64 * line)
      let d := decodeWith (memRead 0 s.cells key 64) (s.lineStain.contains key) es
      let (got, st, s1) := s.decodeLine k (64 * line) es false
      let s2 := s1.modStack k fun x => { x with
        readLines := wrapAdd 64 x.readLines 1, stainReads := wrapAdd 64 x.stainReads (b2n d.isStained) }
      let pa := k.val * stackWindow + 64 * line
      (homeTile k = none → exec (.memoryResponse k line es) s = .next s2) ∧
      (∀ h, homeTile k = some h → (s2.cache h).find pa = none →
        exec (.memoryResponse k line es) s = .next (s2.setMem (s2.mem.allocate h { addr := pa, data := got, stain := st })))) ∧
    (∀ c : CoreId, s.house.active.getLsbD c.val = true →
      (∀ pa n k o, inCtl pa = false → s.mem.reach pa = .ok k o → homeTile k = none → n ≤ 64 - pa % 64 →
        (∀ d st m, s.mem.readLine pa Origin.hub = some (d, st, m) →
          exec (.clerkAccess c pa (.load n)) s = .next ((s.setMem m).reply (BitVec.ofNat 64 (leNat (sliceAt d (pa % 64) n))))) ∧
        (∀ v m, s.mem.writeIn pa (leBytes n (BitVec.toNat v)) false Origin.hub = some m →
          exec (.clerkAccess c pa (.store n v)) s = .next (s.setMem m))) ∧
      (∀ pa n k o h l, inCtl pa = false → s.mem.reach pa = .ok k o → homeTile k = some h → n ≤ 64 - pa % 64 →
        s.clerkLines.find? (fun l => l.addr = lineBase pa) = some l →
        exec (.clerkAccess c pa (.load n)) s = .next (s.reply (BitVec.ofNat 64 (leNat (sliceAt l.data (pa % 64) n)))) ∧
        ∀ v : BitVec 64, exec (.clerkAccess c pa (.store n v)) s = .next { s with
          clerkLines := s.clerkLines.map fun l => if l.addr = lineBase pa then l.store (pa % 64) (leBytes n v.toNat) else l }) ∧
      (∀ pa n k o h d st m, inCtl pa = false → s.mem.reach pa = .ok k o → homeTile k = some h → n ≤ 64 - pa % 64 →
        s.clerkLines.find? (fun l => l.addr = lineBase pa) = none → s.clerkFlush = [] →
        s.mem.readLine pa Origin.hub = some (d, st, m) →
        exec (.clerkAccess c pa (.load n)) s = .next (State.reply { s.setMem m with
            clerkLines := s.clerkLines ++ [{ addr := lineBase pa, data := d, dirty := List.replicate 64 false }] }
          (BitVec.ofNat 64 (leNat (sliceAt d (pa % 64) n))))) ∧
      (∀ pa n v, inCtl pa = false → s.mem.reach pa = .unmapped ∨ s.mem.reach pa = .homeOff →
        exec (.clerkAccess c pa (.load n)) s = .next { s with bus := { data := 0, exc := some .loadAccess } } ∧
        exec (.clerkAccess c pa (.store n v)) s = .next { s with bus := { data := 0, exc := some .storeAccess } }) ∧
      (∀ pa n v, inCtl pa = true → ctlAligned pa n = true →
        exec (.clerkAccess c pa (.load n)) s = .next (s.ctlRead pa) ∧ exec (.clerkAccess c pa (.store n v)) s = .next (s.ctlWrite pa v)) ∧
      (∀ pa n v op w, inCtl pa = true → (ctlAligned pa n = false →
          exec (.clerkAccess c pa (.load n)) s = .next (s.misuse.reply 0) ∧ exec (.clerkAccess c pa (.store n v)) s = .next s.misuse) ∧
        (ctlAligned pa w = false → exec (.clerkAmo c pa op w v) s = .next (s.misuse.reply 0))) ∧
      (∀ pa, exec (.clerkAccess c pa .flush) s = .next { s with
          clerkLines := s.clerkLines.filter fun l => !decide (l.addr = lineBase pa)
          clerkFlush := s.clerkFlush ++
            ((s.clerkLines.filter fun l => l.addr = lineBase pa && l.dirty.any id).map fun l => (c.val, l)) } ∧
        exec (.clerkAccess c pa .inval) s = .next { s with clerkLines := s.clerkLines.filter fun l => l.addr ≠ lineBase pa }) ∧
      (∀ pa l m, s.clerkFlush = [(c.val, l)] → s.mem.writeLine l.addr l.data l.dirty false Origin.hub = some m →
        exec (.clerkAccess c pa .fence) s = .next { s.setMem m with clerkFlush := [] }) ∧
      (∀ pa op w x, inCtl pa = false → pa % max 1 w ≠ 0 → op ≠ .lr →
        exec (.clerkAmo c pa op w x) s = .next { s with bus := { data := 0, exc := some .storeMisaligned } }) ∧
      (∀ pa op w x k o h, inCtl pa = false → 0 < w → pa % w = 0 → s.mem.reach pa = .ok k o → homeTile k = some h →
        (op = .and_ ∨ op = .or_ ∨ op = .xor_ ∨ op = .sc) →
        exec (.clerkAmo c pa op w x) s = .next { s with bus := { data := 0, exc := some .storeAccess } }) ∧
      (∀ pa op w x k o h a old b m, inCtl pa = false → 0 < w → pa % w = 0 → s.mem.reach pa = .ok k o → homeTile k = some h →
        amoMapped op w x = some a → s.mem.atomicAt h k o pa a 0 Origin.hub = (old, false, b, m) →
        exec (.clerkAmo c pa op w x) s = .next ((s.setMem m).reply (BitVec.ofInt 64 (sext (8 * w) old)))) ∧
      (∀ pa w x k o d st m m', inCtl pa = false → 0 < w → pa % w = 0 → s.mem.reach pa = .ok k o → homeTile k = none →
        s.mem.readIn pa w Origin.hub = some (d, st, m) →
        (s.setMem m).mem.writeIn pa (leBytes w ((leNat d + x.toNat % 2 ^ (8 * w)) % 2 ^ (8 * w))) false Origin.hub = some m' →
        exec (.clerkAmo c pa .add w x) s = .next (((s.setMem m).setMem m').reply (BitVec.ofInt 64 (sext (8 * w) (leNat d)))))) ∧
    (∀ (h : TileId) (c : CoreId) (v : BitVec 64) (n : Nat), s.tileIsOn h.val = true →
      let w := (s.cache h).amo.getD c.val {}
      let a : AtomicOp := { atop := bits v.toNat 3 0, width := bits v.toNat 7 4, signed := bit v.toNat 8, opnd := w.opnd, exp := w.exp }
      (∀ (k : StackId) (o old : Nat) (m : MemSys),
        stackOf w.addr = some (k, o) → homeTile k = some h → atomicOk a = true → w.addr % a.width = 0 →
        s.mem.atomicAt h k o w.addr a n Origin.hub = (old, false, false, m) →
        exec (.tcAmoGo h c v n) s = .next ((s.setMem m).modCache h fun x => { x with
          amo := x.amo.modify c.val fun w => { w with old := BitVec.ofNat 64 old, stat := 0 } })) ∧
      (∀ stat, s.amoStat h w.addr a = stat → stat ≠ 0 →
        exec (.tcAmoGo h c v n) s = .next (s.modCache h fun x => { x with
          amo := x.amo.modify c.val fun w => { w with old := 0, stat := BitVec.ofNat 4 stat } })))

/-- The regulator (R301): who is served has a request waiting; an unpartitioned request waits through at most 63 units; with
nobody waiting nothing changes; no level passes its depth; a stack performs the first request to arrive of whom it chooses and
takes its bucket on, and a port's transmit side chooses and sends. -/
def Obligations.RegulatorServesFairly : Prop :=
  (∀ (b : Bucket) (rec : PartId → Option RegRec) (waits : PartId → Bool) (unpart : Bool),
    let r := b.serve rec waits unpart
    (∀ p, r.2 = some (some p) → waits p = true) ∧ (r.2 = some none → unpart = true ∧ r.1.sinceUnp = 0) ∧
    (unpart = true → 63 ≤ b.sinceUnp → r.2 = some none) ∧
    (r.2 = none → unpart = false ∧ (∀ p, waits p = false) ∧ r.1 = b) ∧
    (∀ p q, waits q = true → (rec q).isSome = true → 1024 ≤ b.lvl.getD q.val 0 → r.2 = some (some p) →
      (rec p).isSome = true ∧ 1024 ≤ b.lvl.getD p.val 0) ∧
    (r.2 ≠ none → ∀ p d, rec p = some d → r.1.lvl.getD p.val 0 ≤ d.depth * 1024)) ∧
  (∀ (k : StackId) (ws : List LineRequest) (e : LineEvents) (s : State), s.memTime k = true →
    let owner (q : Nat × LineRequest) : Option PartId := (s.originOf q.2.sender).part
    let here := s.mem.waitingAt k ws
    let (bucket, who) := (s.stack k).bucket.serve (fun p => (s.mem.regs.getD p.val []).find? fun r => r.target = k.val)
      (fun p => here.any fun q => owner q = some p) (here.any fun q => owner q = none)
    (who = none → exec (.regulatorServe k.val ws e) s = .next s) ∧
    (∀ v q, who = some v → here.find? (fun q => owner q = v) = some q →
      exec (.regulatorServe k.val ws e) s = .next ((s.serveLine k q.1 q.2 e).modStack k fun x => { x with bucket := bucket }))) ∧
  (∀ (n : PortId) (ws : List LineRequest) (e : LineEvents) (s : State), s.power = .running →
    exec (.regulatorServe (0x20 + n.val) ws e) s = .next (s.servePort n))

/-! Clerk cores and retirement -/

/-- Clerk cores and rings (R423, R424, R425, R474): CH_BEAT restarts its watch; a failed core, and one whose heartbeat stays out,
leaves the active set, and the lowest spare starts at CH_ENTRY in its place with the failed core's number, with the replaced-core
ticket and an interrupt of the failure route; without a spare the no-spare ticket comes; in VOID the cores halt after 1 ms; a
ring's interrupt is told after 10 µs, and again after a read that leaves records unread. -/
def Obligations.CoresAndRingsAct : Prop :=
  ∀ s : State, s.clerkTime = true →
    (∀ c : CoreId, exec (.chBeat c) s = .next { s with house := { s.house with beats := s.house.beats.set c.val s.now } }) ∧
    (∀ c : CoreId, s.house.active.getLsbD c.val = true →
      let gone : State := { s with house := { s.house with
        active := s.house.active &&& ~~~(1#32 <<< c.val), failed := s.house.failed ||| (1#32 <<< c.val)
        reserve := s.house.reserve.filter fun r => r.1 ≠ c.val } }
      let late : Prop := s.house.wdog ≠ 0 ∧ s.house.beats.getD c.val 0 + 1000000 * s.house.wdog ≤ s.now
      (∀ q qs, s.house.spares = q :: qs →
        let t := gone.raise 0x8 c.val 0x0050
        let u : State := { t with house := { t.house with
          active := t.house.active ||| (1#32 <<< q), spares := qs, coreStarts := t.house.coreStarts ++ [⟨q, t.house.entry, c.val⟩]
          replacedBy := (c.val, q) :: t.house.replacedBy, beats := t.house.beats.set q s.now } }
        exec (.clerkCacheUe c) s = .next (u.interrupt u.failRoute.1 u.failRoute.2.1) ∧
        (late → exec (.clerkHeartbeatTimeout c) s = .next (u.interrupt u.failRoute.1 u.failRoute.2.1))) ∧
      (s.house.spares = [] →
        exec (.clerkCacheUe c) s = .next (gone.raise 0x8 c.val 0x0051) ∧
        (late → exec (.clerkHeartbeatTimeout c) s = .next (gone.raise 0x8 c.val 0x0051)))) ∧
    (∀ at_, s.start.haltAt = some at_ → at_ + 1000000 ≤ s.now →
      exec .clerkCoresHalt s = .next { s with house := { s.house with active := 0 } }) ∧
    (∀ p, (s.ring p).unread ≠ 0 → (s.ring p).told = false → (s.ring p).oldest + 10000 ≤ s.now →
      exec (.eventRingInterrupt p) s =
        .next ((s.modRing p fun r => { r with told := true }).interrupt (s.ring p).hart (s.ring p).level)) ∧
    (∀ p v,
      let t := s.modRing p fun r => { r with tail := v }
      ((t.ring p).unread = 0 → exec (.erTailWrite p v) s = .next t) ∧
      ((t.ring p).unread ≠ 0 → exec (.erTailWrite p v) s =
        .next ((t.modRing p fun r => { r with told := true }).interrupt (t.ring p).hart (t.ring p).level)))

/-- CH_RETIRE (R430): a bench that is free or retired becomes retired, one in use is refused; a channel is swapped for CH16;
a port goes down with cause 7; an idle lane leaves; a spare core leaves the spare set; a bad designator is refused, with its
code, and changes nothing else. -/
def Obligations.RetireCommandsAnswer : Prop :=
  ∀ s : State, s.clerkTime = true →
    let done (r : BitVec 2) (t : State) : Result := .next { t with house := { t.house with retireStatus := r } }
    (∀ b : BenchId, (s.bench b).ownerOf = none →
      exec (.chRetireBench b.tile.val b.phys.val) s =
        done 1 ((s.modBench b fun x => { x with asg := .retired }).raise 0x2 (64 * b.tile.val + b.phys.val) 0x0024)) ∧
    (∀ b : BenchId, (s.bench b).ownerOf ≠ none → exec (.chRetireBench b.tile.val b.phys.val) s = done 2 s) ∧
    (∀ (k : StackId) (c : Nat), c ≤ 16 → exec (.chRetireChannel k.val c) s = done 1 (s.swapChannel k c)) ∧
    (∀ n : PortId, (s.port n).state.toNat ≤ 1 →
      exec (.chRetirePort n.val 0) s = done 1 ((s.modPort n fun x => { x with disable := true, retired := true, cause := 7 }).raise
        0x6 n.val 0x0040 none [(0, .num 7)])) ∧
    (∀ n : PortId, 1 < (s.port n).state.toNat →
      exec (.chRetirePort n.val 0) s = done 1 ((s.modPort n fun x => { x with disable := true, retired := true }).portDown n 7)) ∧
    (∀ (n : PortId) (c : Nat), c < 9 → (s.port n).serves c = none → (s.port n).swapping = none →
      exec (.chRetireLane n.val c) s = done 1 ((s.modPort n fun x => { x with
        failedLanes := setInsert x.failedLanes c, idleLane := if x.idleLane = some c then none else x.idleLane }).laneTicket n c)) ∧
    (∀ (n : PortId) (c i : Nat), c < 9 → (s.port n).serves c = some i → 3 ≤ (s.port n).state.toNat →
      exec (.chRetireLane n.val c) s = done 1 (s.swapLane n i true)) ∧
    (∀ c : Nat, c < 32 → s.house.active.getLsbD c = false →
      exec (.chRetireClerk c 0) s =
        done 1 (State.raise { s with house := { s.house with spares := s.house.spares.filter (· ≠ c) } } 0x8 c 0x0050)) ∧
    (∀ c : Nat, c < 32 → s.house.active.getLsbD c = true → exec (.chRetireClerk c 0) s = done 1 (s.failCore c)) ∧
    (∀ a c : Nat, (4 ≤ a ∨ 34 ≤ c → exec (.chRetireBench a c) s = done 3 s) ∧ (14 ≤ a ∨ 16 < c → exec (.chRetireChannel a c) s = done 3 s) ∧
      (8 ≤ a ∨ c ≠ 0 → exec (.chRetirePort a c) s = done 3 s) ∧ (8 ≤ a ∨ 9 ≤ c → exec (.chRetireLane a c) s = done 3 s) ∧
      (32 ≤ a ∨ c ≠ 0 → exec (.chRetireClerk a c) s = done 3 s))

/-! The Dalxel ports -/

/-- Training (R333, R334, R335, R336, R367): a port that may train begins a new link stream with its identity block; the peer's block is taken, or the
port stays down with cause 5 and the mismatch ticket; a first training leads to serving, a later one to probation with every
credit granted anew; 200 ms without success give cause 6, and 1 s later the port tries again; probation done by both ends
makes a direction ready and a spare serve; DISABLE takes the port down with cause 7; RECAL_NOW waits until the port serves. -/
def Obligations.PortsTrainAndServe : Prop :=
  ∀ (n : PortId) (s : State), s.power = .running → n.val < s.ports.length →
    let x := s.port n
    let begun := s.modPort n fun x => { x with
      state := 2, trainAt := s.now, identOk := false
      stream := { x.stream with pending := [], lane := 0, blocks := List.replicate 8 [] } }
    let sent := begun.emitBlock n (.identity (begun.identity n))
    (s.mayTrain n = true → x.cause ≠ 6 → exec (.portTrainStart n) s = .next sent) ∧
    (s.mayTrain n = true → x.cause = 6 → x.downAt + 1000000000 ≤ s.now → exec (.portTrainRetry n) s = .next sent) ∧
    (∀ blk, x.state = 2 → s.identityFits n blk = true →
      exec (.identityBlock n blk) s = .next (s.modPort n fun x => { x with
        identOk := true, peer := some (blk.coord, blk.port, blk.hwType, blk.role) })) ∧
    (∀ blk, x.state = 2 → s.identityFits n blk = false →
      let t := (s.raise 0x6 n.val 0x0041).portDown n 5
      exec (.identityBlock n blk) s = .next t ∧ (t.port n).state = 1 ∧ (t.port n).cause = 5 ∧ (t.port n).identOk = false) ∧
    (x.state = 2 → x.identOk = true → x.everTrained = true →
      ∃ t, exec (.portTrainDone n) s = .next t ∧ (t.port n).state = 3 ∧ (t.port n).txSeq = 0 ∧ (t.port n).rxSeq = 0 ∧
        (t.port n).crShared = 16112 ∧ (t.port n).crRes = List.replicate 8 34 ∧ (t.port n).probeBits = 0) ∧
    (x.state = 2 → x.identOk = true → x.everTrained = false →
      ∃ t, exec (.portTrainDone n) s = .next t ∧ (t.port n).state = 5 ∧ (t.port n).everTrained = true ∧ (t.port n).txSeq = 0 ∧
        (t.port n).crShared = 16112) ∧
    (x.state = 2 → x.trainAt + 200000000 ≤ s.now →
      ∃ t, exec (.portTrainTimeout n) s = .next t ∧ (t.port n).state = 1 ∧ (t.port n).cause = 6) ∧
    (x.state = 3 → x.myProbeDone = true → x.peerProbeDone = true → (roleOf (s.trainGeo n.val) n.val = 1 ∨ roleOf (s.trainGeo n.val) n.val = 3) →
      ∃ t, exec (.probationDone n) s = .next t ∧ (t.port n).state = 5) ∧
    (∀ p, x.state = 3 → x.myProbeDone = true → x.peerProbeDone = true → (roleOf (s.trainGeo n.val) n.val = 0 ∨ roleOf (s.trainGeo n.val) n.val = 2) →
      (s.part p).loaded = true →
      ∃ t, exec (.probationDone n) s = .next t ∧ (t.port n).state = 4 ∧ (t.port n).transitBack = false ∧
        (t.port n).returned.getD p.val true = false) ∧
    (s.supply.hold = false → 1 < x.state.toNat →
      ∃ t, exec (.portCtlDisable n true) s = .next t ∧ (t.port n).state = 1 ∧ (t.port n).cause = 7 ∧ (t.port n).disable = true) ∧
    (s.supply.hold = false → x.retired = false →
      exec (.portCtlDisable n false) s = .next (s.modPort n fun x => { x with disable := false })) ∧
    (s.supply.hold = false → x.state = 5 → exec (.recalNow n) s =
      .next ((s.modPort n fun x => { x with recalAt := s.now, recalWant := false }).swapLane n x.oldestLane false)) ∧
    (s.supply.hold = false → 2 ≤ x.state.toNat → x.state ≠ 5 →
      exec (.recalNow n) s = .next (s.modPort n fun x => { x with recalWant := true }))

/-- Lanes and the link (R329, R330, R331, R332, R336, R337; R62): a failing lane gives way to the idle one with its ticket, and
without an idle lane the port goes down with cause 1; the recalibrated lane becomes the idle one; a unit that fails its CRC or
its codeword is discarded and counted, and a frame asks for a replay once; bursts and a silent far end take the port down; a control block acknowledges frames up to its LSEQ; the frames
after the last accepted one leave on the spare, and are lost after 10 µs without an answer; a credit that does not come
within its time takes the port down with cause 3, and at a port that is down the frames that wait for it are lost; a named port
that is still up goes down with cause 8 before the takeover is answered. -/
def Obligations.LanesAndLinksAct : Prop :=
  ∀ (n : PortId) (s : State), s.power = .running → n.val < s.ports.length →
    let x := s.port n
    let down (c : Nat) (t : State) : Prop := (t.port n).state = 1 ∧ (t.port n).cause = c ∧ (t.port n).unacked = []
    (∀ lane i k, 3 ≤ x.state.toNat → x.serves lane = some i → x.idleLane = some k →
      (∃ t, exec (.laneFecThreshold n lane) s = .next t ∧ (t.port n).lanes = x.lanes.set i k ∧ (t.port n).idleLane = none ∧
        lane ∈ (t.port n).failedLanes ∧ (t.port n).swapping = some (lane, true) ∧
        min (x.fecCorr + 2 ^ 20 + 1) (2 ^ 32 - 1) ≤ (t.port n).fecCorr) ∧
      exec (.laneLockLoss n lane) s = .next ((s.modPort n fun x => { x with
        lanes := x.lanes.set i k, idleLane := none, failedLanes := setInsert x.failedLanes lane
        swapping := some (lane, true) }).raise 0x7 (16 * n.val + lane) 0x0042)) ∧
    (∀ lane i, 3 ≤ x.state.toNat → x.serves lane = some i → x.idleLane = none →
      ∃ t, exec (.laneLockLoss n lane) s = .next t ∧ down 1 t ∧ lane ∈ (t.port n).failedLanes) ∧
    (∀ k, x.state = 5 → s.cx.recal ≠ 0 → x.recalAt + 60000000000 * s.cx.recal ≤ s.now → x.idleLane = some k →
      ∃ t, exec (.laneRecalPeriod n) s = .next t ∧ (t.port n).lanes = x.lanes.set x.oldestLane k ∧
        (t.port n).failedLanes = x.failedLanes ∧ (t.port n).swapping = some (x.lanes.getD x.oldestLane 0, false)) ∧
    (∀ lane, x.swapping = some (lane, false) → x.resend = none →
      exec (.laneSwapDone n) s = .next (s.modPort n fun x => { x with
        swapping := none, idleLane := some lane, calAt := x.calAt.set lane s.now })) ∧
    (∀ w, 3 ≤ x.state.toNat → 64 < w → ∃ t, exec (.portUncorrectableBurst n w) s = .next t ∧ down 2 t) ∧
    (3 ≤ x.state.toNat → ∃ t, exec (.portFarEndSilent n) s = .next t ∧ down 8 t) ∧
    (∀ bytes, 3 ≤ x.state.toNat → unitIntact bytes = false →
      let counted := s.modPort n fun x => { x with crcFail := satAdd 32 x.crcFail 1 }
      (unitIsFrame bytes = true → x.replayAsked = false →
        ∃ t b, exec (.linkUnitDiscard n ⟨bytes, false⟩) s = .next t ∧ (t.port n).replayAsked = true ∧
          (t.port n).replays = satAdd 32 x.replays 1 ∧ (t.port n).crcFail = satAdd 32 x.crcFail 1 ∧
          t.linkOut = s.linkOut ++ [(n, .control b)] ∧ b.replay = true ∧ b.replayFrom = x.rxSeq) ∧
      (unitIsFrame bytes = true → x.replayAsked = true → exec (.linkUnitDiscard n ⟨bytes, false⟩) s = .next counted) ∧
      (unitIsFrame bytes = false → exec (.linkUnitDiscard n ⟨bytes, false⟩) s = .next counted)) ∧
    (∀ bytes, 3 ≤ x.state.toNat → unitIsFrame bytes = false →
      exec (.linkUnitDiscard n ⟨bytes, true⟩) s = .next (s.modPort n fun x => { x with
        fecUnc := satAdd 32 x.fecUnc 1, probeBits := if x.state = 3 then 0 else x.probeBits })) ∧
    (∀ blk, 3 ≤ x.state.toNat → blk.replay = false → x.resend = none →
      ∃ t, exec (.controlBlock n blk) s = .next t ∧ (t.port n).peerProbeDone = (x.peerProbeDone || blk.probeDone) ∧
        (t.port n).unacked = (if blk.ackValid then x.unacked.filter fun e => 32768 ≤ (blk.ack + 65536 - e.1) % 65536 else x.unacked) ∧
        t.framesOut = s.framesOut) ∧
    (∀ f q, 4 ≤ x.state.toNat → q < 65536 →
      let t := s.portDown f 8
      exec (.takeoverRequest n f q) s = .next (t.emitBlock n (.takeoverAnswer (t.port f).lastAccepted)) ∧
      ((s.port f).state.toNat ≤ 1 → t = s)) ∧
    (∀ m at_ q, s.takeoverOn n = some (m, at_) → m ≠ n →
      ∃ t, exec (.takeoverAnswer n q) s = .next t ∧ (t.port m).takeover = none ∧ (t.port m).held = [] ∧
        (t.port n).txq = ((s.port m).held.drop ((q + 1 + 65536 - (match (s.port m).held with | e :: _ => e.1 | [] => 0)) % 65536)).map
          (fun e => (none, e.2)) ++ x.txq) ∧
    (∀ m at_, s.takeoverOn n = some (m, at_) → at_ + 10000 ≤ s.now → exec (.takeoverTimeout n) s = .next (s.takeoverLost n)) ∧
    (∀ pair : Fin 8, s.supply.hold = false → 2 < x.state.toNat → (x.txq.any fun e => frPair e.2 = pair.val) = true →
      x.creditSince.getD pair.val 0 + 1000000 * s.creditMs ≤ s.now →
      ∃ t, exec (.crossingCreditExpiry n pair) s = .next t ∧ down 3 t) ∧
    (∀ pair : Fin 8, s.supply.hold = false → x.state.toNat ≤ 2 → (x.txq.any fun e => frPair e.2 = pair.val) = true →
      x.creditSince.getD pair.val 0 + 1000000 * s.creditMs ≤ s.now →
      ∃ t, exec (.crossingCreditExpiry n pair) s = .next t ∧ (t.port n).state = x.state ∧
        (t.port n).txq = x.txq.filter fun e => !decide (frPair e.2 = pair.val))

/-! Start, life cycle and boot flash -/

/-- The resets (R22, R441, R456, R457, R458, R459, R486): power-on leads into reset; a pulse of 100 microseconds or more puts a running module
into reset with every volatile register at its value after reset, and keeps the ledger, the life cycle, the anti-rollback count
and a flash that nothing was writing; MOD_PWRGD is low without power and high once power-on reset
has ended, whatever MOD_RESET_N does; at reset release the straps are sampled, the lowest-numbered core that passes runs stage 0,
and the ledger counts the attempt, or from 3 attempts on, or with strap 0b11, recovery mode begins. -/
def Obligations.ResetsStartTheModule : Prop :=
  ∀ s : State,
    (∀ mv, s.power = .unpowered → 40000 ≤ mv → mv ≤ 59500 →
      exec (.powerOnReset mv) s = .next { s with power := .inReset, supply := { s.supply with mv := mv } }) ∧
    (∀ lowUs acts, s.power = .running → 100 ≤ lowUs →
      ∃ t, exec (.modReset lowUs acts) s = .next t ∧ t.power = .inReset ∧ t.nv.ledger = s.nv.ledger ∧ t.nv.life = s.nv.life ∧
        t.nv.nextLife = s.nv.nextLife ∧ t.nv.arbCount = s.nv.arbCount ∧ t.tap = s.tap ∧
        (s.start.flBusy = none → s.start.copying = false → t.nv.flash = s.nv.flash) ∧
        t.benches = State.reset.benches ∧ t.parts = State.reset.parts ∧ t.loader = State.reset.loader ∧
        t.stackSet = State.reset.stackSet ∧ t.caches = State.reset.caches ∧ t.cells = [] ∧ t.cx = State.reset.cx ∧
        t.ports = State.reset.ports ∧ t.integ = State.reset.integ ∧ t.pint = State.reset.pint ∧ t.rings = State.reset.rings ∧
        t.time = State.reset.time ∧ t.start = State.reset.start ∧ t.tileOn = State.reset.tileOn ∧
        t.resetPin = true ∧ (s.porDone = true → t.modPwrgd = true)) ∧
    (∀ lowUs, s.power = .running → lowUs < 20 → exec (.modReset lowUs true) s = .next s) ∧
    (∀ lowUs acts, s.power = .inReset → 100 ≤ lowUs → exec (.modReset lowUs acts) s = .next { s with resetPin := true }) ∧
    (s.power = .unpowered → s.modPwrgd = false) ∧ (s.power = .running → s.modPwrgd = true) ∧
    (∀ (bootSrc clkMode : BitVec 2) (core : CoreId), s.power = .inReset →
      ∃ t, exec (.resetRelease ⟨bootSrc, clkMode⟩ core) s = .next t ∧ t.power = .running ∧ t.resetPin = false ∧ t.porDone = true ∧ t.time.clkMode = clkMode ∧ t.time.now = s.time.now ∧
        t.start.bootSrc = bootSrc ∧ t.house.active = 1#32 <<< core.val ∧ t.nv.life = s.nv.nextLife.getD s.nv.life ∧ t.nv.nextLife = none ∧
        t.nv.arbCount = s.nv.arbCount ∧ t.nv.flash = s.nv.flash ∧
        (t.nv.life ≠ .void_ → bootSrc ≠ 3 → s.nv.ledger < 3 → t.nv.ledger = s.nv.ledger + 1 ∧ t.start.recovery = s.start.recovery) ∧
        (t.nv.life ≠ .void_ → (bootSrc = 3 ∨ 3 ≤ s.nv.ledger) → t.nv.ledger = s.nv.ledger ∧ t.start.recovery = true))

/-- The stages of a start (R460, R461, R462, R463, R469, R472): a hub that passes locks its stacks' interleave and powers the tiles
in stage 1, a hub that fails, a refused image, a stage of 30 s and a start of 600 s lead to the start-failed state with every
core halted and every tile off; an image that verifies runs in stage 2 on C00 to C27; self-tested benches read free; START_CTL
only raises the stage; 60 s after DONE the ledger is cleared and the anti-rollback count takes the running image's SVN. -/
def Obligations.StartStagesFollowEachOther : Prop :=
  ∀ s : State, s.clerkTime = true → Sized s →
    let fails (r : Result) : Prop := ∃ t, r = .next t ∧ t.start.failed = true ∧ t.house.active = 0 ∧ ∀ i < 4, t.tileOn.getD i false = false
    (∀ n, 2 ≤ s.start.stage → s.start.stage < n → n ≤ 15 →
      exec (.startCtlStage n) s = .next { s with start := { s.start with stage := n, stageAt := s.now } }) ∧
    (∀ n, n ≤ s.start.stage → exec (.startCtlStage n) s = .next s.reservedCode) ∧
    (2 ≤ s.start.stage → s.start.recovery = false → s.start.done = false →
      exec .startCtlDone s = .next { s with start := { s.start with done := true, clearPending := true, doneAt := s.now } }) ∧
    (s.start.clearPending = true → s.start.doneAt + 60000000000 ≤ s.now → s.start.recovery = false →
      exec .ledgerClear s = .next { s with
        start := { s.start with clearPending := false }
        nv := { s.nv with ledger := 0, arbCount := max s.nv.arbCount s.start.imageSvn } }) ∧
    (∀ sfdp n, s.start.stage = 0 → s.start.failed = false → (s.stack 12).lock = false → fails (exec (.hubSelfTestDone false sfdp n) s)) ∧
    (∀ n, s.start.stage = 0 → s.start.failed = false → (s.stack 12).lock = false → s.nv.life ≠ .void_ → s.start.recovery = false →
      s.start.bootSrc = 0 → 128 ≤ n →
      ∃ t, exec (.hubSelfTestDone true true n) s = .next t ∧ t.start.stage = 1 ∧ (∀ i < 4, t.tileOn.getD i false = true) ∧
        (t.stack 12).lock = true ∧ (t.stack 13).lock = true ∧ (t.stack 12).mode = 1 ∧ (t.stack 13).mode = 1) ∧
    (s.start.bootSrc = 0 → s.start.stage = 1 → s.start.failed = false → s.start.copying = false → s.nv.life ≠ .return_ →
      let h := imageHead (s.flashRead bootSlot 4096)
      let s' := s.hubWrite h0Base (s.flashRead bootSlot (if h.lenOk then h.total else 4096))
      ∃ t, exec .bootImageVerify s = .next t ∧
        if verifyImage s.nv s'.h0 none 1 none = 0 then
          t.start.stage = 2 ∧ t.start.imageRuns = true ∧ t.house.active = 0x0FFFFFFF ∧ t.start.imageSvn = (imageHead (s'.h0 0 4096)).svn
        else t.start.failed = true ∧ t.house.active = 0 ∧ ∀ i < 4, t.tileOn.getD i false = false) ∧
    (∀ rs, s.start.stage ≠ 0 → s.start.failed = false → s.start.recovery = false → s.start.selftestDone = false →
      ∃ t, exec (.startSelftestDone rs) s = .next t ∧ t.start.selftestDone = true ∧
        ∀ b : BenchId, (s.tileIsOn b.tile.val = false → t.bench b = s.bench b) ∧
          (∀ cells rows cols leaves shelf, s.tileIsOn b.tile.val = true → rs[b.idx]? = some (.pass cells rows cols leaves shelf) →
            if TestOutcome.passes (.pass cells rows cols leaves shelf) then
              (t.bench b).asg = .free ∧ (t.bench b).exclRows = rows ∧ (t.bench b).exclCols = cols
            else (t.bench b).asg = .retired) ∧
          (∀ unit, s.tileIsOn b.tile.val = true → rs[b.idx]? = some (.fail unit) → (t.bench b).asg = .retired)) ∧
    (s.start.recovery = false → s.start.failed = false → s.start.done = false → s.nv.life ≠ .void_ →
      (s.start.stageAt + 30000000000 ≤ s.now → fails (exec .bootStageExpiry s)) ∧
      (600000000000 ≤ s.now → fails (exec .startCompletionExpiry s)))

/-- The life cycle (R473, R474, R475, R477): a wrong CONFIRM changes nothing; NONCE draws 32 bytes; FIELD leaves MAKER at once;
RETURN asks for a fresh nonce and a valid authorization, and takes effect at the next start; VOID is final at once; all three
wait for an empty loader; the rinse of a RETURN start clears every stack, cache and bench and opens the debug chains. -/
def Obligations.LifeCycleCommandsAct : Prop :=
  ∀ s : State, s.clerkTime = true →
    let result (r : BitVec 3) (t : State) : State := { t with start := { t.start with lcResult := r } }
    (∀ c, c ≠ 0x57085708 → exec (.lcNonce c) s = .next (result 3 s) ∧ exec (.lcField c) s = .next (result 3 s) ∧
      exec (.lcReturn c) s = .next (result 3 s) ∧ exec (.lcVoid c) s = .next (result 3 s)) ∧
    (s.nv.life ≠ .void_ → ∃ t n, exec (.lcNonce 0x57085708) s = .next t ∧ t.start.nonce = some n ∧ n.length = 32 ∧ t.start.lcResult = 1 ∧
      t.nv = s.nv) ∧
    (s.nv.life = .maker → s.loaderHolds = false →
      exec (.lcField 0x57085708) s = .next (result 1 { s with nv := { s.nv with life := .field } })) ∧
    (s.nv.life ≠ .maker → exec (.lcField 0x57085708) s = .next (result 2 s)) ∧
    (∀ n, s.nv.life = .field → s.loaderHolds = false → s.start.nonce = some n →
      ∃ t, exec (.lcReturn 0x57085708) s = .next t ∧ t.start.nonce = none ∧
        if authValid (s.hubRead s.start.lcAuth 1088).1 n = true then
          t.start.lcResult = 1 ∧ t.nv = { s.nv with nextLife := some .return_ } ∧ t.start.haltAt = some s.now
        else t.start.lcResult = 5 ∧ t.nv = s.nv) ∧
    (s.nv.life ≠ .void_ → s.loaderHolds = false →
      exec (.lcVoid 0x57085708) s = .next { s with
        nv := { s.nv with life := .void_, nextLife := none }, start := { s.start with haltAt := some s.now, lcResult := 1 } }) ∧
    (s.nv.life ≠ .void_ → s.loaderHolds = true → exec (.lcVoid 0x57085708) s = .next (result 4 s)) ∧
    (s.start.stage = 1 → s.start.failed = false → s.nv.life = .return_ → s.start.debugOpen = false → s.start.bootSrc = 0 →
      exec .returnRinseDone s = .next { s with
        cells := [], lineStain := [], benches := s.benches.map Bench.rinse
        caches := s.caches.map fun (c : TileCache) => { c with lines := [], stageLines := [] }
        clerkLines := [], clerkFlush := [], start := { s.start with debugOpen := true, debugTiles := s.tileOn } })

/-- The boot flash (R466, R470, R471): a command starts with its offset, its buffer and its count of 4 KiB units; PROGRAM and
ERASE of the boot slot or the commit record are refused; at its end READ copies to its buffer, PROGRAM writes what stands
there, ERASE leaves 0xFF, outside their range the flash stays but for the commit record; an update copy puts the staged image
into the boot slot and erases the commit record. -/
def Obligations.FlashCommandsAct : Prop :=
  ∀ s : State, s.clerkTime = true → Memory.wf 0xFF s.nv.flash = true →
    (∀ n, s.start.flBusy = none → 1 ≤ n → n ≤ 65535 →
      let busy (op : Nat) : Result := .next { s with start := { s.start with
        flBusy := some { op := op, count := n, offset := s.start.flAddr, buf := s.start.flBuf } } }
      let refused : Result := .next { s with start := { s.start with flResult := 2 } }
      exec (.flRead n) s = busy 1 ∧ exec (.flCommit n) s = busy 4 ∧
      (flashRefused s.start.flAddr (4096 * n) = false → exec (.flProgram n) s = busy 2 ∧ exec (.flErase n) s = busy 3) ∧
      (flashRefused s.start.flAddr (4096 * n) = true → exec (.flProgram n) s = refused ∧ exec (.flErase n) s = refused)) ∧
    (∀ j, s.start.flBusy = some j → s.start.sfdpOk = true → j.offset + 4096 * j.count ≤ s.start.flSizeMib * 2 ^ 20 →
      s.house.commands = [] →
      (j.op = 1 → ∃ t, exec (.flashCommandDone true) s = .next t ∧ t.start.flBusy = none ∧ t.start.flResult = 1 ∧ t.nv = s.nv ∧
        t.mem = (s.hubWrite j.buf (s.flashRead j.offset (4096 * j.count))).mem) ∧
      (j.op = 2 → inStaging j.offset (4096 * j.count) = false →
        ∃ t, exec (.flashCommandDone true) s = .next t ∧ t.start.flBusy = none ∧ t.start.flResult = 1 ∧
          t.nv = { s.nv with flash := memWrite 0xFF s.nv.flash j.offset (s.hubRead j.buf (4096 * j.count)).1 }) ∧
      (j.op = 3 → ∃ t, exec (.flashCommandDone true) s = .next t ∧ t.start.flBusy = none ∧ t.start.flResult = 1 ∧
        ∀ a, memGet 0xFF t.nv.flash a =
          (if j.offset ≤ a ∧ a < j.offset + 4096 * j.count then 0xFF
           else if inStaging j.offset (4096 * j.count) ∧ commitRecord ≤ a ∧ a < commitRecord + 4096 then 0xFF
           else memGet 0xFF s.nv.flash a))) ∧
    (∀ len, s.start.copying = true → s.commitLen = some len → len ≤ stagingArea →
      ∃ t, exec .updateCopyDone s = .next t ∧ t.start.copying = false ∧ t.commitLen = none ∧
        ∀ a, a < len → memGet 0xFF t.nv.flash a = memGet 0xFF s.nv.flash (stagingArea + a)) ∧
    (s.start.keyReady = false → s.house.commands = [] →
      ∃ t, exec .sealKeyReady s = .next t ∧ t.start.keyReady = true ∧ t.start.key.length = 512 ∧ t.nv = s.nv)

/-! Supply, rails and heat -/

/-- Rails and boost (R52, R56, R70, R146, R446, R447, R448): a legal setting moves its rail to the lowest of the five limits, an illegal one
is ticketed; a settled rail no longer moves; a boost of 10 s, or of 15 s in 60, is denied, and permitted again below that; a
junction at 93 °C lowers its cap by a step, ten samples below 90 °C raise it; a window takes its steps into the rate and the
count; power gating only marks the lines. -/
def Obligations.RailsFollowTheirLimits : Prop :=
  ∀ (h : TileId) (s : State), s.clerkTime = true →
    let set (x : Supply) : State := State.setRail { s with supply := x } h
    (∀ v : BitVec 64, 600 ≤ bits v.toNat 9 0 → bits v.toNat 9 0 ≤ 900 → bits v.toNat 9 0 % 10 = 0 →
      exec (.railSetWrite h v) s = .next (set { s.supply with railSet := s.supply.railSet.set h.val (bits v.toNat 9 0) })) ∧
    (∀ v : BitVec 64, (bits v.toNat 9 0 < 600 ∨ 900 < bits v.toNat 9 0 ∨ bits v.toNat 9 0 % 10 ≠ 0) →
      exec (.railSetWrite h v) s = .next s.reservedCode) ∧
    (∀ x : Supply, s.tileIsOn h.val = true → x.hold = false → h.val < x.railNow.length →
      let mv := (set x).supply.railNow.getD h.val 0
      mv ≤ x.railSet.getD h.val 0 ∧ (x.denied.getD h.val false = true → mv ≤ 850) ∧ mv ≤ s.stackCap h ∧ mv ≤ x.cap.mv ∧
        mv ≤ x.jcap.getD h.val 900 ∧ mv ∈ ({ s with supply := x } : State).railLimits h) ∧
    exec (.railSettle h) s = .next { s with supply := { s.supply with
      moving := s.supply.moving.set h.val false, railFrom := s.supply.railFrom.set h.val (s.supply.railNow.getD h.val 0) } } ∧
    (∀ a, s.supply.boostSince.getD h.val none = some a → (a + 10000000000 ≤ s.now ∨ 15000000000 ≤ s.boostTime h) →
      exec (.boostLimit h) s = .next (set { s.supply with denied := s.supply.denied.set h.val true })) ∧
    (s.supply.denied.getD h.val false = true → s.boostTime h < 15000000000 →
      exec (.boostPermit h) s = .next (set { s.supply with denied := s.supply.denied.set h.val false })) ∧
    (∀ temp : Int, s.tileIsOn h.val = true → 1488 ≤ temp →
      ∃ t, exec (.junctionSample h temp) s = .next t ∧
        (t.supply.jcap = s.supply.jcap.set h.val (max 600 (s.supply.jcap.getD h.val 900 - 10))) ∧
        t.supply.junction = s.supply.junction.set h.val temp ∧ t.supply.jCool.getD h.val 0 = 0) ∧
    (∀ temp : Int, s.tileIsOn h.val = true → temp < 1440 → s.supply.jCool.getD h.val 0 = 9 →
      ∃ t, exec (.junctionSample h temp) s = .next t ∧
        t.supply.jcap = s.supply.jcap.set h.val (min 900 (s.supply.jcap.getD h.val 900 + 10))) ∧
    (∀ (steps : List Nat) (hub : Nat), s.time.stepCount.length = 4 → s.time.stepRate.length = 4 →
      ∃ t, exec (.stepRateWindow steps hub) s = .next t ∧ t.time.hubCount = wrapAdd 64 s.time.hubCount hub ∧
        t.time.hubRate = min 65535 (hub / 1000) ∧ t.time.now = s.time.now ∧
        (s.tileIsOn h.val = true →
          t.time.stepRate.getD h.val 0 = min 65535 (steps.getD h.val 0 / 1000) ∧
          t.time.stepCount.getD h.val 0 = wrapAdd 64 (s.time.stepCount.getD h.val 0) (steps.getD h.val 0)) ∧
        (s.tileIsOn h.val = false → t.time.stepRate.getD h.val 0 = 0)) ∧
    (∀ (b : BenchId) (rows cols : BitVec 32), s.tileIsOn b.tile.val = true →
      exec (.manglePowerGate b rows cols) s = .next (s.modBench b fun x => { x with
        gatedRows := x.gatedRows ||| rows, gatedCols := x.gatedCols ||| cols }))

/-- The input supply (R440, R442, R443, R444, R445): a dip that lasts 1 ms sets a cap by its lowest sample, never a higher one;
below 36 V a cap of 0.70 V deepens; a dip of at most 1 ms is counted; below 30 V after 1 ms the module enters hold with its
stacks in self-refresh; 100 microseconds later at 32 V it goes on under a cap of 0.60 V, the time since then taken out of the loader's phase; the cap lifts 10 ms after the last
sample below 40.5 V; 20 ms of hold and 100 ms above 59.5 V stop the module. -/
def Obligations.SupplyEventsAct : Prop :=
  ∀ s : State, s.power = .running →
    let x := s.supply
    let sampled (mv : Nat) : Supply := { x with
      mv := mv, minMv := min x.minMv mv, lowAt := if mv < 40500 then s.now else x.lowAt
      dipLow := if x.dipSince.isSome then min x.dipLow mv else x.dipLow }
    let off (t : State) : Prop := t.power = .unpowered ∧ t.tileOn = State.reset.tileOn ∧ t.nv.life = s.nv.life ∧ t.nv.ledger = s.nv.ledger
    (∀ mv, mv < 40000 → x.dipSince = none →
      exec (.dipStart mv) s = .next { s with supply := { sampled mv with dipSince := some s.now, dipLow := mv, dipActed := false } }) ∧
    (∀ mv a, x.dipSince = some a → 40000 ≤ mv →
      exec (.dipEnd mv) s = .next { s with supply := { sampled mv with
        dipSince := none, dipLow := 0xFFFF, dipActed := false, lowAt := s.now
        dips := satAdd 16 x.dips (if s.now ≤ a + 1000000 ∧ x.dipActed = false then 1 else 0) } }) ∧
    (∀ mv a, x.hold = false → x.dipActed = false → x.dipSince = some a → a + 1000000 ≤ s.now → 30000 ≤ mv → mv < 40000 →
      exec (.supplyCap mv) s = .next (State.setRails { s with supply := { sampled mv with
        cap := if 36000 ≤ min x.dipLow mv ∧ x.cap ≠ .v60 then .v70 else .v60, dipActed := true, caps := satAdd 16 x.caps 1 } })) ∧
    (∀ mv, x.cap = .v70 → mv < 36000 →
      exec (.supplyCapDeepen mv) s = .next (State.setRails { s with supply := { sampled mv with cap := .v60 } })) ∧
    (∀ mv, x.hold = false → x.cap ≠ .none → x.dipSince = none → 40500 ≤ mv → x.lowAt + 10000000 ≤ s.now →
      exec (.supplyCapLift mv) s = .next (State.setRails { s with supply := { sampled mv with cap := .none } })) ∧
    (∀ mv a, x.hold = false → x.dipSince = some a → a + 1000000 ≤ s.now → mv < 30000 →
      exec (.holdEnter mv) s = .next { s with
        supply := { sampled mv with hold := true, heldInWindow := true, holdSince := s.now, dipActed := true, capDue := !x.dipActed, holds := satAdd 16 x.holds 1 }
        stackSet := s.stackSet.map fun k => { k with selfRefresh := true }
        time := { s.time with stepRate := [0, 0, 0, 0] } }) ∧
    (∀ mv, x.hold = true → 32000 ≤ mv → x.holdSince + 100000 ≤ s.now → s.cx.heldFrames = [] →
      ∃ t, exec (.holdExit mv) s = .next t ∧ t.supply.hold = false ∧ t.supply.cap = .v60 ∧
        t.loader.phaseAt = s.loader.phaseAt + (s.now - max s.loader.phaseAt x.holdSince)) ∧
    (x.hold = true → x.holdSince + 20000000 ≤ s.now → ∃ t, exec .supplyLossStop s = .next t ∧ off t) ∧
    (∀ mv, 59500 < mv → x.surgeSince = none →
      exec (.surgeStart mv) s = .next { s with supply := { sampled mv with surgeSince := some s.now, surges := satAdd 16 x.surges 1 } }) ∧
    (∀ mv a, mv ≤ 59500 → x.surgeSince = some a →
      exec (.surgeEnd mv) s = .next { s with supply := { sampled mv with surgeSince := none } }) ∧
    (∀ a, x.surgeSince = some a → a + 100000000 ≤ s.now → ∃ t, exec .overvoltageStop s = .next t ∧ off t)

/-- Heat and the reference (R61, R305, R306, R307, R449, R450, R451): a stack's sample takes it to its row and its tile's rail with
it, with a ticket at the last row, and 100 ms at 3 °C below its rows takes it back; a tile or module too hot goes off; the coolant flag follows its sensor; without the reference
module time goes on in holdover and every port goes down. -/
def Obligations.HeatAndReferenceAct : Prop :=
  ∀ s : State, s.power = .running → Sized s →
    (∀ (k : StackId) (temp : Int), s.stackOn k = true →
      (let row := max (s.stack k).row (heatRow temp)
        let u := (s.modStack k fun x => { x.heat s.now temp with row := row }).railUnder k
        exec (.stackHeatEnter k temp) s = .next (if row = 3 ∧ (s.stack k).row < 3 then u.raise 0x4 k.val 0x0032 else u) ∧
          (u.stack k).temp = temp ∧ (u.stack k).row = row) ∧
      (∃ t, exec (.stackHeatLeave k temp) s = .next t ∧ (t.stack k).temp = temp ∧
        (t.stack k).row ≤ max (s.stack k).row (heatRow temp) ∧ t.cells = s.cells ∧
        (temp ≤ 1312 → (∀ i, (s.stack k).hotAt.getD i 0 + 100000000 ≤ s.now) → (t.stack k).row = 0))) ∧
    (∀ (h : TileId) (k : StackId) (temp : Int), s.tileIsOn h.val = true → homeTile k = some h → 1680 ≤ temp →
      ∃ t, exec (.tileThermalStop h (some k) temp) s = .next t ∧ t.tileIsOn h.val = false ∧ (t.cache h).lines = [] ∧
        (∀ b : BenchId, b.tile = h → (t.bench b).asg = (s.bench b).asg ∧ (t.bench b).shelf = [] ∧ (t.bench b).seqState = .idle) ∧
        (∀ p b, (s.bench b).partOf = some p → b.tile = h → (s.part p).loaded = true → (t.part p).stopped = true) ∧
        ∀ g : TileId, g ≠ h → t.tileIsOn g.val = s.tileIsOn g.val) ∧
    (∀ (k : StackId) (temp : Int), homeTile k = none → 1680 ≤ temp →
      ∃ t, exec (.moduleThermalStop (some k) temp) s = .next t ∧ t.power = .unpowered ∧ t.tileOn = State.reset.tileOn ∧ t.cells = []) ∧
    (∀ temp : Int, 640 < temp →
      exec (.coolantHotSet temp) s = .next { s with supply := { s.supply with coolant := temp, coolantHot := true } }) ∧
    (∀ temp : Int, temp ≤ 608 →
      exec (.coolantHotClear temp) s = .next { s with supply := { s.supply with coolant := temp, coolantHot := false } }) ∧
    (s.time.clkMode.toNat < 2 → s.time.holdover = false →
      ∃ t, exec .refLoss s = .next t ∧ t.time.holdover = true ∧ t.time.refLoss = satAdd 16 s.time.refLoss 1 ∧ t.time.now = s.time.now ∧
        ∀ n : PortId, (t.port n).state.toNat ≤ 1) ∧
    (s.time.holdover = true → exec .refReturn s = .next { s with time := { s.time with holdover := false } })

/-! The counting house's messages -/

/-- Management commands (R430, R431, R432, R433, R436, R439, R470): SET_SLOT takes the manager and the slot, MEASURE a signed report under
the nonce, STATUS and SENSORS their values; RETIRE retires a free bench; TICKET_ACK takes the SEQ and every lower one from the
store; STAGE_WRITE stores into the staging area and drops the commit record, STAGE_COMMIT writes it for an image that
verifies; BOOT_DATA gets no reply and its answered request is gone; a TYPE that the list does not have is answered STATUS 7. -/
def Obligations.DatagramsAreServed : Prop :=
  ∀ (m : MsgSrc) (s : State), s.online = true → s.byRelay = false → m.relay = none → Sized s →
    let answer (typ status : Nat) (more : List (Nat × List Byte)) : MgmtOut :=
      { dest := m.addr, body := cborMap ([(0, cborUint typ), (1, cborUint m.reqId), (2, cborUint status), (3, cborUint s.now)] ++ more) }
    let managed : Prop := s.house.mgr = some m.addr ∧ s.servesFailed = false ∧ s.start.recovery = false ∧ s.house.commands = []
    (∀ slot, s.house.mgr = none → s.house.commands = [] → 1 ≤ slot.length → slot.length ≤ 32 →
      ∃ t, exec (.setSlot m slot) s = .next t ∧ t.house.slot = some slot ∧ t.house.mgr = some m.addr ∧ answer 0x02 0 [] ∈ t.mgmtOut) ∧
    (∀ nonce, managed → s.start.keyReady = true → 16 ≤ nonce.length → nonce.length ≤ 64 →
      ∃ sig : List Byte, sig.length = 512 ∧ exec (.measure m nonce) s = .next { s with
        freeCtr := s.freeCtr + 1
        mgmtOut := s.mgmtOut ++ [answer 0x03 0 [(4, cborBytes nonce), (5, cborBytes s.start.fwMeas), (6, patMeasCbor s.patMeas),
          (7, cborUint s.now), (8, cborBytes sig)]] }) ∧
    (managed → exec (.status m) s = .next { s with mgmtOut := s.mgmtOut ++ [answer 0x04 0 s.statusKeys] }) ∧
    (managed → exec (.sensors m) s = .next { s with mgmtOut := s.mgmtOut ++
      [answer 0x05 0 [(4, cborMap (sensorCodes.map fun c => (c, cborUint (s.sensor c).toNat)))]] }) ∧
    (∀ b : BenchId, managed → (s.bench b).ownerOf = none →
      ∃ t, exec (.retire m 0x2 b.tile.val b.phys.val) s = .next t ∧ (t.bench b).asg = .retired ∧ answer 0x06 0 [] ∈ t.mgmtOut) ∧
    (∀ seq, managed → s.house.lostUntold = 0 →
      ∃ t, exec (.ticketAck m seq) s = .next t ∧
        t.house.tickets.map (·.seq) = (s.house.tickets.filter fun k => seq < k.seq).map (·.seq) ∧ answer 0x11 0 [] ∈ t.mgmtOut) ∧
    (∀ off data, managed → s.start.sfdpOk = true → s.start.flBusy = none → s.start.copying = false → data.length ≤ 3584 →
      off + data.length ≤ commitRecord - stagingArea →
      exec (.stageWrite m off data) s = .next { s with
        nv := { s.nv with flash := memWrite 0xFF (memClear s.nv.flash commitRecord 4096) (stagingArea + off) data }
        mgmtOut := s.mgmtOut ++ [answer 0x30 0 []] }) ∧
    (∀ len sha, managed → s.start.sfdpOk = true → s.start.flBusy = none → s.start.copying = false → sha.length = 64 →
      len ≤ commitRecord - stagingArea →
      let read (i k : Nat) : List Byte := s.flashRead (stagingArea + i) k
      ∃ t, exec (.stageCommit m len sha) s = .next t ∧
        if verifyImage s.nv read (some len) 1 (some sha) = 0 then
          t.nv = (s.writeCommit len (fwMeasOf read)).nv ∧ answer 0x31 0 [] ∈ t.mgmtOut
        else t.commitLen = none ∧ answer 0x31 2 [] ∈ t.mgmtOut) ∧
    (∀ off data, s.house.mgr = some m.addr → s.fetching = true → (off, data.length) ∈ s.house.bootReqs.map (fun r => (r.1, r.2.1)) →
      (∀ r ∈ s.house.bootReqs, r.1 < s.house.bootNext) →
      ∃ t, exec (.bootData m off data) s = .next t ∧ t.house.noReply = s.house.noReply + 1 ∧ off ∉ t.house.bootReqs.map (·.1) ∧
        (∀ w, s.mem.writeFrom (h0Base + off) data false Origin.hub = some w → t.mem = w)) ∧
    (∀ data typ req, uintKey (cborDatagram data).1 0 = some typ → uintKey (cborDatagram data).1 1 = some req → req < 2 ^ 32 →
      uintKey (cborDatagram data).1 20 = none →
      typ ∉ [0x01, 0x02, 0x03, 0x04, 0x05, 0x06, 0x10, 0x11, 0x20, 0x21, 0x22, 0x23, 0x30, 0x31, 0x32, 0x33] →
      let out : MgmtOut := ⟨m.addr, cborMap [(0, cborUint typ), (1, cborUint req), (2, cborUint 7), (3, cborUint s.now)]⟩
      exec (.unknownType m data) s = .next { s with mgmtOut := s.mgmtOut ++ [out] })

/-- The house's own timers and its members (R401, R404, R407, R408, R428, R432, R433, R434, R436, R464): HELLO every second until SET_SLOT; sent
tickets, member messages and boot requests go out again on their times; a command that has waited too long is answered STATUS 5
and discarded; the port's state is LINK; a tally is held, and decided when its time is over; a fault notice of the epoch stops
the partition and raises its class; an epoch-ready is held for its barrier; PEER_ACK ends a message. -/
def Obligations.MembersAndHouseTimersAct : Prop :=
  ∀ (m : MsgSrc) (s : State), s.power = .running → s.house.link = true → s.byRelay = false → m.relay = none → Sized s →
    let out (t : State) (xs : List MgmtOut) : Prop := t.mgmtOut = s.mgmtOut ++ xs
    (s.start.keyReady = true → s.house.mgr = none → s.house.helloAt ≤ s.now →
      let hello : MgmtOut := ⟨helloGroup, cborMap [(0, cborUint 0x01), (1, cborUint 0), (3, cborUint s.now), (4, cborUint 0x5708),
        (5, cborBytes s.start.key), (6, cborUint s.start.bootSrc.toNat)]⟩
      exec .hello s = .next { s with
        house := { s.house with helloAt := s.now + 1000000000 }, mgmtOut := s.mgmtOut ++ [hello] }) ∧
    (∀ a, s.house.mgr = some a →
      let due := s.house.tickets.filter fun k => k.seq < s.house.sent && k.seq < s.house.low + 64 && s.passed k.sentAt 100000000
      ∃ t, exec .ticketResend s = .next t ∧ out t (due.map fun k => { dest := a, body := ticketMsg s k }) ∧
        t.house.tickets = s.house.tickets.map fun k => if k ∈ due then { k with sentAt := s.now } else k) ∧
    (let keep := s.house.peerOut.filter fun e => !s.passed e.first (1000000 * s.integ.timeoutMs)
      ∃ t, exec .peerResend s = .next t ∧
        out t ((keep.filter fun e => s.passed e.lastSent 10000000).map fun e => { dest := e.dest, body := e.body }) ∧
        t.house.peerOut = keep.map fun e => if s.passed e.lastSent 10000000 then { e with lastSent := s.now } else e) ∧
    (s.fetching = true →
      ∃ t, exec .bootReqResend s = .next t ∧
        t.house.bootReqs = s.house.bootReqs.map fun r => if s.passed r.2.2 100000000 then (r.1, r.2.1, s.now) else r) ∧
    (∀ c, s.house.commands = [c] → c.since + 1000000 * s.time.wtMgmt ≤ s.now → (mgmtSrc c.cmd).relay = none →
      let late : MgmtOut := ⟨(mgmtSrc c.cmd).addr, cborMap [(0, cborUint (mgmtType c.cmd)), (1, cborUint (mgmtSrc c.cmd).reqId),
        (2, cborUint 5), (3, cborUint s.now)]⟩
      exec (.mgmtCommandExpiry 0) s = .next { s with
        house := { s.house with commands := [] }, mgmtOut := s.mgmtOut ++ [late] }) ∧
    exec .managementPortDown s = .next { s with house := { s.house with link := false, netPrefix := none } } ∧
    (∃ q, exec .managementPortUp { s with house := { s.house with link := false } } = .next { s with
      freeCtr := s.freeCtr + 1, house := { s.house with link := true, helloAt := s.now, netPrefix := some q } }) ∧
    (∀ (p : PartId) (step : Nat) (tally : List Byte) (e : Member), step < 2 ^ 64 → tally.length = 16 → s.fromMember m = true →
      s.memberAddr p m = some e → e.isReplica = true → (s.part p).loaded = true → (s.integOf p).tallyStep < step →
      (s.integOf p).verdict ≠ 6 → (s.integOf p).tallies.any (fun q => q.1 = e.addr && q.2.1 = step) = false →
      exec (.tally m p.val step tally) s = .next ((s.peerAck m 0x20 p.val step).modInteg p fun x => { x with
        tallies := (x.tallies.filter fun q => x.tallyStep ≤ q.2.1) ++ [(e.addr, step, tally)] })) ∧
    (∀ p : PartId, (s.integOf p).verdict = 6 → (s.integOf p).formedAt + 1000000 * s.integ.timeoutMs ≤ s.now →
      ∃ t, exec (.tallyTimeout p) s = .next t ∧ (t.integOf p).present = ((s.integOf p).present_ (s.members p)).length ∧
        (t.integOf p).verdict = BitVec.ofNat 3 (tallyVerdict ((s.members p).any (·.isReplica)) (s.integOf p).tval
          ((s.integOf p).present_ (s.members p)))) ∧
    (∀ (p : PartId) (cause cls : Nat), s.fromMember m = true → (s.part p).loaded = true → cls ≤ 1 →
      ∃ t, exec (.faultNotice m p.val (s.part p).epoch.toNat cause cls) s = .next t ∧ (t.part p).stopped = true ∧
        cls ≤ (t.part p).faultClass ∧ (s.part p).faultClass ≤ (t.part p).faultClass) ∧
    (∀ (p : PartId) (epoch loc : Nat) (e : Member), s.fromMember m = true → s.memberAddr p m = some e → (s.part p).loaded = true →
      epoch < 65536 → (s.integOf p).barrierEpoch = BitVec.ofNat 16 epoch → (s.integOf p).ready.any (fun r => r.1 = e.addr) = false →
      ∃ t, exec (.epochReady m p.val epoch loc) s = .next t ∧ (t.integOf p).ready = (s.integOf p).ready ++ [(e.addr, loc)]) ∧
    (∀ typ part n i, s.fromMember m = true →
      s.house.peerOut.findIdx? (fun e => e.dest = m.addr && e.typ = typ && e.part = part && e.n = n) = some i →
      exec (.peerAck m typ part n) s = .next { s with house := { s.house with
        noReply := s.house.noReply + 1, peerOut := s.house.peerOut.eraseIdx i } })

/-! Integrity -/

/-- Self-tests and arbiter runs (R395, R396, R397, R411, R412, R418): a test starts on a bench that may be tested; a bench that
passes reads free with its new exclusions, one that fails, or that its exclusions do not cover, reads retired; a held bench that
waits for its verdict gets a run, which takes the arbiter that R395 names and copies the operand rows of the held order, and no
other bench gets one; a checker fault clears the hold of the bench, a computation fault retires it and stops its partition, an
operand fault stops the partition, and the second within 24 hours retires the bench; without an arbiter, with ARB_EN clear, and
2 ms after the hold the verdict is unarbitrated; the closing rinse gives the arbiter back. -/
def Obligations.SelfTestsAndArbitersAct : Prop :=
  ∀ (b : BenchId) (s : State), s.clerkTime = true → Sized s →
    let x := s.bench b
    let stops (p : PartId) (t : State) : Prop := (t.bench b).asg = .retired ∧ (t.part p).stopped = true
    (∀ extra, s.tileIsOn b.tile.val = true → x.testing = false → x.testPending = none → x.mayTest = true →
      exec (.biTestGo b extra) s = .next (s.modBench b fun x => { x with testing := true, testPending := none, testExtra := extra })) ∧
    (∀ extra, s.tileIsOn b.tile.val = true → x.testing = true →
      exec (.biTestGo b extra) s = .next (s.modBench b fun x => { x with testResult := 3 })) ∧
    (∀ cells rows cols leaves shelf, x.testing = true →
      let r : TestOutcome := .pass cells rows cols leaves shelf
      ∃ t, exec (.selfTestDone b r) s = .next t ∧ (t.bench b).testing = false ∧ (t.bench b).shelf = [] ∧
        (TestOutcome.passes r = true → (t.bench b).asg = .free ∧ (t.bench b).exclRows = rows ∧ (t.bench b).exclCols = cols ∧
          (t.bench b).leavesOut = leaves ∧ (t.bench b).shelfSpares = shelf ∧ (t.bench b).testResult = 1) ∧
        (TestOutcome.passes r = false → (t.bench b).asg = .retired ∧ (t.bench b).testResult = 2) ∧
        ∀ c : BenchId, c ≠ b → t.bench c = s.bench c) ∧
    (∀ unit, x.testing = true →
      ∃ t, exec (.selfTestDone b (.fail unit)) s = .next t ∧ (t.bench b).asg = .retired ∧ (t.bench b).testing = false ∧
        (t.bench b).testResult = 2 ∧ (t.bench b).failUnit = BitVec.ofNat 3 unit ∧ ∀ c : BenchId, c ≠ b → t.bench c = s.bench c) ∧
    (x.unjudged = false → exec (.arbiterStart b) s = .next s) ∧
    (∀ p a, x.partOf = some p → x.unjudged = true → s.integ.arbEn = true → s.runFor b = none → s.arbiterFor b p = some a →
      ∃ t, exec (.arbiterStart b) s = .next t ∧ (t.bench a).arbiter = true ∧ (t.bench b).arbitrating = true ∧
        t.integ.runs = s.integ.runs ++ [{
          held := b.idx, arb := a.idx, kind := x.hold, part := p, epoch := (s.part p).epoch, at_ := s.now
          order := x.heldOrder.getD {}, line := x.heldLine, quad := x.quad, seed := x.seed }]) ∧
    (∀ p, x.partOf = some p → x.unjudged = true → s.runFor b = none → (s.part p).loaded = true →
      (s.integ.arbEn = false ∨ s.arbiterFor b p = none → ∃ t, exec (.arbiterStart b) s = .next t ∧ stops p t) ∧
      (x.holdSince + 2000000 ≤ s.now → ∃ t, exec (.arbiterTimeout b) s = .next t ∧ stops p t)) ∧
    (s.runFor b = none → exec (.arbiterCopyDone b) s = .next s) ∧
    (∀ run, s.runFor b = some run → run.copied = false → run.arb < 136 →
      ∃ t, exec (.arbiterCopyDone b) s = .next t ∧
        t.integ = { s.integ with runs := s.integ.runs.map fun r => if r.held = b.idx then { r with copied := true } else r } ∧
        ∀ row n, (row, n) ∈ x.operandRows run.order → ∀ a, 512 * row ≤ a → a < 512 * (row + n) →
          memGet 0 (t.benches.getD run.arb default).shelf a = memGet 0 x.shelf a) ∧
    (∀ run u, s.runFor b = some run → run.copied = true → x.partOf = some run.part →
      (s.part run.part).loaded = true → (s.part run.part).epoch = run.epoch →
      ∃ t, exec (.arbiterVerdict b u) s = .next t ∧
        ((s.recompute run u).1 = 1 → (t.bench b).hold = .none ∧ (t.bench b).unchecked = true ∧ (t.bench b).heldOrder = none ∧
          t.integ.runs = s.integ.runs.filter fun q => q.held ≠ b.idx) ∧
        ((s.recompute run u).1 = 2 → stops run.part t) ∧
        ((s.recompute run u).1 = 3 → (t.part run.part).stopped = true ∧ (t.bench b).lastOperandFault = some s.now ∧
          ∀ a, x.lastOperandFault = some a → s.now ≤ a + 86400000000000 → (t.bench b).asg = .retired)) ∧
    (∀ run, s.runFor b = some run → x.hold ≠ .none → x.holdSince + 2000000 ≤ s.now → x.partOf = some run.part →
      (s.part run.part).loaded = true → (s.part run.part).epoch = run.epoch →
      ∃ t, exec (.arbiterTimeout b) s = .next t ∧ stops run.part t) ∧
    (x.closingRinse = true → x.testPending = none →
      ∃ t, exec (.arbiterRinseDone b) s = .next t ∧ (t.bench b).closingRinse = false ∧ (t.bench b).shelf = [] ∧ (t.bench b).asg = x.asg ∧
        ∀ c : BenchId, c ≠ b → t.bench c = s.bench c)

/-! Registers, sideband and test port -/

/-- R12, R38: every register stands at a multiple of 8; an access of another width or alignment, an aligned one to an offset
that no register has, and any access to the window of an unpowered tile read 0, change no register, and raise the
control-space misuse ticket; that the ticket names class 0, index 0 and no partition is the model's choice (assumption 122). -/
def Obligations.ControlSpaceMisuseIsTicketed : Prop :=
  ∀ s : State, s.clerkTime = true → ∀ addr : Nat, inCtl addr = true →
    let ticketed := s.raise 0 0 0x0001
    let zero : State := { ticketed with bus := { data := 0, exc := none } }
    ((s.regFor addr).isSome = true → addr % 8 = 0) ∧
    (∀ h : TileId, s.tileIsOn h.val = false → 0xF01000000000 + 2 ^ 32 * h.val ≤ addr → addr < 0xF01000000000 + 2 ^ 32 * (h.val + 1) →
      s.regFor addr = none) ∧
    (∀ width, width ≠ 8 ∨ addr % 8 ≠ 0 →
      exec (.controlSpaceMisuse addr width true) s = .next ticketed ∧ exec (.controlSpaceMisuse addr width false) s = .next zero ∧
      ∀ c : CoreId, s.house.active.getLsbD c.val = true →
        (∀ v, exec (.clerkAccess c addr (.store width v)) s = .next ticketed) ∧ exec (.clerkAccess c addr (.load width)) s = .next zero) ∧
    (addr % 8 = 0 → s.regFor addr = none →
      exec (.controlSpaceUnassigned addr true) s = .next ticketed ∧ exec (.controlSpaceUnassigned addr false) s = .next zero ∧
      (∀ v, exec (.registerWrite addr v) s = .next ticketed) ∧
      ∀ c : CoreId, s.house.active.getLsbD c.val = true →
        (∀ v, exec (.clerkAccess c addr (.store 8 v)) s = .next ticketed) ∧ exec (.clerkAccess c addr (.load 8)) s = .next zero)

/-- Accesses from outside (R13, R438, R439, R488): an aligned store reaches its register, a store to a read-only one changes nothing,
and PL_SRC and PL_LEN take their fields; a sideband read of a listed code answers its value with its error code, any other is
not acknowledged; a renewal takes every value from its measurements; TRST_N resets the test port, and so do five clocks with
TMS high. -/
def Obligations.OutsideAccessesAct : Prop :=
  ∀ s : State,
    (s.clerkTime = true →
      (∀ addr v, inCtl addr = true → addr % 8 = 0 → exec (.registerWrite addr v) s = .next (s.ctlWrite addr v)) ∧
      (∀ v, exec (.registerWrite 0xF00002000000 v) s = .next { s with loader := { s.loader with src := bits v.toNat 47 0 } }) ∧
      (∀ v, exec (.registerWrite 0xF00002000008 v) s = .next { s with loader := { s.loader with len := bits v.toNat 20 0 } }) ∧
      (∀ v, exec (.registerWrite 0xF00007000000 v) s = .next s) ∧ (∀ v, exec (.registerWrite 0xF00000000000 v) s = .next s)) ∧
    (s.power ≠ .unpowered →
      (∀ cmd ∈ sensorCodes, ∃ pecv, exec (.smbusReadWord 0x5C cmd) s = .next { s with smbus := some (s.sensor cmd, pecv) }) ∧
      (∀ addr cmd, addr ≠ 0x5C ∨ cmd ∉ sensorCodes → exec (.smbusReadWord addr cmd) s = .next { s with smbus := none }) ∧
      exec .trstN s = .next { s with tap := {} } ∧
      (∀ rising tms tdi, ∃ t, exec (.tck rising tms tdi) s = .next t ∧
        t.tap.state = (if rising then s.tap.state.next tms else s.tap.state) ∧ t.benches = s.benches ∧ t.mem.cells = s.mem.cells ∧
        t.nv = s.nv)) ∧
    (s.power = .running → ∀ v : Measured,
      ∃ t, exec (.sensorRenew v) s = .next t ∧ t.supply.mv = v.mv ∧ t.supply.current = v.current ∧ t.supply.coolant = v.coolant ∧
        t.supply.hubJunction = v.hubJunction ∧ (∀ c ∈ sensorCodes, t.sensor c = t.sensorOf v c) ∧ t.sensor 0x01 = BitVec.ofNat 16 v.mv ∧
        t.cells = s.cells ∧ t.benches = s.benches) ∧
    (∀ q : TapState, ((((q.next true).next true).next true).next true).next true = .testLogicReset)

/-! Watch timers -/

/-- The watch timers (R62, R64, R165, R319): a seam that has not moved for T_SEAM_MS, and a stream-mode COMPACT that has made no
progress for that time, fault their bench with code 0x20; a token or frame not come for T_TOKEN_MS faults its bench with 0x21; a
memory request without a response for T_MEM, of an order line, a walk, an order, a counter add or a cancelled order that a load waits for, faults
its bench with 0x22; each stops the partition. -/
def Obligations.WatchTimersStopThePartition : Prop :=
  ∀ (p : PartId) (s : State), s.clerkTime = true → (s.part p).live = true →
    let faulted (b : BenchId) (code : Nat) (t : State) : Prop :=
      (t.part p).stopped = true ∧ (t.bench b).inflight = [] ∧ ((s.bench b).fault = none → ∃ o q, (t.bench b).fault = some (code, o, q))
    (∀ (k : Nat) (m : SeamState) (b : BenchId), (s.part p).frozenSince = none → (s.part p).seams[k]? = some m → m.rows ≠ [] →
      m.since + 1000000 * (s.part p).hdr.tSeamMs ≤ s.now → s.benchOfLogical p m.rcd.dst = some b →
      ∃ t, exec (.seamStallExpiry p k) s = .next t ∧ faulted b 0x20 t) ∧
    (∀ (k : Nat) (b : BenchId) (c : StreamCtx), (s.part p).frozenSince = none →
      (s.benchesOf p)[k]? = some b → (s.bench b).streams.head? = some c → c.since + 1000000 * (s.part p).hdr.tSeamMs ≤ s.now →
      ∃ t, exec (.seamStallExpiry p ((s.part p).seams.length + k)) s = .next t ∧ faulted b 0x20 t) ∧
    (∀ (b : BenchId) (slot : Nat) (r : TokenWatch), (s.part p).frozenSince = none → (s.bench b).partOf = some p → s.tokenWatch b p slot = some r →
      r.since + 1000000 * (s.part p).hdr.tTokenMs ≤ s.now →
      ∃ t, exec (.tokenWaitExpiry b slot) s = .next t ∧ faulted b 0x21 t) ∧
    (∀ (k : Nat) (b : BenchId) (w : MemWatch) (since : Nat), (s.memRequests p)[k]? = some (w, since) → (s.bench b).partOf = some p →
      ((∃ va, w = .line b va) ∨ (∃ i, w = .order b i) ∨ (∃ i, w = .add b i)) → since + 100000 * (s.part p).hdr.tMem ≤ s.now →
      ∃ t, exec (.memoryRequestExpiry p k) s = .next t ∧ faulted b 0x22 t) ∧
    (∀ (k : Nat) (b : BenchId) (pa since : Nat), (s.memRequests p)[k]? = some (.pending b.idx pa, since) → s.loader.phase = .idle →
      since + 100000 * (s.part p).hdr.tMem ≤ s.now →
      exec (.memoryRequestExpiry p k) s = .next ((s.modPart p fun x => { x with
        pendReqs := x.pendReqs.filter fun r => r.bench ≠ b.idx || r.pa ≠ pa }).benchFault b 0x22 0 false 0))

/-! The whole machine -/

/-- Reset (R15, R457): the registers that the spec gives a value after start read it, by way of the clerk cores; the memories are in
canonical form and every unit has its place. That the state after reset is that of release, with both straps 0, C00 running and
empty memories, is the model's choice (assumptions 3 and 5). -/
def Obligations.ResetHoldsItsValues : Prop :=
  Canonical State.reset ∧ Sized State.reset ∧ State.reset.pending = [] ∧ State.reset.power = .running ∧ State.reset.now = 0 ∧
  State.reset.house.active = 1 ∧ State.reset.house.failed = 0 ∧ State.reset.start.stage = 0 ∧
  (∀ b : BenchId, (State.reset.bench b).asg = .retired) ∧ (∀ p : PartId, (State.reset.part p).loaded = false) ∧
  (∀ n : PortId, (State.reset.port n).state = 0) ∧ (∀ h : TileId, State.reset.tileIsOn h.val = false) ∧
  (∀ k : StackId, (State.reset.stack k).mode = 1 ∧ (State.reset.stack k).lock = false ∧ (State.reset.stack k).ceThresh = 1000 ∧
    (State.reset.stack k).scrubH = 24 ∧ (State.reset.stack k).spareState = 0) ∧
  ∀ e ∈ ([(0xF00000000000, 0x1A15708), (0xF00001000000, 0), (0xF00001000058, 0), (0xF00001000060, 1), (0xF00001000070, 0),
      (0xF00001100200, 0x43E8), (0xF00001100208, 0), (0xF00002000000, 0), (0xF00002000018, 0), (0xF00002000020, 0),
      (0xF00003000008, 60), (0xF00003000010, 0), (0xF00004000000, 1), (0xF00004000018, 1000), (0xF00004000030, 24),
      (0xF00006000010, 0), (0xF00006000020, 750), (0xF00007000000, 0), (0xF00007000010, 0), (0xF00007000018, 1000),
      (0xF00008000200, 0)] : List (Nat × Nat)),
    (State.reset.ctlRead e.1).bus = { data := BitVec.ofNat 64 e.2, exc := none }

/-- Every command keeps the canonical form of the stacks' cells, the boot flash and the shelves: addresses rise and no entry holds
what an unlisted address reads as. -/
def Obligations.EveryStepKeepsTheCanonicalForm : Prop :=
  ∀ s t : State, Canonical s → step s = .next t → Canonical t

/-- Every command leaves the module with its 4 tiles, 136 benches, 8 partitions, 14 stacks and 8 ports. -/
def Obligations.EveryStepKeepsTheUnits : Prop :=
  ∀ s t : State, Sized s → step s = .next t → Sized t

/-- The life cycle and the anti-rollback count over every command (R472, R473, R477): VOID is final, no module comes back to MAKER, and the
anti-rollback count never falls. -/
def Obligations.LifeCycleNeverGoesBack : Prop :=
  ∀ s t : State, step s = .next t →
    (s.nv.life = .void_ → s.nv.nextLife = none → t.nv.life = .void_ ∧ t.nv.nextLife = none) ∧
    (s.nv.life ≠ .maker → s.nv.nextLife ≠ some .maker → t.nv.life ≠ .maker ∧ t.nv.nextLife ≠ some .maker) ∧
    s.nv.arbCount ≤ t.nv.arbCount
end

