-- ==== Sys2Proof/Laws/Memory.lean ====
section
/-! SUPPORT. Byte memories: reading what was written, what a write leaves alone, and that every operation keeps the
canonical form. -/

namespace Sys2Proof.Machine

open Sys2Proof

/-- The canonical form of a memory behind an entry: its addresses lie above `a`. -/
def Memory.above (a : Nat) (m : Mem) : Prop := ∀ c ∈ m, a < c.1

theorem Memory.wf_cons (d : Byte) (c : Nat × Byte) (m : Mem) :
    Memory.wf d (c :: m) = true ↔ Memory.above c.1 m ∧ c.2 ≠ d ∧ Memory.wf d m = true := by
  induction m generalizing c with
  | nil => simp [Memory.wf, Memory.above]
  | cons c' m ih =>
    have e : Memory.wf d (c :: c' :: m) = (decide (c.1 < c'.1) && c.2 != d && Memory.wf d (c' :: m)) := rfl
    rw [e]
    simp only [Bool.and_eq_true, decide_eq_true_eq, bne_iff_ne, ne_eq, and_assoc]
    constructor
    · rintro ⟨h, hd, hw⟩
      refine ⟨?_, hd, hw⟩
      intro x hx
      rcases List.mem_cons.mp hx with rfl | hx
      · exact h
      · exact Nat.lt_trans h (((ih c').mp hw).1 x hx)
    · rintro ⟨h, hd, hw⟩
      exact ⟨h c' (List.mem_cons_self ..), hd, hw⟩

@[simp] theorem Memory.wf_nil (d : Byte) : Memory.wf d [] = true := rfl

theorem memGet_above {d : Byte} {m : Mem} {a b : Nat} (h : Memory.above a m) (hb : b ≤ a) : memGet d m b = d := by
  induction m with
  | nil => rfl
  | cons c m ih =>
    have hc := h c (List.mem_cons_self ..)
    simp only [memGet]
    rw [if_neg (by omega)]
    exact ih fun x hx => h x (List.mem_cons_of_mem _ hx)

theorem memSet_above {d : Byte} {m : Mem} {a b : Nat} {v : Byte} (h : Memory.above a m) (hb : a < b) :
    Memory.above a (memSet d m b v) := by
  induction m with
  | nil =>
    simp only [memSet]
    split
    · simp [Memory.above]
    · intro c hc; simp at hc; subst hc; exact hb
  | cons c m ih =>
    have hc := h c (List.mem_cons_self ..)
    have hm : Memory.above a m := fun x hx => h x (List.mem_cons_of_mem _ hx)
    simp only [memSet]
    split
    · split
      · exact h
      · intro x hx
        rcases List.mem_cons.mp hx with rfl | hx
        · exact hb
        · exact h x hx
    · split
      · split
        · exact hm
        · intro x hx
          rcases List.mem_cons.mp hx with rfl | hx
          · exact hb
          · exact hm x hx
      · intro x hx
        rcases List.mem_cons.mp hx with rfl | hx
        · exact hc
        · exact ih hm x hx

theorem memGet_memSet_self (d : Byte) (m : Mem) (a : Nat) (v : Byte) (h : Memory.wf d m = true) : memGet d (memSet d m a v) a = v := by
  induction m with
  | nil =>
    simp only [memSet]
    split
    · next e => simp [memGet, e]
    · simp [memGet]
  | cons c m ih =>
    obtain ⟨hab, -, hw⟩ := (Memory.wf_cons d c m).mp h
    simp only [memSet]
    split
    · next hlt =>
      split
      · next e =>
        simp only [memGet]
        rw [if_neg (by omega), e]
        exact memGet_above hab (by omega)
      · simp [memGet]
    · split
      · next hlt he =>
        split
        · next e => rw [e]; exact memGet_above hab (by omega)
        · simp [memGet]
      · next hlt hne =>
        simp only [memGet]
        rw [if_neg (by omega)]
        exact ih hw

theorem memGet_memSet_ne (d : Byte) (m : Mem) (a b : Nat) (v : Byte) (h : b ≠ a) : memGet d (memSet d m a v) b = memGet d m b := by
  induction m with
  | nil =>
    simp only [memSet]
    split
    · rfl
    · simp [memGet, Ne.symm h]
  | cons c m ih =>
    simp only [memSet]
    split
    · split
      · rfl
      · simp [memGet, Ne.symm h]
    · split
      · next hlt he =>
        have hc : ¬ c.1 = b := by omega
        split
        · simp [memGet, hc]
        · simp [memGet, Ne.symm h, hc]
      · simp only [memGet, ih]

theorem memSet_wf (d : Byte) (m : Mem) (a : Nat) (v : Byte) (h : Memory.wf d m = true) : Memory.wf d (memSet d m a v) = true := by
  induction m with
  | nil =>
    simp only [memSet]
    split
    · rfl
    · next e => simp [Memory.wf, e]
  | cons c m ih =>
    obtain ⟨hab, hd, hw⟩ := (Memory.wf_cons d c m).mp h
    simp only [memSet]
    split
    · next hlt =>
      split
      · exact h
      · next e =>
        refine (Memory.wf_cons d _ _).mpr ⟨?_, e, h⟩
        intro x hx
        rcases List.mem_cons.mp hx with rfl | hx
        · exact hlt
        · exact Nat.lt_trans hlt (hab x hx)
    · split
      · next hlt he =>
        split
        · exact hw
        · next e => exact (Memory.wf_cons d _ _).mpr ⟨fun x hx => he ▸ hab x hx, e, hw⟩
      · next hlt hne => exact (Memory.wf_cons d _ _).mpr ⟨memSet_above hab (by omega), hd, ih hw⟩

theorem memWrite_wf (d : Byte) (bs : List Byte) (m : Mem) (a : Nat) (h : Memory.wf d m = true) : Memory.wf d (memWrite d m a bs) = true := by
  induction bs generalizing m a with
  | nil => exact h
  | cons b bs ih => exact ih _ _ (memSet_wf d m a b h)

theorem filter_wf (d : Byte) (m : Mem) (f : Nat × Byte → Bool) (h : Memory.wf d m = true) : Memory.wf d (m.filter f) = true := by
  induction m with
  | nil => rfl
  | cons c m ih =>
    obtain ⟨hab, hd, hw⟩ := (Memory.wf_cons d c m).mp h
    by_cases hf : f c = true
    · rw [List.filter_cons_of_pos hf]
      exact (Memory.wf_cons d _ _).mpr ⟨fun x hx => hab x (List.mem_filter.mp hx).1, hd, ih hw⟩
    · rw [List.filter_cons_of_neg hf]
      exact ih hw

theorem memClear_wf (d : Byte) (m : Mem) (a n : Nat) (h : Memory.wf d m = true) : Memory.wf d (memClear m a n) = true :=
  filter_wf d m _ h

/-- A write leaves every byte outside its range. -/
theorem memGet_memWrite_out (d : Byte) (bs : List Byte) (m : Mem) (a b : Nat) (h : b < a ∨ a + bs.length ≤ b) :
    memGet d (memWrite d m a bs) b = memGet d m b := by
  induction bs generalizing m a with
  | nil => rfl
  | cons x bs ih =>
    simp only [memWrite]
    simp only [List.length_cons] at h
    rw [ih _ _ (by omega), memGet_memSet_ne _ _ _ _ _ (by omega)]

/-- A write puts each of its bytes in its place. -/
theorem memGet_memWrite_in (d : Byte) (bs : List Byte) (m : Mem) (a i : Nat) (hi : i < bs.length) (h : Memory.wf d m = true) :
    memGet d (memWrite d m a bs) (a + i) = bs[i] := by
  induction bs generalizing m a i with
  | nil => simp at hi
  | cons x bs ih =>
    simp only [memWrite]
    cases i with
    | zero =>
      rw [memGet_memWrite_out _ _ _ _ _ (by omega)]
      exact memGet_memSet_self d m a x h
    | succ i =>
      have e := ih (memSet d m a x) (a + 1) i (by simpa using hi) (memSet_wf d m a x h)
      rw [show a + 1 + i = a + (i + 1) by omega] at e
      simpa using e

@[simp] theorem memRead_length (d : Byte) (m : Mem) (a n : Nat) : (memRead d m a n).length = n := by simp [memRead]

theorem memRead_congr (d : Byte) (m m' : Mem) (a n : Nat) (h : ∀ i, i < n → memGet d m (a + i) = memGet d m' (a + i)) :
    memRead d m a n = memRead d m' a n := by
  simp only [memRead]
  exact List.map_congr_left fun i hi => h i (List.mem_range.mp hi)

/-- Reading back a range that was written. -/
theorem memRead_memWrite (d : Byte) (m : Mem) (a : Nat) (bs : List Byte) (h : Memory.wf d m = true) :
    memRead d (memWrite d m a bs) a bs.length = bs := by
  apply List.ext_getElem
  · simp
  · intro i h1 h2
    simp [memRead, memGet_memWrite_in d bs m a i h2 h]

@[simp] theorem sliceAt_length (bs : List Byte) (i n : Nat) : (sliceAt bs i n).length = n := by
  simp only [sliceAt, List.length_append, List.length_take, List.length_drop, List.length_replicate]; omega

end Sys2Proof.Machine
end

