-- ==== Sys2Proof/Laws/Shelf.lean ====
section
/-! SUPPORT. Shelf rows: reading a row that was written, and the rows and stain bits that a write leaves alone. -/

namespace Sys2Proof.Machine

open Sys2Proof

theorem mem_setInsert (xs : List Nat) (a b : Nat) : b ∈ setInsert xs a ↔ b = a ∨ b ∈ xs := by
  induction xs with
  | nil => simp [setInsert]
  | cons x xs ih =>
    simp only [setInsert]
    split
    · simp
    · split
      · next e => subst e; simp
      · simp only [List.mem_cons, ih]
        constructor
        · rintro (h | h | h)
          · exact .inr (.inl h)
          · exact .inl h
          · exact .inr (.inr h)
        · rintro (h | h | h)
          · exact .inr (.inl h)
          · exact .inl h
          · exact .inr (.inr h)

theorem contains_setPut (xs : List Nat) (a b : Nat) (on : Bool) :
    (setPut xs a on).contains b = if b = a then on else xs.contains b := by
  rw [Bool.eq_iff_iff]
  cases on with
  | true => by_cases h : b = a <;> simp [setPut, mem_setInsert, h]
  | false => by_cases h : b = a <;> simp [setPut, setErase, h]

/-- A shelf with a row written: its bytes. -/
theorem Bench.putRow_shelf (x : Bench) (row : Nat) (bs : List Byte) (st : List Bool) :
    (x.putRow row bs st).shelf = memWrite 0 x.shelf (512 * row) (sliceAt bs 0 512) := by
  simp only [Bench.putRow, Bench.shelfMark, Bench.shelfWrite, List.range, List.range.loop, List.foldl]

theorem Bench.putRow_shelfStain (x : Bench) (row : Nat) (bs : List Byte) (st : List Bool) (g : Nat) :
    (x.putRow row bs st).shelfStain.contains g = if g / 8 = row then st.getD (g % 8) false else x.shelfStain.contains g := by
  simp only [Bench.putRow, Bench.shelfMark, Bench.shelfWrite, List.range, List.range.loop, List.foldl, contains_setPut]
  by_cases h : g / 8 = row
  · rw [if_pos h]
    have hg : g = 8 * row + g % 8 := by omega
    have hk : g % 8 < 8 := Nat.mod_lt _ (by omega)
    generalize g % 8 = k at hg hk
    subst hg
    rcases (by omega : k = 0 ∨ k = 1 ∨ k = 2 ∨ k = 3 ∨ k = 4 ∨ k = 5 ∨ k = 6 ∨ k = 7) with h | h | h | h | h | h | h | h <;> subst h <;> simp
  · rw [if_neg h]
    simp only [show ¬ g = 8 * row + 7 by omega, show ¬ g = 8 * row + 6 by omega, show ¬ g = 8 * row + 5 by omega,
      show ¬ g = 8 * row + 4 by omega, show ¬ g = 8 * row + 3 by omega, show ¬ g = 8 * row + 2 by omega,
      show ¬ g = 8 * row + 1 by omega, show ¬ g = 8 * row + 0 by omega, if_false]

/-- The bench apart from its shelf. -/
theorem Bench.putRow_rest (x : Bench) (row : Nat) (bs : List Byte) (st : List Bool) :
    { x.putRow row bs st with shelf := x.shelf, shelfStain := x.shelfStain } = x := by
  simp only [Bench.putRow, Bench.shelfMark, Bench.shelfWrite, List.range, List.range.loop, List.foldl]

theorem Bench.getRow_putRow_self (x : Bench) (row : Nat) (bs : List Byte) (st : List Bool) (h : Memory.wf 0 x.shelf = true) :
    (x.putRow row bs st).getRow row = sliceAt bs 0 512 := by
  have e := memRead_memWrite 0 x.shelf (512 * row) (sliceAt bs 0 512) h
  rw [sliceAt_length] at e
  rw [Bench.getRow, Bench.shelfRead, Bench.putRow_shelf, e]

theorem Bench.getRow_putRow_other (x : Bench) (row r : Nat) (bs : List Byte) (st : List Bool) (h : r ≠ row) :
    (x.putRow row bs st).getRow r = x.getRow r := by
  rw [Bench.getRow, Bench.shelfRead, Bench.putRow_shelf, Bench.getRow, Bench.shelfRead]
  refine memRead_congr _ _ _ _ _ fun i hi => memGet_memWrite_out _ _ _ _ _ ?_
  rw [sliceAt_length]
  omega

theorem Bench.rowStain_putRow_self (x : Bench) (row : Nat) (bs : List Byte) (st : List Bool) :
    (x.putRow row bs st).rowStain row = (List.range 8).map fun i => st.getD i false := by
  apply List.map_congr_left
  intro i hi
  have hi := List.mem_range.mp hi
  rw [Bench.putRow_shelfStain, if_pos (by omega), show (8 * row + i) % 8 = i by omega]

theorem Bench.rowStain_putRow_other (x : Bench) (row r : Nat) (bs : List Byte) (st : List Bool) (h : r ≠ row) :
    (x.putRow row bs st).rowStain r = x.rowStain r := by
  apply List.map_congr_left
  intro i hi
  have hi := List.mem_range.mp hi
  rw [Bench.putRow_shelfStain, if_neg (by omega)]

theorem Bench.putRow_wf (x : Bench) (row : Nat) (bs : List Byte) (st : List Bool) (h : Memory.wf 0 x.shelf = true) :
    Memory.wf 0 (x.putRow row bs st).shelf = true := by
  rw [Bench.putRow_shelf]
  exact memWrite_wf 0 _ _ _ h

@[simp] theorem Bench.getRow_length (x : Bench) (row : Nat) : (x.getRow row).length = 512 := by simp [Bench.getRow, Bench.shelfRead]

theorem sliceAt_full {bs : List Byte} {n : Nat} (h : bs.length = n) : sliceAt bs 0 n = bs := by
  subst h
  simp [sliceAt]

@[simp] theorem Bench.rowStain_getD (x : Bench) (row : Nat) :
    ((List.range 8).map fun i => (x.rowStain row).getD i false) = x.rowStain row := rfl

/-- Consecutive rows written from row `row` on: those rows, every other row, and the rest of the bench. -/
theorem Bench.foldl_putRow (f : Nat → List Byte) (g : Nat → List Bool) (row n : Nat) (x : Bench) (h : Memory.wf 0 x.shelf = true) :
    let y := (List.range n).foldl (fun x i => x.putRow (row + i) (f i) (g i)) x
    Memory.wf 0 y.shelf = true ∧ { y with shelf := x.shelf, shelfStain := x.shelfStain } = x ∧
    (∀ i, i < n → y.getRow (row + i) = sliceAt (f i) 0 512 ∧ y.rowStain (row + i) = (List.range 8).map fun k => (g i).getD k false) ∧
    (∀ r, r < row ∨ row + n ≤ r → y.getRow r = x.getRow r ∧ y.rowStain r = x.rowStain r) := by
  induction n with
  | zero => exact ⟨h, rfl, by intro i hi; omega, fun _ _ => ⟨rfl, rfl⟩⟩
  | succ n ih =>
    simp only [List.range_succ, List.foldl_append, List.foldl_cons, List.foldl_nil]
    generalize (List.range n).foldl (fun x i => x.putRow (row + i) (f i) (g i)) x = y at ih
    obtain ⟨hw, he, hin, hout⟩ := ih
    refine ⟨Bench.putRow_wf _ _ _ _ hw, ?_, ?_, ?_⟩
    · rw [← he]
      exact congrArg (fun b : Bench => { b with shelf := x.shelf, shelfStain := x.shelfStain }) (Bench.putRow_rest y (row + n) (f n) (g n))
    · intro i hi
      by_cases e : i = n
      · subst e
        exact ⟨Bench.getRow_putRow_self _ _ _ _ hw, Bench.rowStain_putRow_self ..⟩
      · rw [Bench.getRow_putRow_other _ _ _ _ _ (by omega), Bench.rowStain_putRow_other _ _ _ _ _ (by omega)]
        exact hin i (by omega)
    · intro r hr
      rw [Bench.getRow_putRow_other _ _ _ _ _ (by omega), Bench.rowStain_putRow_other _ _ _ _ _ (by omega)]
      exact hout r (by omega)

end Sys2Proof.Machine
end

