-- ==== Sys2Proof/Laws/State.lean ====
section
/-! SUPPORT. What each updater of one unit leaves alone, field by field, and what reading the unit gives after it. -/

namespace Sys2Proof.Machine

open Sys2Proof

/-! `setBench` -/

@[simp] theorem State.setBench_pending (s : State) (b : BenchId) (x : Bench) : (s.setBench b x).pending = s.pending := rfl
@[simp] theorem State.setBench_freeCtr (s : State) (b : BenchId) (x : Bench) : (s.setBench b x).freeCtr = s.freeCtr := rfl
@[simp] theorem State.setBench_power (s : State) (b : BenchId) (x : Bench) : (s.setBench b x).power = s.power := rfl
@[simp] theorem State.setBench_porDone (s : State) (b : BenchId) (x : Bench) : (s.setBench b x).porDone = s.porDone := rfl
@[simp] theorem State.setBench_resetPin (s : State) (b : BenchId) (x : Bench) : (s.setBench b x).resetPin = s.resetPin := rfl
@[simp] theorem State.setBench_tileOn (s : State) (b : BenchId) (x : Bench) : (s.setBench b x).tileOn = s.tileOn := rfl
@[simp] theorem State.setBench_nv (s : State) (b : BenchId) (x : Bench) : (s.setBench b x).nv = s.nv := rfl
@[simp] theorem State.setBench_time (s : State) (b : BenchId) (x : Bench) : (s.setBench b x).time = s.time := rfl
@[simp] theorem State.setBench_supply (s : State) (b : BenchId) (x : Bench) : (s.setBench b x).supply = s.supply := rfl
@[simp] theorem State.setBench_start (s : State) (b : BenchId) (x : Bench) : (s.setBench b x).start = s.start := rfl
@[simp] theorem State.setBench_parts (s : State) (b : BenchId) (x : Bench) : (s.setBench b x).parts = s.parts := rfl
@[simp] theorem State.setBench_loader (s : State) (b : BenchId) (x : Bench) : (s.setBench b x).loader = s.loader := rfl
@[simp] theorem State.setBench_stackSet (s : State) (b : BenchId) (x : Bench) : (s.setBench b x).stackSet = s.stackSet := rfl
@[simp] theorem State.setBench_cells (s : State) (b : BenchId) (x : Bench) : (s.setBench b x).cells = s.cells := rfl
@[simp] theorem State.setBench_lineStain (s : State) (b : BenchId) (x : Bench) : (s.setBench b x).lineStain = s.lineStain := rfl
@[simp] theorem State.setBench_caches (s : State) (b : BenchId) (x : Bench) : (s.setBench b x).caches = s.caches := rfl
@[simp] theorem State.setBench_cx (s : State) (b : BenchId) (x : Bench) : (s.setBench b x).cx = s.cx := rfl
@[simp] theorem State.setBench_ports (s : State) (b : BenchId) (x : Bench) : (s.setBench b x).ports = s.ports := rfl
@[simp] theorem State.setBench_house (s : State) (b : BenchId) (x : Bench) : (s.setBench b x).house = s.house := rfl
@[simp] theorem State.setBench_integ (s : State) (b : BenchId) (x : Bench) : (s.setBench b x).integ = s.integ := rfl
@[simp] theorem State.setBench_pint (s : State) (b : BenchId) (x : Bench) : (s.setBench b x).pint = s.pint := rfl
@[simp] theorem State.setBench_rings (s : State) (b : BenchId) (x : Bench) : (s.setBench b x).rings = s.rings := rfl
@[simp] theorem State.setBench_failRoute (s : State) (b : BenchId) (x : Bench) : (s.setBench b x).failRoute = s.failRoute := rfl
@[simp] theorem State.setBench_irqs (s : State) (b : BenchId) (x : Bench) : (s.setBench b x).irqs = s.irqs := rfl
@[simp] theorem State.setBench_sensors (s : State) (b : BenchId) (x : Bench) : (s.setBench b x).sensors = s.sensors := rfl
@[simp] theorem State.setBench_clerkLines (s : State) (b : BenchId) (x : Bench) : (s.setBench b x).clerkLines = s.clerkLines := rfl
@[simp] theorem State.setBench_clerkFlush (s : State) (b : BenchId) (x : Bench) : (s.setBench b x).clerkFlush = s.clerkFlush := rfl
@[simp] theorem State.setBench_tap (s : State) (b : BenchId) (x : Bench) : (s.setBench b x).tap = s.tap := rfl
@[simp] theorem State.setBench_bus (s : State) (b : BenchId) (x : Bench) : (s.setBench b x).bus = s.bus := rfl
@[simp] theorem State.setBench_smbus (s : State) (b : BenchId) (x : Bench) : (s.setBench b x).smbus = s.smbus := rfl
@[simp] theorem State.setBench_mgmtOut (s : State) (b : BenchId) (x : Bench) : (s.setBench b x).mgmtOut = s.mgmtOut := rfl
@[simp] theorem State.setBench_linkOut (s : State) (b : BenchId) (x : Bench) : (s.setBench b x).linkOut = s.linkOut := rfl
@[simp] theorem State.setBench_framesOut (s : State) (b : BenchId) (x : Bench) : (s.setBench b x).framesOut = s.framesOut := rfl
@[simp] theorem State.setBench_part (s : State) (b : BenchId) (x : Bench) (q : PartId) : (s.setBench b x).part q = s.part q := rfl
@[simp] theorem State.setBench_stack (s : State) (b : BenchId) (x : Bench) (j : StackId) : (s.setBench b x).stack j = s.stack j := rfl
@[simp] theorem State.setBench_cache (s : State) (b : BenchId) (x : Bench) (u : TileId) : (s.setBench b x).cache u = s.cache u := rfl
@[simp] theorem State.setBench_port (s : State) (b : BenchId) (x : Bench) (i : PortId) : (s.setBench b x).port i = s.port i := rfl
@[simp] theorem State.setBench_integOf (s : State) (b : BenchId) (x : Bench) (q : PartId) : (s.setBench b x).integOf q = s.integOf q := rfl
@[simp] theorem State.setBench_ring (s : State) (b : BenchId) (x : Bench) (q : PartId) : (s.setBench b x).ring q = s.ring q := rfl
@[simp] theorem State.setBench_now (s : State) (b : BenchId) (x : Bench) : (s.setBench b x).now = s.now := rfl
@[simp] theorem State.setBench_clerkTime (s : State) (b : BenchId) (x : Bench) : (s.setBench b x).clerkTime = s.clerkTime := rfl
@[simp] theorem State.setBench_tileIsOn (s : State) (b : BenchId) (x : Bench) (u : Nat) : (s.setBench b x).tileIsOn u = s.tileIsOn u := rfl
@[simp] theorem State.setBench_geo (s : State) (b : BenchId) (x : Bench) : (s.setBench b x).geo = s.geo := rfl

/-! `modBench` -/

@[simp] theorem State.modBench_pending (s : State) (b : BenchId) (f : Bench → Bench) : (s.modBench b f).pending = s.pending := rfl
@[simp] theorem State.modBench_freeCtr (s : State) (b : BenchId) (f : Bench → Bench) : (s.modBench b f).freeCtr = s.freeCtr := rfl
@[simp] theorem State.modBench_power (s : State) (b : BenchId) (f : Bench → Bench) : (s.modBench b f).power = s.power := rfl
@[simp] theorem State.modBench_porDone (s : State) (b : BenchId) (f : Bench → Bench) : (s.modBench b f).porDone = s.porDone := rfl
@[simp] theorem State.modBench_resetPin (s : State) (b : BenchId) (f : Bench → Bench) : (s.modBench b f).resetPin = s.resetPin := rfl
@[simp] theorem State.modBench_tileOn (s : State) (b : BenchId) (f : Bench → Bench) : (s.modBench b f).tileOn = s.tileOn := rfl
@[simp] theorem State.modBench_nv (s : State) (b : BenchId) (f : Bench → Bench) : (s.modBench b f).nv = s.nv := rfl
@[simp] theorem State.modBench_time (s : State) (b : BenchId) (f : Bench → Bench) : (s.modBench b f).time = s.time := rfl
@[simp] theorem State.modBench_supply (s : State) (b : BenchId) (f : Bench → Bench) : (s.modBench b f).supply = s.supply := rfl
@[simp] theorem State.modBench_start (s : State) (b : BenchId) (f : Bench → Bench) : (s.modBench b f).start = s.start := rfl
@[simp] theorem State.modBench_parts (s : State) (b : BenchId) (f : Bench → Bench) : (s.modBench b f).parts = s.parts := rfl
@[simp] theorem State.modBench_loader (s : State) (b : BenchId) (f : Bench → Bench) : (s.modBench b f).loader = s.loader := rfl
@[simp] theorem State.modBench_stackSet (s : State) (b : BenchId) (f : Bench → Bench) : (s.modBench b f).stackSet = s.stackSet := rfl
@[simp] theorem State.modBench_cells (s : State) (b : BenchId) (f : Bench → Bench) : (s.modBench b f).cells = s.cells := rfl
@[simp] theorem State.modBench_lineStain (s : State) (b : BenchId) (f : Bench → Bench) : (s.modBench b f).lineStain = s.lineStain := rfl
@[simp] theorem State.modBench_caches (s : State) (b : BenchId) (f : Bench → Bench) : (s.modBench b f).caches = s.caches := rfl
@[simp] theorem State.modBench_cx (s : State) (b : BenchId) (f : Bench → Bench) : (s.modBench b f).cx = s.cx := rfl
@[simp] theorem State.modBench_ports (s : State) (b : BenchId) (f : Bench → Bench) : (s.modBench b f).ports = s.ports := rfl
@[simp] theorem State.modBench_house (s : State) (b : BenchId) (f : Bench → Bench) : (s.modBench b f).house = s.house := rfl
@[simp] theorem State.modBench_integ (s : State) (b : BenchId) (f : Bench → Bench) : (s.modBench b f).integ = s.integ := rfl
@[simp] theorem State.modBench_pint (s : State) (b : BenchId) (f : Bench → Bench) : (s.modBench b f).pint = s.pint := rfl
@[simp] theorem State.modBench_rings (s : State) (b : BenchId) (f : Bench → Bench) : (s.modBench b f).rings = s.rings := rfl
@[simp] theorem State.modBench_failRoute (s : State) (b : BenchId) (f : Bench → Bench) : (s.modBench b f).failRoute = s.failRoute := rfl
@[simp] theorem State.modBench_irqs (s : State) (b : BenchId) (f : Bench → Bench) : (s.modBench b f).irqs = s.irqs := rfl
@[simp] theorem State.modBench_sensors (s : State) (b : BenchId) (f : Bench → Bench) : (s.modBench b f).sensors = s.sensors := rfl
@[simp] theorem State.modBench_clerkLines (s : State) (b : BenchId) (f : Bench → Bench) : (s.modBench b f).clerkLines = s.clerkLines := rfl
@[simp] theorem State.modBench_clerkFlush (s : State) (b : BenchId) (f : Bench → Bench) : (s.modBench b f).clerkFlush = s.clerkFlush := rfl
@[simp] theorem State.modBench_tap (s : State) (b : BenchId) (f : Bench → Bench) : (s.modBench b f).tap = s.tap := rfl
@[simp] theorem State.modBench_bus (s : State) (b : BenchId) (f : Bench → Bench) : (s.modBench b f).bus = s.bus := rfl
@[simp] theorem State.modBench_smbus (s : State) (b : BenchId) (f : Bench → Bench) : (s.modBench b f).smbus = s.smbus := rfl
@[simp] theorem State.modBench_mgmtOut (s : State) (b : BenchId) (f : Bench → Bench) : (s.modBench b f).mgmtOut = s.mgmtOut := rfl
@[simp] theorem State.modBench_linkOut (s : State) (b : BenchId) (f : Bench → Bench) : (s.modBench b f).linkOut = s.linkOut := rfl
@[simp] theorem State.modBench_framesOut (s : State) (b : BenchId) (f : Bench → Bench) : (s.modBench b f).framesOut = s.framesOut := rfl
@[simp] theorem State.modBench_part (s : State) (b : BenchId) (f : Bench → Bench) (q : PartId) : (s.modBench b f).part q = s.part q := rfl
@[simp] theorem State.modBench_stack (s : State) (b : BenchId) (f : Bench → Bench) (j : StackId) : (s.modBench b f).stack j = s.stack j := rfl
@[simp] theorem State.modBench_cache (s : State) (b : BenchId) (f : Bench → Bench) (u : TileId) : (s.modBench b f).cache u = s.cache u := rfl
@[simp] theorem State.modBench_port (s : State) (b : BenchId) (f : Bench → Bench) (i : PortId) : (s.modBench b f).port i = s.port i := rfl
@[simp] theorem State.modBench_integOf (s : State) (b : BenchId) (f : Bench → Bench) (q : PartId) : (s.modBench b f).integOf q = s.integOf q := rfl
@[simp] theorem State.modBench_ring (s : State) (b : BenchId) (f : Bench → Bench) (q : PartId) : (s.modBench b f).ring q = s.ring q := rfl
@[simp] theorem State.modBench_now (s : State) (b : BenchId) (f : Bench → Bench) : (s.modBench b f).now = s.now := rfl
@[simp] theorem State.modBench_clerkTime (s : State) (b : BenchId) (f : Bench → Bench) : (s.modBench b f).clerkTime = s.clerkTime := rfl
@[simp] theorem State.modBench_tileIsOn (s : State) (b : BenchId) (f : Bench → Bench) (u : Nat) : (s.modBench b f).tileIsOn u = s.tileIsOn u := rfl
@[simp] theorem State.modBench_geo (s : State) (b : BenchId) (f : Bench → Bench) : (s.modBench b f).geo = s.geo := rfl

/-! `modPart` -/

@[simp] theorem State.modPart_pending (s : State) (p : PartId) (f : Partition → Partition) : (s.modPart p f).pending = s.pending := rfl
@[simp] theorem State.modPart_freeCtr (s : State) (p : PartId) (f : Partition → Partition) : (s.modPart p f).freeCtr = s.freeCtr := rfl
@[simp] theorem State.modPart_power (s : State) (p : PartId) (f : Partition → Partition) : (s.modPart p f).power = s.power := rfl
@[simp] theorem State.modPart_porDone (s : State) (p : PartId) (f : Partition → Partition) : (s.modPart p f).porDone = s.porDone := rfl
@[simp] theorem State.modPart_resetPin (s : State) (p : PartId) (f : Partition → Partition) : (s.modPart p f).resetPin = s.resetPin := rfl
@[simp] theorem State.modPart_tileOn (s : State) (p : PartId) (f : Partition → Partition) : (s.modPart p f).tileOn = s.tileOn := rfl
@[simp] theorem State.modPart_nv (s : State) (p : PartId) (f : Partition → Partition) : (s.modPart p f).nv = s.nv := rfl
@[simp] theorem State.modPart_time (s : State) (p : PartId) (f : Partition → Partition) : (s.modPart p f).time = s.time := rfl
@[simp] theorem State.modPart_supply (s : State) (p : PartId) (f : Partition → Partition) : (s.modPart p f).supply = s.supply := rfl
@[simp] theorem State.modPart_start (s : State) (p : PartId) (f : Partition → Partition) : (s.modPart p f).start = s.start := rfl
@[simp] theorem State.modPart_benches (s : State) (p : PartId) (f : Partition → Partition) : (s.modPart p f).benches = s.benches := rfl
@[simp] theorem State.modPart_loader (s : State) (p : PartId) (f : Partition → Partition) : (s.modPart p f).loader = s.loader := rfl
@[simp] theorem State.modPart_stackSet (s : State) (p : PartId) (f : Partition → Partition) : (s.modPart p f).stackSet = s.stackSet := rfl
@[simp] theorem State.modPart_cells (s : State) (p : PartId) (f : Partition → Partition) : (s.modPart p f).cells = s.cells := rfl
@[simp] theorem State.modPart_lineStain (s : State) (p : PartId) (f : Partition → Partition) : (s.modPart p f).lineStain = s.lineStain := rfl
@[simp] theorem State.modPart_caches (s : State) (p : PartId) (f : Partition → Partition) : (s.modPart p f).caches = s.caches := rfl
@[simp] theorem State.modPart_cx (s : State) (p : PartId) (f : Partition → Partition) : (s.modPart p f).cx = s.cx := rfl
@[simp] theorem State.modPart_ports (s : State) (p : PartId) (f : Partition → Partition) : (s.modPart p f).ports = s.ports := rfl
@[simp] theorem State.modPart_house (s : State) (p : PartId) (f : Partition → Partition) : (s.modPart p f).house = s.house := rfl
@[simp] theorem State.modPart_integ (s : State) (p : PartId) (f : Partition → Partition) : (s.modPart p f).integ = s.integ := rfl
@[simp] theorem State.modPart_pint (s : State) (p : PartId) (f : Partition → Partition) : (s.modPart p f).pint = s.pint := rfl
@[simp] theorem State.modPart_rings (s : State) (p : PartId) (f : Partition → Partition) : (s.modPart p f).rings = s.rings := rfl
@[simp] theorem State.modPart_failRoute (s : State) (p : PartId) (f : Partition → Partition) : (s.modPart p f).failRoute = s.failRoute := rfl
@[simp] theorem State.modPart_irqs (s : State) (p : PartId) (f : Partition → Partition) : (s.modPart p f).irqs = s.irqs := rfl
@[simp] theorem State.modPart_sensors (s : State) (p : PartId) (f : Partition → Partition) : (s.modPart p f).sensors = s.sensors := rfl
@[simp] theorem State.modPart_clerkLines (s : State) (p : PartId) (f : Partition → Partition) : (s.modPart p f).clerkLines = s.clerkLines := rfl
@[simp] theorem State.modPart_clerkFlush (s : State) (p : PartId) (f : Partition → Partition) : (s.modPart p f).clerkFlush = s.clerkFlush := rfl
@[simp] theorem State.modPart_tap (s : State) (p : PartId) (f : Partition → Partition) : (s.modPart p f).tap = s.tap := rfl
@[simp] theorem State.modPart_bus (s : State) (p : PartId) (f : Partition → Partition) : (s.modPart p f).bus = s.bus := rfl
@[simp] theorem State.modPart_smbus (s : State) (p : PartId) (f : Partition → Partition) : (s.modPart p f).smbus = s.smbus := rfl
@[simp] theorem State.modPart_mgmtOut (s : State) (p : PartId) (f : Partition → Partition) : (s.modPart p f).mgmtOut = s.mgmtOut := rfl
@[simp] theorem State.modPart_linkOut (s : State) (p : PartId) (f : Partition → Partition) : (s.modPart p f).linkOut = s.linkOut := rfl
@[simp] theorem State.modPart_framesOut (s : State) (p : PartId) (f : Partition → Partition) : (s.modPart p f).framesOut = s.framesOut := rfl
@[simp] theorem State.modPart_bench (s : State) (p : PartId) (f : Partition → Partition) (c : BenchId) : (s.modPart p f).bench c = s.bench c := rfl
@[simp] theorem State.modPart_stack (s : State) (p : PartId) (f : Partition → Partition) (j : StackId) : (s.modPart p f).stack j = s.stack j := rfl
@[simp] theorem State.modPart_cache (s : State) (p : PartId) (f : Partition → Partition) (u : TileId) : (s.modPart p f).cache u = s.cache u := rfl
@[simp] theorem State.modPart_port (s : State) (p : PartId) (f : Partition → Partition) (i : PortId) : (s.modPart p f).port i = s.port i := rfl
@[simp] theorem State.modPart_integOf (s : State) (p : PartId) (f : Partition → Partition) (q : PartId) : (s.modPart p f).integOf q = s.integOf q := rfl
@[simp] theorem State.modPart_ring (s : State) (p : PartId) (f : Partition → Partition) (q : PartId) : (s.modPart p f).ring q = s.ring q := rfl
@[simp] theorem State.modPart_now (s : State) (p : PartId) (f : Partition → Partition) : (s.modPart p f).now = s.now := rfl
@[simp] theorem State.modPart_clerkTime (s : State) (p : PartId) (f : Partition → Partition) : (s.modPart p f).clerkTime = s.clerkTime := rfl
@[simp] theorem State.modPart_tileIsOn (s : State) (p : PartId) (f : Partition → Partition) (u : Nat) : (s.modPart p f).tileIsOn u = s.tileIsOn u := rfl
@[simp] theorem State.modPart_geo (s : State) (p : PartId) (f : Partition → Partition) : (s.modPart p f).geo = s.geo := rfl

/-! `modStack` -/

@[simp] theorem State.modStack_pending (s : State) (k : StackId) (f : Stack → Stack) : (s.modStack k f).pending = s.pending := rfl
@[simp] theorem State.modStack_freeCtr (s : State) (k : StackId) (f : Stack → Stack) : (s.modStack k f).freeCtr = s.freeCtr := rfl
@[simp] theorem State.modStack_power (s : State) (k : StackId) (f : Stack → Stack) : (s.modStack k f).power = s.power := rfl
@[simp] theorem State.modStack_porDone (s : State) (k : StackId) (f : Stack → Stack) : (s.modStack k f).porDone = s.porDone := rfl
@[simp] theorem State.modStack_resetPin (s : State) (k : StackId) (f : Stack → Stack) : (s.modStack k f).resetPin = s.resetPin := rfl
@[simp] theorem State.modStack_tileOn (s : State) (k : StackId) (f : Stack → Stack) : (s.modStack k f).tileOn = s.tileOn := rfl
@[simp] theorem State.modStack_nv (s : State) (k : StackId) (f : Stack → Stack) : (s.modStack k f).nv = s.nv := rfl
@[simp] theorem State.modStack_time (s : State) (k : StackId) (f : Stack → Stack) : (s.modStack k f).time = s.time := rfl
@[simp] theorem State.modStack_supply (s : State) (k : StackId) (f : Stack → Stack) : (s.modStack k f).supply = s.supply := rfl
@[simp] theorem State.modStack_start (s : State) (k : StackId) (f : Stack → Stack) : (s.modStack k f).start = s.start := rfl
@[simp] theorem State.modStack_benches (s : State) (k : StackId) (f : Stack → Stack) : (s.modStack k f).benches = s.benches := rfl
@[simp] theorem State.modStack_parts (s : State) (k : StackId) (f : Stack → Stack) : (s.modStack k f).parts = s.parts := rfl
@[simp] theorem State.modStack_loader (s : State) (k : StackId) (f : Stack → Stack) : (s.modStack k f).loader = s.loader := rfl
@[simp] theorem State.modStack_cells (s : State) (k : StackId) (f : Stack → Stack) : (s.modStack k f).cells = s.cells := rfl
@[simp] theorem State.modStack_lineStain (s : State) (k : StackId) (f : Stack → Stack) : (s.modStack k f).lineStain = s.lineStain := rfl
@[simp] theorem State.modStack_caches (s : State) (k : StackId) (f : Stack → Stack) : (s.modStack k f).caches = s.caches := rfl
@[simp] theorem State.modStack_cx (s : State) (k : StackId) (f : Stack → Stack) : (s.modStack k f).cx = s.cx := rfl
@[simp] theorem State.modStack_ports (s : State) (k : StackId) (f : Stack → Stack) : (s.modStack k f).ports = s.ports := rfl
@[simp] theorem State.modStack_house (s : State) (k : StackId) (f : Stack → Stack) : (s.modStack k f).house = s.house := rfl
@[simp] theorem State.modStack_integ (s : State) (k : StackId) (f : Stack → Stack) : (s.modStack k f).integ = s.integ := rfl
@[simp] theorem State.modStack_pint (s : State) (k : StackId) (f : Stack → Stack) : (s.modStack k f).pint = s.pint := rfl
@[simp] theorem State.modStack_rings (s : State) (k : StackId) (f : Stack → Stack) : (s.modStack k f).rings = s.rings := rfl
@[simp] theorem State.modStack_failRoute (s : State) (k : StackId) (f : Stack → Stack) : (s.modStack k f).failRoute = s.failRoute := rfl
@[simp] theorem State.modStack_irqs (s : State) (k : StackId) (f : Stack → Stack) : (s.modStack k f).irqs = s.irqs := rfl
@[simp] theorem State.modStack_sensors (s : State) (k : StackId) (f : Stack → Stack) : (s.modStack k f).sensors = s.sensors := rfl
@[simp] theorem State.modStack_clerkLines (s : State) (k : StackId) (f : Stack → Stack) : (s.modStack k f).clerkLines = s.clerkLines := rfl
@[simp] theorem State.modStack_clerkFlush (s : State) (k : StackId) (f : Stack → Stack) : (s.modStack k f).clerkFlush = s.clerkFlush := rfl
@[simp] theorem State.modStack_tap (s : State) (k : StackId) (f : Stack → Stack) : (s.modStack k f).tap = s.tap := rfl
@[simp] theorem State.modStack_bus (s : State) (k : StackId) (f : Stack → Stack) : (s.modStack k f).bus = s.bus := rfl
@[simp] theorem State.modStack_smbus (s : State) (k : StackId) (f : Stack → Stack) : (s.modStack k f).smbus = s.smbus := rfl
@[simp] theorem State.modStack_mgmtOut (s : State) (k : StackId) (f : Stack → Stack) : (s.modStack k f).mgmtOut = s.mgmtOut := rfl
@[simp] theorem State.modStack_linkOut (s : State) (k : StackId) (f : Stack → Stack) : (s.modStack k f).linkOut = s.linkOut := rfl
@[simp] theorem State.modStack_framesOut (s : State) (k : StackId) (f : Stack → Stack) : (s.modStack k f).framesOut = s.framesOut := rfl
@[simp] theorem State.modStack_bench (s : State) (k : StackId) (f : Stack → Stack) (c : BenchId) : (s.modStack k f).bench c = s.bench c := rfl
@[simp] theorem State.modStack_part (s : State) (k : StackId) (f : Stack → Stack) (q : PartId) : (s.modStack k f).part q = s.part q := rfl
@[simp] theorem State.modStack_cache (s : State) (k : StackId) (f : Stack → Stack) (u : TileId) : (s.modStack k f).cache u = s.cache u := rfl
@[simp] theorem State.modStack_port (s : State) (k : StackId) (f : Stack → Stack) (i : PortId) : (s.modStack k f).port i = s.port i := rfl
@[simp] theorem State.modStack_integOf (s : State) (k : StackId) (f : Stack → Stack) (q : PartId) : (s.modStack k f).integOf q = s.integOf q := rfl
@[simp] theorem State.modStack_ring (s : State) (k : StackId) (f : Stack → Stack) (q : PartId) : (s.modStack k f).ring q = s.ring q := rfl
@[simp] theorem State.modStack_now (s : State) (k : StackId) (f : Stack → Stack) : (s.modStack k f).now = s.now := rfl
@[simp] theorem State.modStack_clerkTime (s : State) (k : StackId) (f : Stack → Stack) : (s.modStack k f).clerkTime = s.clerkTime := rfl
@[simp] theorem State.modStack_tileIsOn (s : State) (k : StackId) (f : Stack → Stack) (u : Nat) : (s.modStack k f).tileIsOn u = s.tileIsOn u := rfl
@[simp] theorem State.modStack_geo (s : State) (k : StackId) (f : Stack → Stack) : (s.modStack k f).geo = s.geo := rfl

/-! `modCache` -/

@[simp] theorem State.modCache_pending (s : State) (t : TileId) (f : TileCache → TileCache) : (s.modCache t f).pending = s.pending := rfl
@[simp] theorem State.modCache_freeCtr (s : State) (t : TileId) (f : TileCache → TileCache) : (s.modCache t f).freeCtr = s.freeCtr := rfl
@[simp] theorem State.modCache_power (s : State) (t : TileId) (f : TileCache → TileCache) : (s.modCache t f).power = s.power := rfl
@[simp] theorem State.modCache_porDone (s : State) (t : TileId) (f : TileCache → TileCache) : (s.modCache t f).porDone = s.porDone := rfl
@[simp] theorem State.modCache_resetPin (s : State) (t : TileId) (f : TileCache → TileCache) : (s.modCache t f).resetPin = s.resetPin := rfl
@[simp] theorem State.modCache_tileOn (s : State) (t : TileId) (f : TileCache → TileCache) : (s.modCache t f).tileOn = s.tileOn := rfl
@[simp] theorem State.modCache_nv (s : State) (t : TileId) (f : TileCache → TileCache) : (s.modCache t f).nv = s.nv := rfl
@[simp] theorem State.modCache_time (s : State) (t : TileId) (f : TileCache → TileCache) : (s.modCache t f).time = s.time := rfl
@[simp] theorem State.modCache_supply (s : State) (t : TileId) (f : TileCache → TileCache) : (s.modCache t f).supply = s.supply := rfl
@[simp] theorem State.modCache_start (s : State) (t : TileId) (f : TileCache → TileCache) : (s.modCache t f).start = s.start := rfl
@[simp] theorem State.modCache_benches (s : State) (t : TileId) (f : TileCache → TileCache) : (s.modCache t f).benches = s.benches := rfl
@[simp] theorem State.modCache_parts (s : State) (t : TileId) (f : TileCache → TileCache) : (s.modCache t f).parts = s.parts := rfl
@[simp] theorem State.modCache_loader (s : State) (t : TileId) (f : TileCache → TileCache) : (s.modCache t f).loader = s.loader := rfl
@[simp] theorem State.modCache_stackSet (s : State) (t : TileId) (f : TileCache → TileCache) : (s.modCache t f).stackSet = s.stackSet := rfl
@[simp] theorem State.modCache_cells (s : State) (t : TileId) (f : TileCache → TileCache) : (s.modCache t f).cells = s.cells := rfl
@[simp] theorem State.modCache_lineStain (s : State) (t : TileId) (f : TileCache → TileCache) : (s.modCache t f).lineStain = s.lineStain := rfl
@[simp] theorem State.modCache_cx (s : State) (t : TileId) (f : TileCache → TileCache) : (s.modCache t f).cx = s.cx := rfl
@[simp] theorem State.modCache_ports (s : State) (t : TileId) (f : TileCache → TileCache) : (s.modCache t f).ports = s.ports := rfl
@[simp] theorem State.modCache_house (s : State) (t : TileId) (f : TileCache → TileCache) : (s.modCache t f).house = s.house := rfl
@[simp] theorem State.modCache_integ (s : State) (t : TileId) (f : TileCache → TileCache) : (s.modCache t f).integ = s.integ := rfl
@[simp] theorem State.modCache_pint (s : State) (t : TileId) (f : TileCache → TileCache) : (s.modCache t f).pint = s.pint := rfl
@[simp] theorem State.modCache_rings (s : State) (t : TileId) (f : TileCache → TileCache) : (s.modCache t f).rings = s.rings := rfl
@[simp] theorem State.modCache_failRoute (s : State) (t : TileId) (f : TileCache → TileCache) : (s.modCache t f).failRoute = s.failRoute := rfl
@[simp] theorem State.modCache_irqs (s : State) (t : TileId) (f : TileCache → TileCache) : (s.modCache t f).irqs = s.irqs := rfl
@[simp] theorem State.modCache_sensors (s : State) (t : TileId) (f : TileCache → TileCache) : (s.modCache t f).sensors = s.sensors := rfl
@[simp] theorem State.modCache_clerkLines (s : State) (t : TileId) (f : TileCache → TileCache) : (s.modCache t f).clerkLines = s.clerkLines := rfl
@[simp] theorem State.modCache_clerkFlush (s : State) (t : TileId) (f : TileCache → TileCache) : (s.modCache t f).clerkFlush = s.clerkFlush := rfl
@[simp] theorem State.modCache_tap (s : State) (t : TileId) (f : TileCache → TileCache) : (s.modCache t f).tap = s.tap := rfl
@[simp] theorem State.modCache_bus (s : State) (t : TileId) (f : TileCache → TileCache) : (s.modCache t f).bus = s.bus := rfl
@[simp] theorem State.modCache_smbus (s : State) (t : TileId) (f : TileCache → TileCache) : (s.modCache t f).smbus = s.smbus := rfl
@[simp] theorem State.modCache_mgmtOut (s : State) (t : TileId) (f : TileCache → TileCache) : (s.modCache t f).mgmtOut = s.mgmtOut := rfl
@[simp] theorem State.modCache_linkOut (s : State) (t : TileId) (f : TileCache → TileCache) : (s.modCache t f).linkOut = s.linkOut := rfl
@[simp] theorem State.modCache_framesOut (s : State) (t : TileId) (f : TileCache → TileCache) : (s.modCache t f).framesOut = s.framesOut := rfl
@[simp] theorem State.modCache_bench (s : State) (t : TileId) (f : TileCache → TileCache) (c : BenchId) : (s.modCache t f).bench c = s.bench c := rfl
@[simp] theorem State.modCache_part (s : State) (t : TileId) (f : TileCache → TileCache) (q : PartId) : (s.modCache t f).part q = s.part q := rfl
@[simp] theorem State.modCache_stack (s : State) (t : TileId) (f : TileCache → TileCache) (j : StackId) : (s.modCache t f).stack j = s.stack j := rfl
@[simp] theorem State.modCache_port (s : State) (t : TileId) (f : TileCache → TileCache) (i : PortId) : (s.modCache t f).port i = s.port i := rfl
@[simp] theorem State.modCache_integOf (s : State) (t : TileId) (f : TileCache → TileCache) (q : PartId) : (s.modCache t f).integOf q = s.integOf q := rfl
@[simp] theorem State.modCache_ring (s : State) (t : TileId) (f : TileCache → TileCache) (q : PartId) : (s.modCache t f).ring q = s.ring q := rfl
@[simp] theorem State.modCache_now (s : State) (t : TileId) (f : TileCache → TileCache) : (s.modCache t f).now = s.now := rfl
@[simp] theorem State.modCache_clerkTime (s : State) (t : TileId) (f : TileCache → TileCache) : (s.modCache t f).clerkTime = s.clerkTime := rfl
@[simp] theorem State.modCache_tileIsOn (s : State) (t : TileId) (f : TileCache → TileCache) (u : Nat) : (s.modCache t f).tileIsOn u = s.tileIsOn u := rfl
@[simp] theorem State.modCache_geo (s : State) (t : TileId) (f : TileCache → TileCache) : (s.modCache t f).geo = s.geo := rfl

/-! `modPort` -/

@[simp] theorem State.modPort_pending (s : State) (n : PortId) (f : Port → Port) : (s.modPort n f).pending = s.pending := rfl
@[simp] theorem State.modPort_freeCtr (s : State) (n : PortId) (f : Port → Port) : (s.modPort n f).freeCtr = s.freeCtr := rfl
@[simp] theorem State.modPort_power (s : State) (n : PortId) (f : Port → Port) : (s.modPort n f).power = s.power := rfl
@[simp] theorem State.modPort_porDone (s : State) (n : PortId) (f : Port → Port) : (s.modPort n f).porDone = s.porDone := rfl
@[simp] theorem State.modPort_resetPin (s : State) (n : PortId) (f : Port → Port) : (s.modPort n f).resetPin = s.resetPin := rfl
@[simp] theorem State.modPort_tileOn (s : State) (n : PortId) (f : Port → Port) : (s.modPort n f).tileOn = s.tileOn := rfl
@[simp] theorem State.modPort_nv (s : State) (n : PortId) (f : Port → Port) : (s.modPort n f).nv = s.nv := rfl
@[simp] theorem State.modPort_time (s : State) (n : PortId) (f : Port → Port) : (s.modPort n f).time = s.time := rfl
@[simp] theorem State.modPort_supply (s : State) (n : PortId) (f : Port → Port) : (s.modPort n f).supply = s.supply := rfl
@[simp] theorem State.modPort_start (s : State) (n : PortId) (f : Port → Port) : (s.modPort n f).start = s.start := rfl
@[simp] theorem State.modPort_benches (s : State) (n : PortId) (f : Port → Port) : (s.modPort n f).benches = s.benches := rfl
@[simp] theorem State.modPort_parts (s : State) (n : PortId) (f : Port → Port) : (s.modPort n f).parts = s.parts := rfl
@[simp] theorem State.modPort_loader (s : State) (n : PortId) (f : Port → Port) : (s.modPort n f).loader = s.loader := rfl
@[simp] theorem State.modPort_stackSet (s : State) (n : PortId) (f : Port → Port) : (s.modPort n f).stackSet = s.stackSet := rfl
@[simp] theorem State.modPort_cells (s : State) (n : PortId) (f : Port → Port) : (s.modPort n f).cells = s.cells := rfl
@[simp] theorem State.modPort_lineStain (s : State) (n : PortId) (f : Port → Port) : (s.modPort n f).lineStain = s.lineStain := rfl
@[simp] theorem State.modPort_caches (s : State) (n : PortId) (f : Port → Port) : (s.modPort n f).caches = s.caches := rfl
@[simp] theorem State.modPort_cx (s : State) (n : PortId) (f : Port → Port) : (s.modPort n f).cx = s.cx := rfl
@[simp] theorem State.modPort_house (s : State) (n : PortId) (f : Port → Port) : (s.modPort n f).house = s.house := rfl
@[simp] theorem State.modPort_integ (s : State) (n : PortId) (f : Port → Port) : (s.modPort n f).integ = s.integ := rfl
@[simp] theorem State.modPort_pint (s : State) (n : PortId) (f : Port → Port) : (s.modPort n f).pint = s.pint := rfl
@[simp] theorem State.modPort_rings (s : State) (n : PortId) (f : Port → Port) : (s.modPort n f).rings = s.rings := rfl
@[simp] theorem State.modPort_failRoute (s : State) (n : PortId) (f : Port → Port) : (s.modPort n f).failRoute = s.failRoute := rfl
@[simp] theorem State.modPort_irqs (s : State) (n : PortId) (f : Port → Port) : (s.modPort n f).irqs = s.irqs := rfl
@[simp] theorem State.modPort_sensors (s : State) (n : PortId) (f : Port → Port) : (s.modPort n f).sensors = s.sensors := rfl
@[simp] theorem State.modPort_clerkLines (s : State) (n : PortId) (f : Port → Port) : (s.modPort n f).clerkLines = s.clerkLines := rfl
@[simp] theorem State.modPort_clerkFlush (s : State) (n : PortId) (f : Port → Port) : (s.modPort n f).clerkFlush = s.clerkFlush := rfl
@[simp] theorem State.modPort_tap (s : State) (n : PortId) (f : Port → Port) : (s.modPort n f).tap = s.tap := rfl
@[simp] theorem State.modPort_bus (s : State) (n : PortId) (f : Port → Port) : (s.modPort n f).bus = s.bus := rfl
@[simp] theorem State.modPort_smbus (s : State) (n : PortId) (f : Port → Port) : (s.modPort n f).smbus = s.smbus := rfl
@[simp] theorem State.modPort_mgmtOut (s : State) (n : PortId) (f : Port → Port) : (s.modPort n f).mgmtOut = s.mgmtOut := rfl
@[simp] theorem State.modPort_linkOut (s : State) (n : PortId) (f : Port → Port) : (s.modPort n f).linkOut = s.linkOut := rfl
@[simp] theorem State.modPort_framesOut (s : State) (n : PortId) (f : Port → Port) : (s.modPort n f).framesOut = s.framesOut := rfl
@[simp] theorem State.modPort_bench (s : State) (n : PortId) (f : Port → Port) (c : BenchId) : (s.modPort n f).bench c = s.bench c := rfl
@[simp] theorem State.modPort_part (s : State) (n : PortId) (f : Port → Port) (q : PartId) : (s.modPort n f).part q = s.part q := rfl
@[simp] theorem State.modPort_stack (s : State) (n : PortId) (f : Port → Port) (j : StackId) : (s.modPort n f).stack j = s.stack j := rfl
@[simp] theorem State.modPort_cache (s : State) (n : PortId) (f : Port → Port) (u : TileId) : (s.modPort n f).cache u = s.cache u := rfl
@[simp] theorem State.modPort_integOf (s : State) (n : PortId) (f : Port → Port) (q : PartId) : (s.modPort n f).integOf q = s.integOf q := rfl
@[simp] theorem State.modPort_ring (s : State) (n : PortId) (f : Port → Port) (q : PartId) : (s.modPort n f).ring q = s.ring q := rfl
@[simp] theorem State.modPort_now (s : State) (n : PortId) (f : Port → Port) : (s.modPort n f).now = s.now := rfl
@[simp] theorem State.modPort_clerkTime (s : State) (n : PortId) (f : Port → Port) : (s.modPort n f).clerkTime = s.clerkTime := rfl
@[simp] theorem State.modPort_tileIsOn (s : State) (n : PortId) (f : Port → Port) (u : Nat) : (s.modPort n f).tileIsOn u = s.tileIsOn u := rfl
@[simp] theorem State.modPort_geo (s : State) (n : PortId) (f : Port → Port) : (s.modPort n f).geo = s.geo := rfl

/-! `modInteg` -/

@[simp] theorem State.modInteg_pending (s : State) (p : PartId) (f : PartInteg → PartInteg) : (s.modInteg p f).pending = s.pending := rfl
@[simp] theorem State.modInteg_freeCtr (s : State) (p : PartId) (f : PartInteg → PartInteg) : (s.modInteg p f).freeCtr = s.freeCtr := rfl
@[simp] theorem State.modInteg_power (s : State) (p : PartId) (f : PartInteg → PartInteg) : (s.modInteg p f).power = s.power := rfl
@[simp] theorem State.modInteg_porDone (s : State) (p : PartId) (f : PartInteg → PartInteg) : (s.modInteg p f).porDone = s.porDone := rfl
@[simp] theorem State.modInteg_resetPin (s : State) (p : PartId) (f : PartInteg → PartInteg) : (s.modInteg p f).resetPin = s.resetPin := rfl
@[simp] theorem State.modInteg_tileOn (s : State) (p : PartId) (f : PartInteg → PartInteg) : (s.modInteg p f).tileOn = s.tileOn := rfl
@[simp] theorem State.modInteg_nv (s : State) (p : PartId) (f : PartInteg → PartInteg) : (s.modInteg p f).nv = s.nv := rfl
@[simp] theorem State.modInteg_time (s : State) (p : PartId) (f : PartInteg → PartInteg) : (s.modInteg p f).time = s.time := rfl
@[simp] theorem State.modInteg_supply (s : State) (p : PartId) (f : PartInteg → PartInteg) : (s.modInteg p f).supply = s.supply := rfl
@[simp] theorem State.modInteg_start (s : State) (p : PartId) (f : PartInteg → PartInteg) : (s.modInteg p f).start = s.start := rfl
@[simp] theorem State.modInteg_benches (s : State) (p : PartId) (f : PartInteg → PartInteg) : (s.modInteg p f).benches = s.benches := rfl
@[simp] theorem State.modInteg_parts (s : State) (p : PartId) (f : PartInteg → PartInteg) : (s.modInteg p f).parts = s.parts := rfl
@[simp] theorem State.modInteg_loader (s : State) (p : PartId) (f : PartInteg → PartInteg) : (s.modInteg p f).loader = s.loader := rfl
@[simp] theorem State.modInteg_stackSet (s : State) (p : PartId) (f : PartInteg → PartInteg) : (s.modInteg p f).stackSet = s.stackSet := rfl
@[simp] theorem State.modInteg_cells (s : State) (p : PartId) (f : PartInteg → PartInteg) : (s.modInteg p f).cells = s.cells := rfl
@[simp] theorem State.modInteg_lineStain (s : State) (p : PartId) (f : PartInteg → PartInteg) : (s.modInteg p f).lineStain = s.lineStain := rfl
@[simp] theorem State.modInteg_caches (s : State) (p : PartId) (f : PartInteg → PartInteg) : (s.modInteg p f).caches = s.caches := rfl
@[simp] theorem State.modInteg_cx (s : State) (p : PartId) (f : PartInteg → PartInteg) : (s.modInteg p f).cx = s.cx := rfl
@[simp] theorem State.modInteg_ports (s : State) (p : PartId) (f : PartInteg → PartInteg) : (s.modInteg p f).ports = s.ports := rfl
@[simp] theorem State.modInteg_house (s : State) (p : PartId) (f : PartInteg → PartInteg) : (s.modInteg p f).house = s.house := rfl
@[simp] theorem State.modInteg_integ (s : State) (p : PartId) (f : PartInteg → PartInteg) : (s.modInteg p f).integ = s.integ := rfl
@[simp] theorem State.modInteg_rings (s : State) (p : PartId) (f : PartInteg → PartInteg) : (s.modInteg p f).rings = s.rings := rfl
@[simp] theorem State.modInteg_failRoute (s : State) (p : PartId) (f : PartInteg → PartInteg) : (s.modInteg p f).failRoute = s.failRoute := rfl
@[simp] theorem State.modInteg_irqs (s : State) (p : PartId) (f : PartInteg → PartInteg) : (s.modInteg p f).irqs = s.irqs := rfl
@[simp] theorem State.modInteg_sensors (s : State) (p : PartId) (f : PartInteg → PartInteg) : (s.modInteg p f).sensors = s.sensors := rfl
@[simp] theorem State.modInteg_clerkLines (s : State) (p : PartId) (f : PartInteg → PartInteg) : (s.modInteg p f).clerkLines = s.clerkLines := rfl
@[simp] theorem State.modInteg_clerkFlush (s : State) (p : PartId) (f : PartInteg → PartInteg) : (s.modInteg p f).clerkFlush = s.clerkFlush := rfl
@[simp] theorem State.modInteg_tap (s : State) (p : PartId) (f : PartInteg → PartInteg) : (s.modInteg p f).tap = s.tap := rfl
@[simp] theorem State.modInteg_bus (s : State) (p : PartId) (f : PartInteg → PartInteg) : (s.modInteg p f).bus = s.bus := rfl
@[simp] theorem State.modInteg_smbus (s : State) (p : PartId) (f : PartInteg → PartInteg) : (s.modInteg p f).smbus = s.smbus := rfl
@[simp] theorem State.modInteg_mgmtOut (s : State) (p : PartId) (f : PartInteg → PartInteg) : (s.modInteg p f).mgmtOut = s.mgmtOut := rfl
@[simp] theorem State.modInteg_linkOut (s : State) (p : PartId) (f : PartInteg → PartInteg) : (s.modInteg p f).linkOut = s.linkOut := rfl
@[simp] theorem State.modInteg_framesOut (s : State) (p : PartId) (f : PartInteg → PartInteg) : (s.modInteg p f).framesOut = s.framesOut := rfl
@[simp] theorem State.modInteg_bench (s : State) (p : PartId) (f : PartInteg → PartInteg) (c : BenchId) : (s.modInteg p f).bench c = s.bench c := rfl
@[simp] theorem State.modInteg_part (s : State) (p : PartId) (f : PartInteg → PartInteg) (q : PartId) : (s.modInteg p f).part q = s.part q := rfl
@[simp] theorem State.modInteg_stack (s : State) (p : PartId) (f : PartInteg → PartInteg) (j : StackId) : (s.modInteg p f).stack j = s.stack j := rfl
@[simp] theorem State.modInteg_cache (s : State) (p : PartId) (f : PartInteg → PartInteg) (u : TileId) : (s.modInteg p f).cache u = s.cache u := rfl
@[simp] theorem State.modInteg_port (s : State) (p : PartId) (f : PartInteg → PartInteg) (i : PortId) : (s.modInteg p f).port i = s.port i := rfl
@[simp] theorem State.modInteg_ring (s : State) (p : PartId) (f : PartInteg → PartInteg) (q : PartId) : (s.modInteg p f).ring q = s.ring q := rfl
@[simp] theorem State.modInteg_now (s : State) (p : PartId) (f : PartInteg → PartInteg) : (s.modInteg p f).now = s.now := rfl
@[simp] theorem State.modInteg_clerkTime (s : State) (p : PartId) (f : PartInteg → PartInteg) : (s.modInteg p f).clerkTime = s.clerkTime := rfl
@[simp] theorem State.modInteg_tileIsOn (s : State) (p : PartId) (f : PartInteg → PartInteg) (u : Nat) : (s.modInteg p f).tileIsOn u = s.tileIsOn u := rfl
@[simp] theorem State.modInteg_geo (s : State) (p : PartId) (f : PartInteg → PartInteg) : (s.modInteg p f).geo = s.geo := rfl

/-! `modRing` -/

@[simp] theorem State.modRing_pending (s : State) (p : PartId) (f : EventRing → EventRing) : (s.modRing p f).pending = s.pending := rfl
@[simp] theorem State.modRing_freeCtr (s : State) (p : PartId) (f : EventRing → EventRing) : (s.modRing p f).freeCtr = s.freeCtr := rfl
@[simp] theorem State.modRing_power (s : State) (p : PartId) (f : EventRing → EventRing) : (s.modRing p f).power = s.power := rfl
@[simp] theorem State.modRing_porDone (s : State) (p : PartId) (f : EventRing → EventRing) : (s.modRing p f).porDone = s.porDone := rfl
@[simp] theorem State.modRing_resetPin (s : State) (p : PartId) (f : EventRing → EventRing) : (s.modRing p f).resetPin = s.resetPin := rfl
@[simp] theorem State.modRing_tileOn (s : State) (p : PartId) (f : EventRing → EventRing) : (s.modRing p f).tileOn = s.tileOn := rfl
@[simp] theorem State.modRing_nv (s : State) (p : PartId) (f : EventRing → EventRing) : (s.modRing p f).nv = s.nv := rfl
@[simp] theorem State.modRing_time (s : State) (p : PartId) (f : EventRing → EventRing) : (s.modRing p f).time = s.time := rfl
@[simp] theorem State.modRing_supply (s : State) (p : PartId) (f : EventRing → EventRing) : (s.modRing p f).supply = s.supply := rfl
@[simp] theorem State.modRing_start (s : State) (p : PartId) (f : EventRing → EventRing) : (s.modRing p f).start = s.start := rfl
@[simp] theorem State.modRing_benches (s : State) (p : PartId) (f : EventRing → EventRing) : (s.modRing p f).benches = s.benches := rfl
@[simp] theorem State.modRing_parts (s : State) (p : PartId) (f : EventRing → EventRing) : (s.modRing p f).parts = s.parts := rfl
@[simp] theorem State.modRing_loader (s : State) (p : PartId) (f : EventRing → EventRing) : (s.modRing p f).loader = s.loader := rfl
@[simp] theorem State.modRing_stackSet (s : State) (p : PartId) (f : EventRing → EventRing) : (s.modRing p f).stackSet = s.stackSet := rfl
@[simp] theorem State.modRing_cells (s : State) (p : PartId) (f : EventRing → EventRing) : (s.modRing p f).cells = s.cells := rfl
@[simp] theorem State.modRing_lineStain (s : State) (p : PartId) (f : EventRing → EventRing) : (s.modRing p f).lineStain = s.lineStain := rfl
@[simp] theorem State.modRing_caches (s : State) (p : PartId) (f : EventRing → EventRing) : (s.modRing p f).caches = s.caches := rfl
@[simp] theorem State.modRing_cx (s : State) (p : PartId) (f : EventRing → EventRing) : (s.modRing p f).cx = s.cx := rfl
@[simp] theorem State.modRing_ports (s : State) (p : PartId) (f : EventRing → EventRing) : (s.modRing p f).ports = s.ports := rfl
@[simp] theorem State.modRing_house (s : State) (p : PartId) (f : EventRing → EventRing) : (s.modRing p f).house = s.house := rfl
@[simp] theorem State.modRing_integ (s : State) (p : PartId) (f : EventRing → EventRing) : (s.modRing p f).integ = s.integ := rfl
@[simp] theorem State.modRing_pint (s : State) (p : PartId) (f : EventRing → EventRing) : (s.modRing p f).pint = s.pint := rfl
@[simp] theorem State.modRing_failRoute (s : State) (p : PartId) (f : EventRing → EventRing) : (s.modRing p f).failRoute = s.failRoute := rfl
@[simp] theorem State.modRing_irqs (s : State) (p : PartId) (f : EventRing → EventRing) : (s.modRing p f).irqs = s.irqs := rfl
@[simp] theorem State.modRing_sensors (s : State) (p : PartId) (f : EventRing → EventRing) : (s.modRing p f).sensors = s.sensors := rfl
@[simp] theorem State.modRing_clerkLines (s : State) (p : PartId) (f : EventRing → EventRing) : (s.modRing p f).clerkLines = s.clerkLines := rfl
@[simp] theorem State.modRing_clerkFlush (s : State) (p : PartId) (f : EventRing → EventRing) : (s.modRing p f).clerkFlush = s.clerkFlush := rfl
@[simp] theorem State.modRing_tap (s : State) (p : PartId) (f : EventRing → EventRing) : (s.modRing p f).tap = s.tap := rfl
@[simp] theorem State.modRing_bus (s : State) (p : PartId) (f : EventRing → EventRing) : (s.modRing p f).bus = s.bus := rfl
@[simp] theorem State.modRing_smbus (s : State) (p : PartId) (f : EventRing → EventRing) : (s.modRing p f).smbus = s.smbus := rfl
@[simp] theorem State.modRing_mgmtOut (s : State) (p : PartId) (f : EventRing → EventRing) : (s.modRing p f).mgmtOut = s.mgmtOut := rfl
@[simp] theorem State.modRing_linkOut (s : State) (p : PartId) (f : EventRing → EventRing) : (s.modRing p f).linkOut = s.linkOut := rfl
@[simp] theorem State.modRing_framesOut (s : State) (p : PartId) (f : EventRing → EventRing) : (s.modRing p f).framesOut = s.framesOut := rfl
@[simp] theorem State.modRing_bench (s : State) (p : PartId) (f : EventRing → EventRing) (c : BenchId) : (s.modRing p f).bench c = s.bench c := rfl
@[simp] theorem State.modRing_part (s : State) (p : PartId) (f : EventRing → EventRing) (q : PartId) : (s.modRing p f).part q = s.part q := rfl
@[simp] theorem State.modRing_stack (s : State) (p : PartId) (f : EventRing → EventRing) (j : StackId) : (s.modRing p f).stack j = s.stack j := rfl
@[simp] theorem State.modRing_cache (s : State) (p : PartId) (f : EventRing → EventRing) (u : TileId) : (s.modRing p f).cache u = s.cache u := rfl
@[simp] theorem State.modRing_port (s : State) (p : PartId) (f : EventRing → EventRing) (i : PortId) : (s.modRing p f).port i = s.port i := rfl
@[simp] theorem State.modRing_integOf (s : State) (p : PartId) (f : EventRing → EventRing) (q : PartId) : (s.modRing p f).integOf q = s.integOf q := rfl
@[simp] theorem State.modRing_now (s : State) (p : PartId) (f : EventRing → EventRing) : (s.modRing p f).now = s.now := rfl
@[simp] theorem State.modRing_clerkTime (s : State) (p : PartId) (f : EventRing → EventRing) : (s.modRing p f).clerkTime = s.clerkTime := rfl
@[simp] theorem State.modRing_tileIsOn (s : State) (p : PartId) (f : EventRing → EventRing) (u : Nat) : (s.modRing p f).tileIsOn u = s.tileIsOn u := rfl
@[simp] theorem State.modRing_geo (s : State) (p : PartId) (f : EventRing → EventRing) : (s.modRing p f).geo = s.geo := rfl

/-! `setMem` -/

@[simp] theorem State.setMem_pending (s : State) (m : MemSys) : (s.setMem m).pending = s.pending := rfl
@[simp] theorem State.setMem_power (s : State) (m : MemSys) : (s.setMem m).power = s.power := rfl
@[simp] theorem State.setMem_porDone (s : State) (m : MemSys) : (s.setMem m).porDone = s.porDone := rfl
@[simp] theorem State.setMem_resetPin (s : State) (m : MemSys) : (s.setMem m).resetPin = s.resetPin := rfl
@[simp] theorem State.setMem_tileOn (s : State) (m : MemSys) : (s.setMem m).tileOn = s.tileOn := rfl
@[simp] theorem State.setMem_nv (s : State) (m : MemSys) : (s.setMem m).nv = s.nv := rfl
@[simp] theorem State.setMem_time (s : State) (m : MemSys) : (s.setMem m).time = s.time := rfl
@[simp] theorem State.setMem_supply (s : State) (m : MemSys) : (s.setMem m).supply = s.supply := rfl
@[simp] theorem State.setMem_start (s : State) (m : MemSys) : (s.setMem m).start = s.start := rfl
@[simp] theorem State.setMem_benches (s : State) (m : MemSys) : (s.setMem m).benches = s.benches := rfl
@[simp] theorem State.setMem_parts (s : State) (m : MemSys) : (s.setMem m).parts = s.parts := rfl
@[simp] theorem State.setMem_loader (s : State) (m : MemSys) : (s.setMem m).loader = s.loader := rfl
@[simp] theorem State.setMem_cx (s : State) (m : MemSys) : (s.setMem m).cx = s.cx := rfl
@[simp] theorem State.setMem_ports (s : State) (m : MemSys) : (s.setMem m).ports = s.ports := rfl
@[simp] theorem State.setMem_house (s : State) (m : MemSys) : (s.setMem m).house = s.house := rfl
@[simp] theorem State.setMem_integ (s : State) (m : MemSys) : (s.setMem m).integ = s.integ := rfl
@[simp] theorem State.setMem_pint (s : State) (m : MemSys) : (s.setMem m).pint = s.pint := rfl
@[simp] theorem State.setMem_rings (s : State) (m : MemSys) : (s.setMem m).rings = s.rings := rfl
@[simp] theorem State.setMem_failRoute (s : State) (m : MemSys) : (s.setMem m).failRoute = s.failRoute := rfl
@[simp] theorem State.setMem_irqs (s : State) (m : MemSys) : (s.setMem m).irqs = s.irqs := rfl
@[simp] theorem State.setMem_sensors (s : State) (m : MemSys) : (s.setMem m).sensors = s.sensors := rfl
@[simp] theorem State.setMem_clerkLines (s : State) (m : MemSys) : (s.setMem m).clerkLines = s.clerkLines := rfl
@[simp] theorem State.setMem_clerkFlush (s : State) (m : MemSys) : (s.setMem m).clerkFlush = s.clerkFlush := rfl
@[simp] theorem State.setMem_tap (s : State) (m : MemSys) : (s.setMem m).tap = s.tap := rfl
@[simp] theorem State.setMem_bus (s : State) (m : MemSys) : (s.setMem m).bus = s.bus := rfl
@[simp] theorem State.setMem_smbus (s : State) (m : MemSys) : (s.setMem m).smbus = s.smbus := rfl
@[simp] theorem State.setMem_mgmtOut (s : State) (m : MemSys) : (s.setMem m).mgmtOut = s.mgmtOut := rfl
@[simp] theorem State.setMem_linkOut (s : State) (m : MemSys) : (s.setMem m).linkOut = s.linkOut := rfl
@[simp] theorem State.setMem_framesOut (s : State) (m : MemSys) : (s.setMem m).framesOut = s.framesOut := rfl
@[simp] theorem State.setMem_bench (s : State) (m : MemSys) (c : BenchId) : (s.setMem m).bench c = s.bench c := rfl
@[simp] theorem State.setMem_part (s : State) (m : MemSys) (q : PartId) : (s.setMem m).part q = s.part q := rfl
@[simp] theorem State.setMem_port (s : State) (m : MemSys) (i : PortId) : (s.setMem m).port i = s.port i := rfl
@[simp] theorem State.setMem_integOf (s : State) (m : MemSys) (q : PartId) : (s.setMem m).integOf q = s.integOf q := rfl
@[simp] theorem State.setMem_ring (s : State) (m : MemSys) (q : PartId) : (s.setMem m).ring q = s.ring q := rfl
@[simp] theorem State.setMem_now (s : State) (m : MemSys) : (s.setMem m).now = s.now := rfl
@[simp] theorem State.setMem_clerkTime (s : State) (m : MemSys) : (s.setMem m).clerkTime = s.clerkTime := rfl
@[simp] theorem State.setMem_tileIsOn (s : State) (m : MemSys) (u : Nat) : (s.setMem m).tileIsOn u = s.tileIsOn u := rfl
@[simp] theorem State.setMem_geo (s : State) (m : MemSys) : (s.setMem m).geo = s.geo := rfl

/-! `tick` -/

@[simp] theorem State.tick_pending (s : State) : (s.tick).pending = s.pending := rfl
@[simp] theorem State.tick_power (s : State) : (s.tick).power = s.power := rfl
@[simp] theorem State.tick_porDone (s : State) : (s.tick).porDone = s.porDone := rfl
@[simp] theorem State.tick_resetPin (s : State) : (s.tick).resetPin = s.resetPin := rfl
@[simp] theorem State.tick_tileOn (s : State) : (s.tick).tileOn = s.tileOn := rfl
@[simp] theorem State.tick_nv (s : State) : (s.tick).nv = s.nv := rfl
@[simp] theorem State.tick_time (s : State) : (s.tick).time = s.time := rfl
@[simp] theorem State.tick_supply (s : State) : (s.tick).supply = s.supply := rfl
@[simp] theorem State.tick_start (s : State) : (s.tick).start = s.start := rfl
@[simp] theorem State.tick_benches (s : State) : (s.tick).benches = s.benches := rfl
@[simp] theorem State.tick_parts (s : State) : (s.tick).parts = s.parts := rfl
@[simp] theorem State.tick_loader (s : State) : (s.tick).loader = s.loader := rfl
@[simp] theorem State.tick_stackSet (s : State) : (s.tick).stackSet = s.stackSet := rfl
@[simp] theorem State.tick_cells (s : State) : (s.tick).cells = s.cells := rfl
@[simp] theorem State.tick_lineStain (s : State) : (s.tick).lineStain = s.lineStain := rfl
@[simp] theorem State.tick_caches (s : State) : (s.tick).caches = s.caches := rfl
@[simp] theorem State.tick_cx (s : State) : (s.tick).cx = s.cx := rfl
@[simp] theorem State.tick_ports (s : State) : (s.tick).ports = s.ports := rfl
@[simp] theorem State.tick_house (s : State) : (s.tick).house = s.house := rfl
@[simp] theorem State.tick_integ (s : State) : (s.tick).integ = s.integ := rfl
@[simp] theorem State.tick_pint (s : State) : (s.tick).pint = s.pint := rfl
@[simp] theorem State.tick_rings (s : State) : (s.tick).rings = s.rings := rfl
@[simp] theorem State.tick_failRoute (s : State) : (s.tick).failRoute = s.failRoute := rfl
@[simp] theorem State.tick_irqs (s : State) : (s.tick).irqs = s.irqs := rfl
@[simp] theorem State.tick_sensors (s : State) : (s.tick).sensors = s.sensors := rfl
@[simp] theorem State.tick_clerkLines (s : State) : (s.tick).clerkLines = s.clerkLines := rfl
@[simp] theorem State.tick_clerkFlush (s : State) : (s.tick).clerkFlush = s.clerkFlush := rfl
@[simp] theorem State.tick_tap (s : State) : (s.tick).tap = s.tap := rfl
@[simp] theorem State.tick_bus (s : State) : (s.tick).bus = s.bus := rfl
@[simp] theorem State.tick_smbus (s : State) : (s.tick).smbus = s.smbus := rfl
@[simp] theorem State.tick_mgmtOut (s : State) : (s.tick).mgmtOut = s.mgmtOut := rfl
@[simp] theorem State.tick_linkOut (s : State) : (s.tick).linkOut = s.linkOut := rfl
@[simp] theorem State.tick_framesOut (s : State) : (s.tick).framesOut = s.framesOut := rfl
@[simp] theorem State.tick_bench (s : State) (c : BenchId) : (s.tick).bench c = s.bench c := rfl
@[simp] theorem State.tick_part (s : State) (q : PartId) : (s.tick).part q = s.part q := rfl
@[simp] theorem State.tick_stack (s : State) (j : StackId) : (s.tick).stack j = s.stack j := rfl
@[simp] theorem State.tick_cache (s : State) (u : TileId) : (s.tick).cache u = s.cache u := rfl
@[simp] theorem State.tick_port (s : State) (i : PortId) : (s.tick).port i = s.port i := rfl
@[simp] theorem State.tick_integOf (s : State) (q : PartId) : (s.tick).integOf q = s.integOf q := rfl
@[simp] theorem State.tick_ring (s : State) (q : PartId) : (s.tick).ring q = s.ring q := rfl
@[simp] theorem State.tick_now (s : State) : (s.tick).now = s.now := rfl
@[simp] theorem State.tick_clerkTime (s : State) : (s.tick).clerkTime = s.clerkTime := rfl
@[simp] theorem State.tick_tileIsOn (s : State) (u : Nat) : (s.tick).tileIsOn u = s.tileIsOn u := rfl
@[simp] theorem State.tick_geo (s : State) : (s.tick).geo = s.geo := rfl

/-! Reading the unit that was written -/

theorem getD_modify_self {α : Type} (xs : List α) (i : Nat) (f : α → α) (d : α) (h : i < xs.length) :
    (xs.modify i f).getD i d = f (xs.getD i d) := by
  simp [List.getD_eq_getElem?_getD, h]

theorem getD_modify_ne {α : Type} (xs : List α) (i j : Nat) (f : α → α) (d : α) (h : i ≠ j) :
    (xs.modify i f).getD j d = xs.getD j d := by
  simp [List.getD_eq_getElem?_getD, h]

theorem getD_set_self {α : Type} (xs : List α) (i : Nat) (x d : α) (h : i < xs.length) : (xs.set i x).getD i d = x := by
  simp [List.getD_eq_getElem?_getD, h]

theorem getD_set_ne {α : Type} (xs : List α) (i j : Nat) (x d : α) (h : i ≠ j) : (xs.set i x).getD j d = xs.getD j d := by
  simp [List.getD_eq_getElem?_getD, h]

theorem BenchId.idx_inj {b c : BenchId} (h : b.idx = c.idx) : b = c := by
  obtain ⟨⟨t, ht⟩, ⟨p, hp⟩⟩ := b
  obtain ⟨⟨u, hu⟩, ⟨q, hq⟩⟩ := c
  simp only [BenchId.idx] at h
  have e1 : t = u := by omega
  have e2 : p = q := by omega
  subst e1; subst e2; rfl

theorem BenchId.idx_lt (b : BenchId) : b.idx < 136 := by
  obtain ⟨⟨t, ht⟩, ⟨p, hp⟩⟩ := b
  simp only [BenchId.idx]
  omega

theorem State.modBench_self (s : State) (b : BenchId) (f : Bench → Bench) (h : b.idx < s.benches.length) :
    (s.modBench b f).bench b = f (s.bench b) := getD_modify_self _ _ _ _ h

theorem State.modBench_other (s : State) (b c : BenchId) (f : Bench → Bench) (h : b ≠ c) : (s.modBench b f).bench c = s.bench c :=
  getD_modify_ne _ _ _ _ _ fun e => h (BenchId.idx_inj e)

theorem State.setBench_self (s : State) (b : BenchId) (x : Bench) (h : b.idx < s.benches.length) : (s.setBench b x).bench b = x :=
  getD_set_self _ _ _ _ h

theorem State.setBench_other (s : State) (b c : BenchId) (x : Bench) (h : b ≠ c) : (s.setBench b x).bench c = s.bench c :=
  getD_set_ne _ _ _ _ _ fun e => h (BenchId.idx_inj e)

/-- A bench that serves a partition has its place among the benches. -/
theorem State.idx_lt_of_partOf {s : State} {b : BenchId} {p : PartId} (h : (s.bench b).partOf = some p) : b.idx < s.benches.length := by
  apply Decidable.byContradiction
  intro hn
  have e : s.bench b = {} := by simp [State.bench, List.getD_eq_getElem?_getD, List.getElem?_eq_none (Nat.le_of_not_lt hn)]
  simp [e, Bench.partOf] at h

theorem State.modPart_self (s : State) (p : PartId) (f : Partition → Partition) (h : p.val < s.parts.length) :
    (s.modPart p f).part p = f (s.part p) := getD_modify_self _ _ _ _ h

theorem State.modPart_other (s : State) (p q : PartId) (f : Partition → Partition) (h : p ≠ q) : (s.modPart p f).part q = s.part q :=
  getD_modify_ne _ _ _ _ _ fun e => h (Fin.ext e)

/-- A loaded partition has its place among the partitions. -/
theorem State.lt_of_loaded {s : State} {p : PartId} (h : (s.part p).loaded = true) : p.val < s.parts.length := by
  apply Decidable.byContradiction
  intro hn
  have e : s.part p = {} := by simp [State.part, List.getD_eq_getElem?_getD, List.getElem?_eq_none (Nat.le_of_not_lt hn)]
  simp [e] at h

theorem State.modStack_self (s : State) (k : StackId) (f : Stack → Stack) (h : k.val < s.stackSet.length) :
    (s.modStack k f).stack k = f (s.stack k) := getD_modify_self _ _ _ _ h

theorem State.modStack_other (s : State) (k j : StackId) (f : Stack → Stack) (h : k ≠ j) : (s.modStack k f).stack j = s.stack j :=
  getD_modify_ne _ _ _ _ _ fun e => h (Fin.ext e)

theorem State.modCache_self (s : State) (t : TileId) (f : TileCache → TileCache) (h : t.val < s.caches.length) :
    (s.modCache t f).cache t = f (s.cache t) := getD_modify_self _ _ _ _ h

theorem State.modPort_self (s : State) (n : PortId) (f : Port → Port) (h : n.val < s.ports.length) :
    (s.modPort n f).port n = f (s.port n) := getD_modify_self _ _ _ _ h

theorem State.modPort_other (s : State) (n m : PortId) (f : Port → Port) (h : n ≠ m) : (s.modPort n f).port m = s.port m :=
  getD_modify_ne _ _ _ _ _ fun e => h (Fin.ext e)

theorem State.modInteg_self (s : State) (p : PartId) (f : PartInteg → PartInteg) (h : p.val < s.pint.length) :
    (s.modInteg p f).integOf p = f (s.integOf p) := getD_modify_self _ _ _ _ h

theorem State.modRing_self (s : State) (p : PartId) (f : EventRing → EventRing) (h : p.val < s.rings.length) :
    (s.modRing p f).ring p = f (s.ring p) := getD_modify_self _ _ _ _ h

/-! The memory system as a part of the state -/

@[simp] theorem State.setMem_mem (s : State) : s.setMem s.mem = s := rfl

theorem State.mem_setMem (s : State) (m : MemSys) (h : m.tileOn = s.tileOn) (hr : m.regs = s.mem.regs) : (s.setMem m).mem = m := by
  cases m; simp only [State.mem, State.setMem] at *; subst h hr; rfl

@[simp] theorem State.modBench_mem (s : State) (b : BenchId) (f : Bench → Bench) : (s.modBench b f).mem = s.mem := rfl
@[simp] theorem State.setBench_mem (s : State) (b : BenchId) (x : Bench) : (s.setBench b x).mem = s.mem := rfl

/-- A change of a partition that leaves its regulator records in force leaves the memory system. -/
theorem State.modPart_mem (s : State) (p : PartId) (f : Partition → Partition)
    (h : ∀ x, (f x).loaded = x.loaded ∧ (f x).regs = x.regs) : (s.modPart p f).mem = s.mem := by
  simp only [State.mem, State.modPart, MemSys.mk.injEq, true_and]
  apply List.ext_getElem?
  intro j
  by_cases e : p.val = j
  · subst e; cases hx : s.parts[p.val]? <;> simp [hx, h]
  · simp [e]

/-! Lengths -/

@[simp] theorem State.modBench_len (s : State) (b : BenchId) (f : Bench → Bench) : (s.modBench b f).benches.length = s.benches.length := by
  simp [State.modBench]
@[simp] theorem State.setBench_len (s : State) (b : BenchId) (x : Bench) : (s.setBench b x).benches.length = s.benches.length := by
  simp [State.setBench]
@[simp] theorem State.modPart_len (s : State) (p : PartId) (f : Partition → Partition) : (s.modPart p f).parts.length = s.parts.length := by
  simp [State.modPart]
@[simp] theorem State.modStack_len (s : State) (k : StackId) (f : Stack → Stack) : (s.modStack k f).stackSet.length = s.stackSet.length := by
  simp [State.modStack]
@[simp] theorem State.modCache_len (s : State) (t : TileId) (f : TileCache → TileCache) : (s.modCache t f).caches.length = s.caches.length := by
  simp [State.modCache]
@[simp] theorem State.modPort_len (s : State) (n : PortId) (f : Port → Port) : (s.modPort n f).ports.length = s.ports.length := by
  simp [State.modPort]
@[simp] theorem State.modInteg_len (s : State) (p : PartId) (f : PartInteg → PartInteg) : (s.modInteg p f).pint.length = s.pint.length := by
  simp [State.modInteg]
@[simp] theorem State.modRing_len (s : State) (p : PartId) (f : EventRing → EventRing) : (s.modRing p f).rings.length = s.rings.length := by
  simp [State.modRing]

/-! A unit changed twice, and one set to a changed copy of itself -/

theorem set_getD_eq_modify {α : Type} (xs : List α) (i : Nat) (f : α → α) (d : α) : xs.set i (f (xs.getD i d)) = xs.modify i f := by
  apply List.ext_getElem?
  intro j
  by_cases h : i = j
  · subst h
    by_cases hl : i < xs.length
    · simp [hl, List.getD_eq_getElem?_getD]
    · simp [hl]
  · simp [h]

theorem State.setBench_bench (s : State) (b : BenchId) (f : Bench → Bench) : s.setBench b (f (s.bench b)) = s.modBench b f := by
  simp only [State.setBench, State.bench, State.modBench, set_getD_eq_modify]

@[simp] theorem State.modBench_modBench (s : State) (b : BenchId) (f g : Bench → Bench) :
    (s.modBench b f).modBench b g = s.modBench b fun x => g (f x) := by
  simp only [State.modBench, List.modify_modify_eq]; rfl

theorem State.setBench_modBench (s : State) (b : BenchId) (x : Bench) (f : Bench → Bench) (h : b.idx < s.benches.length) :
    (s.setBench b x).modBench b f = s.setBench b (f x) := by
  simp only [State.setBench, State.modBench]
  congr 1
  apply List.ext_getElem?
  intro j
  by_cases e : b.idx = j
  · subst e; simp [h]
  · simp [e]

@[simp] theorem State.modBench_setBench (s : State) (b : BenchId) (x : Bench) (f : Bench → Bench) :
    (s.modBench b f).setBench b x = s.setBench b x := by
  simp only [State.setBench, State.modBench]
  congr 1
  apply List.ext_getElem?
  intro j
  by_cases e : b.idx = j
  · subst e; simp [List.getElem?_set]
  · simp [e]

/-- A change that changes nothing. -/
theorem State.modPart_id (s : State) (p : PartId) (f : Partition → Partition) (h : f (s.part p) = s.part p) : s.modPart p f = s := by
  have e : s.parts.modify p.val f = s.parts := by
    apply List.ext_getElem?
    intro j
    by_cases e : p.val = j
    · subst e
      cases hx : s.parts[p.val]? with
      | none => simp [hx]
      | some x =>
        have hs : s.part p = x := by simp [State.part, List.getD_eq_getElem?_getD, hx]
        rw [hs] at h
        simp [hx, h]
    · simp [e]
  simp only [State.modPart, e]

end Sys2Proof.Machine
end

