-- ==== Sys2Proof/Laws/Execute.lean ====
section
/-! SUPPORT. What carrying out one bench order can do: its two outcomes on the unit, and how a command reaches them. -/

namespace Sys2Proof.Machine

open Sys2Proof Sys2Proof.Safety

/-- An order of which no checker found a difference leaves none in its slot. -/
theorem InFlight.done_checks (i : InFlight) (now : Nat) (w : Work) (h : ∀ c ∈ w.checks, c.fails = false) : (i.done now w).checks = [] := by
  simp only [InFlight.done, List.filter_eq_nil_iff]
  exact fun c hc => by simp [h c hc]

@[simp] theorem InFlight.done_dec (i : InFlight) (now : Nat) (w : Work) : (i.done now w).dec = i.dec := rfl

/-- What an order found that no checker disagrees with changes nothing more. -/
theorem State.upsetAfter_none (s : State) (b : BenchId) (i : InFlight) (h : i.checks = []) : s.upsetAfter b i = s := by
  simp only [State.upsetAfter, h]

/-- An order whose effect finds no fault and no difference: its work is written back and the order stands as done. -/
theorem State.runOrder_ok (s : State) (b : BenchId) (p : PartId) (u : Upset) (i : InFlight) (w : Work)
    (hw : Order.effect i.dec.body ((s.upsetSram b p u).orderWork b p u i) = w) (h : Undisturbed w) :
    s.runOrder b p u i = (((s.upsetSram b p u).putWork b p w).after b p i.dec.body, some (i.done (s.upsetSram b p u).now w)) := by
  obtain ⟨hf, hc⟩ := h
  simp only [State.runOrder, hw, hf]
  rw [State.upsetAfter_none _ _ _ (InFlight.done_checks _ _ _ hc), InFlight.done_dec]

/-- An order whose effect finds a fault: its work is written back as far as it stands and the fault is taken. -/
theorem State.runOrder_fault (s : State) (b : BenchId) (p : PartId) (u : Upset) (i : InFlight) (w : Work) (f : OFault)
    (hw : Order.effect i.dec.body ((s.upsetSram b p u).orderWork b p u i) = w) (hf : w.fault = some f) :
    s.runOrder b p u i = ((((s.upsetSram b p u).putWork b p (((s.upsetSram b p u).orderWork b p u i).undo w)).orderFault b f
      i.dec).upsetAfter b (i.done (s.upsetSram b p u).now w), none) := by
  simp only [State.runOrder, hw, hf, InFlight.done_dec]

/-- A command of a unit order is that order on its bench. -/
theorem exec_unitOrder {c : Instr} {b : BenchId} {o : Order} {u : Upset} (s : State) (h : unitOrder c = some (b, o, u)) :
    exec c s = .next (s.runUnit b o u) := by
  cases c <;> simp only [unitOrder, reduceCtorEq, Option.some.injEq, Prod.mk.injEq] at h <;> obtain ⟨rfl, rfl, rfl⟩ := h <;> rfl

/-- COPY mode 2 is none of them. -/
theorem unitOrder_ne_copyFromSeam {c : Instr} {b : BenchId} {o : Order} {u : Upset} (h : unitOrder c = some (b, o, u)) (q : CopyOp) :
    o ≠ .copyFromSeam q := by
  cases c <;> simp only [unitOrder, reduceCtorEq, Option.some.injEq, Prod.mk.injEq] at h <;> obtain ⟨rfl, rfl, rfl⟩ := h <;> simp

/-- A bench with nothing in flight and no hold runs the order by itself. -/
theorem State.runUnit_alone {s : State} {b : BenchId} {p : PartId} {o : Order} (u : Upset) (h : Alone s b p o) :
    s.runUnit b o u = s.runDirect b p o u := by
  obtain ⟨hl, hp, hi, hh, -, -⟩ := h
  simp [State.runUnit, hp, hl, hi, hh]

/-- A legal order by itself, up to its out-of-bounds counts. -/
theorem State.runDirect_ok {s : State} {b : BenchId} {p : PartId} {o : Order} {u : Upset} (w : Work) (ho : ∀ q, o ≠ .copyFromSeam q)
    (hc : Order.check (s.checkCtx b p) o = none) (hg : Order.runsOn o = .gather → (s.bench b).streams = [])
    (hw : Order.effect o (((s.modBench b fun x => { x with
        draw := x.draw + BitVec.ofNat 64 (s.drawsOf b p (s.bench b).masks o), nextSeq := x.nextSeq + 1 }).upsetSram b p
          u).orderWork b p u (directSlot (s.bench b) o)) = w)
    (h : Undisturbed w) :
    s.runDirect b p o u =
      (let r := (((((s.modBench b fun x => { x with
          draw := x.draw + BitVec.ofNat 64 (s.drawsOf b p (s.bench b).masks o), nextSeq := x.nextSeq + 1 }).upsetSram b p
            u).putWork b p w).after b p o).modBench b fun x => { x with
          bqFlags := fOr x.bqFlags w.flags, decMasks := match o with | .loadwMask _ => x.masks | _ => x.decMasks }).oobAdds b p w.oob
       if r.2 then r.1.benchFault b 0x24 (Order.opcode o) false 0 else r.1) := by
  unfold State.runDirect
  simp only [hc]
  have e := State.runOrder_ok (s.modBench b fun x => { x with
        draw := x.draw + BitVec.ofNat 64 (s.drawsOf b p (s.bench b).masks o), nextSeq := x.nextSeq + 1 }) b p u
        (directSlot (s.bench b) o) w hw h
  have hs : (decide (Order.runsOn o = .gather) && !(s.bench b).streams.isEmpty) = false := by
    by_cases q : Order.runsOn o = .gather
    · simp [hg q]
    · simp [q]
  cases o with
  | copyFromSeam q => exact absurd rfl (ho q)
  | _ =>
    simp only [directSlot] at e
    simp only [hs, Bool.false_or, Bool.false_eq_true, if_false, e]
    rfl

/-- An order without out-of-bounds events adds no count. -/
@[simp] theorem State.oobAdds_nil (s : State) (b : BenchId) (p : PartId) : s.oobAdds b p [] = (s, false) := rfl

/-- Work that touched neither memory nor the seams leaves the state but for its bench. -/
theorem State.putWork_bench (s : State) (b : BenchId) (p : PartId) (w : Work) (hm : w.m = s.mem) (hp : w.pt = s.part p) :
    s.putWork b p w = s.setBench b w.x := by
  simp only [State.putWork, hm, hp]
  rw [show (s.setBench b w.x).setMem s.mem = s.setBench b w.x from rfl]
  exact State.modPart_id _ _ _ rfl

end Sys2Proof.Machine
end

