-- ==== Sys2Proof/Laws/Tickets.lean ====
section
/-! SUPPORT. What a ticket leaves in the state: the counting house's store, the messages sent and the ports' queues,
and nothing else. -/

namespace Sys2Proof.Machine

open Sys2Proof

/-- A port without its queue and the stamps of its credit timers. -/
def Port.unqueued (x : Port) : Port := { x with txq := [], creditSince := [] }

/-- `t` is `s` but for messages sent: frames in the ports' queues, or datagrams. -/
def Sends (s t : State) : Prop :=
  ∃ ps out, t = { s with ports := ps, mgmtOut := out } ∧ ps.map Port.unqueued = s.ports.map Port.unqueued

theorem Sends.refl (s : State) : Sends s s := ⟨s.ports, s.mgmtOut, rfl, rfl⟩

theorem Sends.trans {s t u : State} (h : Sends s t) (k : Sends t u) : Sends s u := by
  obtain ⟨ps, o, rfl, hp⟩ := h
  obtain ⟨qs, o', rfl, hq⟩ := k
  exact ⟨qs, o', rfl, hq.trans hp⟩

theorem Sends.foldl {α : Type} {f : State → α → State} (h : ∀ s a, Sends s (f s a)) (as : List α) (s : State) :
    Sends s (as.foldl f s) := by
  induction as generalizing s with
  | nil => exact .refl s
  | cons a as ih => exact (h s a).trans (ih (f s a))

theorem map_unqueued_modify (f : Port → Port) (h : ∀ x, (f x).unqueued = x.unqueued) (ps : List Port) (n : Nat) :
    (ps.modify n f).map Port.unqueued = ps.map Port.unqueued := by
  induction ps generalizing n with
  | nil => cases n <;> rfl
  | cons x xs ih => cases n with
    | zero => simp [h]
    | succ n => simp [ih]

theorem State.enqueue_sends (s : State) (n : Nat) (f : Frame) (via) : Sends s (s.enqueue n f via) :=
  ⟨_, s.mgmtOut, rfl, by apply map_unqueued_modify; intro x; rfl⟩

theorem State.sendMsg_sends (s : State) (d : BitVec 128) (b : List Byte) : Sends s (s.sendMsg d b) := by
  simp only [State.sendMsg]
  split
  · split
    · exact Sends.foldl (fun s f => s.enqueue_sends _ f none) _ _
    · exact .refl s
  · exact ⟨s.ports, _, rfl, rfl⟩

/-- `t` is `s` but for the ticket store and messages sent. -/
def Tickets (s t : State) : Prop :=
  ∃ tk nx lost told sent, Sends
    { s with house := { s.house with tickets := tk, nextSeq := nx, lost := lost, lostUntold := told, sent := sent } } t

theorem State.sendTickets_tickets (s : State) : Tickets s s.sendTickets := by
  simp only [State.sendTickets]
  split
  · exact ⟨_, _, _, _, _, .refl s⟩
  · rename_i mgr _
    obtain ⟨ps, out, h, hp⟩ := Sends.foldl (fun s (t : Ticket) => s.sendMsg_sends mgr (ticketMsg s t))
      (s.house.tickets.filter fun t => decide (s.house.sent ≤ t.seq) && decide (t.seq < s.house.low + 64)) s
    rw [h]
    exact ⟨_, s.house.nextSeq, s.house.lost, s.house.lostUntold, _, ps, out, rfl, hp⟩

theorem State.storeTicket_tickets (s : State) (t : Ticket) : Tickets s (s.storeTicket t) := by
  simp only [State.storeTicket]
  split
  · exact ⟨_, _, _, _, s.house.sent, .refl _⟩
  · obtain ⟨tk, nx, lost, told, sent, ps, out, h, hp⟩ := State.sendTickets_tickets
      { s with house := { s.house with tickets := s.house.tickets ++ [{ t with seq := s.house.nextSeq }], nextSeq := s.house.nextSeq + 1 } }
    rw [h]
    exact ⟨tk, nx, lost, told, sent, ps, out, rfl, hp⟩

variable (s : State) (cls index event : Nat) (part : Option PartId) (detail : List (Nat × Detail)) (operands : Option (List Byte))
  (heat : Option Int)

/-- Everything that a ticket can change. -/
theorem State.raise_tickets : Tickets s (s.raise cls index event part detail operands heat) := s.storeTicket_tickets _

theorem State.raise_eq : ∃ tk nx lost told sent ps out, s.raise cls index event part detail operands heat =
    { s with ports := ps, mgmtOut := out
             house := { s.house with tickets := tk, nextSeq := nx, lost := lost, lostUntold := told, sent := sent } } := by
  obtain ⟨tk, nx, lost, told, sent, ps, out, h, _⟩ := s.raise_tickets cls index event part detail operands heat
  exact ⟨tk, nx, lost, told, sent, ps, out, h⟩

@[simp] theorem State.raise_pending : (s.raise cls index event part detail operands heat).pending = s.pending := by
  obtain ⟨_, _, _, _, _, _, _, h⟩ := s.raise_eq cls index event part detail operands heat; rw [h]
@[simp] theorem State.raise_freeCtr : (s.raise cls index event part detail operands heat).freeCtr = s.freeCtr := by
  obtain ⟨_, _, _, _, _, _, _, h⟩ := s.raise_eq cls index event part detail operands heat; rw [h]
@[simp] theorem State.raise_power : (s.raise cls index event part detail operands heat).power = s.power := by
  obtain ⟨_, _, _, _, _, _, _, h⟩ := s.raise_eq cls index event part detail operands heat; rw [h]
@[simp] theorem State.raise_porDone : (s.raise cls index event part detail operands heat).porDone = s.porDone := by
  obtain ⟨_, _, _, _, _, _, _, h⟩ := s.raise_eq cls index event part detail operands heat; rw [h]
@[simp] theorem State.raise_resetPin : (s.raise cls index event part detail operands heat).resetPin = s.resetPin := by
  obtain ⟨_, _, _, _, _, _, _, h⟩ := s.raise_eq cls index event part detail operands heat; rw [h]
@[simp] theorem State.raise_tileOn : (s.raise cls index event part detail operands heat).tileOn = s.tileOn := by
  obtain ⟨_, _, _, _, _, _, _, h⟩ := s.raise_eq cls index event part detail operands heat; rw [h]
@[simp] theorem State.raise_nv : (s.raise cls index event part detail operands heat).nv = s.nv := by
  obtain ⟨_, _, _, _, _, _, _, h⟩ := s.raise_eq cls index event part detail operands heat; rw [h]
@[simp] theorem State.raise_time : (s.raise cls index event part detail operands heat).time = s.time := by
  obtain ⟨_, _, _, _, _, _, _, h⟩ := s.raise_eq cls index event part detail operands heat; rw [h]
@[simp] theorem State.raise_supply : (s.raise cls index event part detail operands heat).supply = s.supply := by
  obtain ⟨_, _, _, _, _, _, _, h⟩ := s.raise_eq cls index event part detail operands heat; rw [h]
@[simp] theorem State.raise_start : (s.raise cls index event part detail operands heat).start = s.start := by
  obtain ⟨_, _, _, _, _, _, _, h⟩ := s.raise_eq cls index event part detail operands heat; rw [h]
@[simp] theorem State.raise_benches : (s.raise cls index event part detail operands heat).benches = s.benches := by
  obtain ⟨_, _, _, _, _, _, _, h⟩ := s.raise_eq cls index event part detail operands heat; rw [h]
@[simp] theorem State.raise_parts : (s.raise cls index event part detail operands heat).parts = s.parts := by
  obtain ⟨_, _, _, _, _, _, _, h⟩ := s.raise_eq cls index event part detail operands heat; rw [h]
@[simp] theorem State.raise_loader : (s.raise cls index event part detail operands heat).loader = s.loader := by
  obtain ⟨_, _, _, _, _, _, _, h⟩ := s.raise_eq cls index event part detail operands heat; rw [h]
@[simp] theorem State.raise_stackSet : (s.raise cls index event part detail operands heat).stackSet = s.stackSet := by
  obtain ⟨_, _, _, _, _, _, _, h⟩ := s.raise_eq cls index event part detail operands heat; rw [h]
@[simp] theorem State.raise_cells : (s.raise cls index event part detail operands heat).cells = s.cells := by
  obtain ⟨_, _, _, _, _, _, _, h⟩ := s.raise_eq cls index event part detail operands heat; rw [h]
@[simp] theorem State.raise_lineStain : (s.raise cls index event part detail operands heat).lineStain = s.lineStain := by
  obtain ⟨_, _, _, _, _, _, _, h⟩ := s.raise_eq cls index event part detail operands heat; rw [h]
@[simp] theorem State.raise_caches : (s.raise cls index event part detail operands heat).caches = s.caches := by
  obtain ⟨_, _, _, _, _, _, _, h⟩ := s.raise_eq cls index event part detail operands heat; rw [h]
@[simp] theorem State.raise_cx : (s.raise cls index event part detail operands heat).cx = s.cx := by
  obtain ⟨_, _, _, _, _, _, _, h⟩ := s.raise_eq cls index event part detail operands heat; rw [h]
@[simp] theorem State.raise_integ : (s.raise cls index event part detail operands heat).integ = s.integ := by
  obtain ⟨_, _, _, _, _, _, _, h⟩ := s.raise_eq cls index event part detail operands heat; rw [h]
@[simp] theorem State.raise_pint : (s.raise cls index event part detail operands heat).pint = s.pint := by
  obtain ⟨_, _, _, _, _, _, _, h⟩ := s.raise_eq cls index event part detail operands heat; rw [h]
@[simp] theorem State.raise_rings : (s.raise cls index event part detail operands heat).rings = s.rings := by
  obtain ⟨_, _, _, _, _, _, _, h⟩ := s.raise_eq cls index event part detail operands heat; rw [h]
@[simp] theorem State.raise_failRoute : (s.raise cls index event part detail operands heat).failRoute = s.failRoute := by
  obtain ⟨_, _, _, _, _, _, _, h⟩ := s.raise_eq cls index event part detail operands heat; rw [h]
@[simp] theorem State.raise_irqs : (s.raise cls index event part detail operands heat).irqs = s.irqs := by
  obtain ⟨_, _, _, _, _, _, _, h⟩ := s.raise_eq cls index event part detail operands heat; rw [h]
@[simp] theorem State.raise_sensors : (s.raise cls index event part detail operands heat).sensors = s.sensors := by
  obtain ⟨_, _, _, _, _, _, _, h⟩ := s.raise_eq cls index event part detail operands heat; rw [h]
@[simp] theorem State.raise_clerkLines : (s.raise cls index event part detail operands heat).clerkLines = s.clerkLines := by
  obtain ⟨_, _, _, _, _, _, _, h⟩ := s.raise_eq cls index event part detail operands heat; rw [h]
@[simp] theorem State.raise_clerkFlush : (s.raise cls index event part detail operands heat).clerkFlush = s.clerkFlush := by
  obtain ⟨_, _, _, _, _, _, _, h⟩ := s.raise_eq cls index event part detail operands heat; rw [h]
@[simp] theorem State.raise_tap : (s.raise cls index event part detail operands heat).tap = s.tap := by
  obtain ⟨_, _, _, _, _, _, _, h⟩ := s.raise_eq cls index event part detail operands heat; rw [h]
@[simp] theorem State.raise_bus : (s.raise cls index event part detail operands heat).bus = s.bus := by
  obtain ⟨_, _, _, _, _, _, _, h⟩ := s.raise_eq cls index event part detail operands heat; rw [h]
@[simp] theorem State.raise_smbus : (s.raise cls index event part detail operands heat).smbus = s.smbus := by
  obtain ⟨_, _, _, _, _, _, _, h⟩ := s.raise_eq cls index event part detail operands heat; rw [h]
@[simp] theorem State.raise_linkOut : (s.raise cls index event part detail operands heat).linkOut = s.linkOut := by
  obtain ⟨_, _, _, _, _, _, _, h⟩ := s.raise_eq cls index event part detail operands heat; rw [h]
@[simp] theorem State.raise_framesOut : (s.raise cls index event part detail operands heat).framesOut = s.framesOut := by
  obtain ⟨_, _, _, _, _, _, _, h⟩ := s.raise_eq cls index event part detail operands heat; rw [h]
@[simp] theorem State.raise_house_mac : (s.raise cls index event part detail operands heat).house.mac = s.house.mac := by
  obtain ⟨_, _, _, _, _, _, _, h⟩ := s.raise_eq cls index event part detail operands heat; rw [h]
@[simp] theorem State.raise_house_iid : (s.raise cls index event part detail operands heat).house.iid = s.house.iid := by
  obtain ⟨_, _, _, _, _, _, _, h⟩ := s.raise_eq cls index event part detail operands heat; rw [h]
@[simp] theorem State.raise_house_netPrefix : (s.raise cls index event part detail operands heat).house.netPrefix = s.house.netPrefix := by
  obtain ⟨_, _, _, _, _, _, _, h⟩ := s.raise_eq cls index event part detail operands heat; rw [h]
@[simp] theorem State.raise_house_link : (s.raise cls index event part detail operands heat).house.link = s.house.link := by
  obtain ⟨_, _, _, _, _, _, _, h⟩ := s.raise_eq cls index event part detail operands heat; rw [h]
@[simp] theorem State.raise_house_slot : (s.raise cls index event part detail operands heat).house.slot = s.house.slot := by
  obtain ⟨_, _, _, _, _, _, _, h⟩ := s.raise_eq cls index event part detail operands heat; rw [h]
@[simp] theorem State.raise_house_mgr : (s.raise cls index event part detail operands heat).house.mgr = s.house.mgr := by
  obtain ⟨_, _, _, _, _, _, _, h⟩ := s.raise_eq cls index event part detail operands heat; rw [h]
@[simp] theorem State.raise_house_retireStatus : (s.raise cls index event part detail operands heat).house.retireStatus = s.house.retireStatus := by
  obtain ⟨_, _, _, _, _, _, _, h⟩ := s.raise_eq cls index event part detail operands heat; rw [h]
@[simp] theorem State.raise_house_active : (s.raise cls index event part detail operands heat).house.active = s.house.active := by
  obtain ⟨_, _, _, _, _, _, _, h⟩ := s.raise_eq cls index event part detail operands heat; rw [h]
@[simp] theorem State.raise_house_failed : (s.raise cls index event part detail operands heat).house.failed = s.house.failed := by
  obtain ⟨_, _, _, _, _, _, _, h⟩ := s.raise_eq cls index event part detail operands heat; rw [h]
@[simp] theorem State.raise_house_spares : (s.raise cls index event part detail operands heat).house.spares = s.house.spares := by
  obtain ⟨_, _, _, _, _, _, _, h⟩ := s.raise_eq cls index event part detail operands heat; rw [h]
@[simp] theorem State.raise_house_replacedBy : (s.raise cls index event part detail operands heat).house.replacedBy = s.house.replacedBy := by
  obtain ⟨_, _, _, _, _, _, _, h⟩ := s.raise_eq cls index event part detail operands heat; rw [h]
@[simp] theorem State.raise_house_wdog : (s.raise cls index event part detail operands heat).house.wdog = s.house.wdog := by
  obtain ⟨_, _, _, _, _, _, _, h⟩ := s.raise_eq cls index event part detail operands heat; rw [h]
@[simp] theorem State.raise_house_entry : (s.raise cls index event part detail operands heat).house.entry = s.house.entry := by
  obtain ⟨_, _, _, _, _, _, _, h⟩ := s.raise_eq cls index event part detail operands heat; rw [h]
@[simp] theorem State.raise_house_beats : (s.raise cls index event part detail operands heat).house.beats = s.house.beats := by
  obtain ⟨_, _, _, _, _, _, _, h⟩ := s.raise_eq cls index event part detail operands heat; rw [h]
@[simp] theorem State.raise_house_coreStarts : (s.raise cls index event part detail operands heat).house.coreStarts = s.house.coreStarts := by
  obtain ⟨_, _, _, _, _, _, _, h⟩ := s.raise_eq cls index event part detail operands heat; rw [h]
@[simp] theorem State.raise_house_noReply : (s.raise cls index event part detail operands heat).house.noReply = s.house.noReply := by
  obtain ⟨_, _, _, _, _, _, _, h⟩ := s.raise_eq cls index event part detail operands heat; rw [h]
@[simp] theorem State.raise_house_commands : (s.raise cls index event part detail operands heat).house.commands = s.house.commands := by
  obtain ⟨_, _, _, _, _, _, _, h⟩ := s.raise_eq cls index event part detail operands heat; rw [h]
@[simp] theorem State.raise_house_helloAt : (s.raise cls index event part detail operands heat).house.helloAt = s.house.helloAt := by
  obtain ⟨_, _, _, _, _, _, _, h⟩ := s.raise_eq cls index event part detail operands heat; rw [h]
@[simp] theorem State.raise_house_peerOut : (s.raise cls index event part detail operands heat).house.peerOut = s.house.peerOut := by
  obtain ⟨_, _, _, _, _, _, _, h⟩ := s.raise_eq cls index event part detail operands heat; rw [h]
@[simp] theorem State.raise_house_bootReqs : (s.raise cls index event part detail operands heat).house.bootReqs = s.house.bootReqs := by
  obtain ⟨_, _, _, _, _, _, _, h⟩ := s.raise_eq cls index event part detail operands heat; rw [h]
@[simp] theorem State.raise_house_bootNext : (s.raise cls index event part detail operands heat).house.bootNext = s.house.bootNext := by
  obtain ⟨_, _, _, _, _, _, _, h⟩ := s.raise_eq cls index event part detail operands heat; rw [h]
@[simp] theorem State.raise_house_bootTotal : (s.raise cls index event part detail operands heat).house.bootTotal = s.house.bootTotal := by
  obtain ⟨_, _, _, _, _, _, _, h⟩ := s.raise_eq cls index event part detail operands heat; rw [h]
@[simp] theorem State.raise_house_reserve : (s.raise cls index event part detail operands heat).house.reserve = s.house.reserve := by
  obtain ⟨_, _, _, _, _, _, _, h⟩ := s.raise_eq cls index event part detail operands heat; rw [h]
@[simp] theorem State.raise_bench (b : BenchId) : (s.raise cls index event part detail operands heat).bench b = s.bench b := by
  simp [State.bench]
@[simp] theorem State.raise_part (p : PartId) : (s.raise cls index event part detail operands heat).part p = s.part p := by
  simp [State.part]
@[simp] theorem State.raise_stack (k : StackId) : (s.raise cls index event part detail operands heat).stack k = s.stack k := by
  simp [State.stack]
@[simp] theorem State.raise_cache (t : TileId) : (s.raise cls index event part detail operands heat).cache t = s.cache t := by
  simp [State.cache]
@[simp] theorem State.raise_now : (s.raise cls index event part detail operands heat).now = s.now := by
  simp [State.now]
@[simp] theorem State.raise_mem : (s.raise cls index event part detail operands heat).mem = s.mem := by
  simp [State.mem]

theorem State.raise_ports :
    (s.raise cls index event part detail operands heat).ports.map Port.unqueued = s.ports.map Port.unqueued := by
  obtain ⟨_, _, _, _, _, _, _, h, hp⟩ := s.raise_tickets cls index event part detail operands heat
  rw [h]; exact hp

@[simp] theorem State.raise_ports_length :
    (s.raise cls index event part detail operands heat).ports.length = s.ports.length := by
  simpa using congrArg List.length (s.raise_ports cls index event part detail operands heat)

/-- A port keeps everything but its queue and its credit timers. -/
theorem State.raise_port (n : PortId) :
    ((s.raise cls index event part detail operands heat).port n).unqueued = (s.port n).unqueued := by
  have h := congrArg (fun l => l.getD n.val (Port.unqueued {})) (s.raise_ports cls index event part detail operands heat)
  simpa [State.port, List.getD_eq_getElem?_getD, Option.getD_map] using h

end Sys2Proof.Machine
end

