-- ==== Sys2Proof/WellFormed.lean ====
section
/-! DEFINITION. Which commands are well formed: every field within the width that the spec's layout gives
it, every unit number one that exists. A command outside this cannot be spelled on the hardware. -/

namespace Sys2Proof

/-- A field of `w` bits. -/
def fits (w n : Nat) : Bool := n < 2 ^ w

/-- A signed field of `w` bits. -/
def fitsS (w : Nat) (i : Int) : Bool := -((2 : Int) ^ (w - 1)) ≤ i && i < (2 : Int) ^ (w - 1)

def MoveOp.wf (o : MoveOp) : Bool :=
  fits 16 o.desc && fits 14 o.row && fits 32 o.offset && fits 24 o.count && fits 7 o.rowq

def CopyOp.wf (o : CopyOp) : Bool :=
  fits 2 o.seamEnd && fits 4 o.sfmt && fits 4 o.dfmt && fits 14 o.srcRow && fits 14 o.dstRow && fits 15 o.rows

def LoadwOp.wf (o : LoadwOp) : Bool := fits 2 o.quad && fits 4 o.fmt && fits 14 o.row

def MaskOp.wf (o : MaskOp) : Bool := fits 3 o.m && fits 8 o.tail

def PressOp.wf (o : PressOp) : Bool :=
  fits 2 o.quad && fits 4 o.afmt && fits 4 o.ofmt && fits 3 o.mask && fits 2 o.pin && fits 16 o.n &&
  fits 14 o.arow && fits 14 o.orow && fits 14 o.prow && fits 18 o.till

def CompactOp.wf (o : CompactOp) : Bool :=
  fits 2 o.pack && fits 2 o.sid && fits 4 o.afmt && fits 16 o.desc && fits 14 o.listRow && fits 14 o.auxRow &&
  fits 14 o.outRow

def MergeOp.wf (o : MergeOp) : Bool :=
  fits 6 o.nrm1 && fits 4 o.ofmt && fits 14 o.srcRow && fits 14 o.runBase && fits 14 o.outRow && fits 16 o.desc &&
  fits 24 o.row0

def SortOp.wf (o : SortOp) : Bool :=
  fits 2 o.kb && fits 23 o.n && fits 16 o.src && fits 16 o.dst && fits 14 o.scratchRow && fits 14 o.histRow

def ScanOp.wf (o : ScanOp) : Bool :=
  fits 2 o.typ && fits 22 o.n && fits 14 o.srcRow && fits 14 o.dstRow && fits 14 o.totalRow

def VecOp.wf (o : VecOp) : Bool :=
  fits 6 o.op && fits 4 o.ifmt && fits 4 o.ofmt && fits 21 o.n && fits 14 o.aRow && fits 14 o.bRow && fits 14 o.cRow &&
  fits 14 o.dRow

def FusedOp.wf (o : FusedOp) : Bool :=
  fits 16 o.nlen && fits 8 o.rows && fits 14 o.xRow && fits 14 o.dyRow && fits 14 o.pRow && fits 14 o.dRow

def SizeOp.wf (o : SizeOp) : Bool := fits 4 o.ifmt && fits 21 o.n && fits 14 o.srcRow && fits 14 o.outRow

def QuantOp.wf (o : QuantOp) : Bool :=
  fits 4 o.ofmt && fits 21 o.n && fits 14 o.srcRow && fits 14 o.tRow && fits 14 o.outRow && fits 14 o.scaleRow

def StatOp.wf (o : StatOp) : Bool := fits 3 o.slot && fits 16 o.lo && fits 16 o.hi && fits 14 o.outRow

def UpdateOp.wf (o : UpdateOp) : Bool :=
  fits 3 o.slot && fits 20 o.n && fits 16 o.desc && fits 14 o.stateRow && fits 14 o.gRow && fits 14 o.pRow

def DigestOp.wf (o : DigestOp) : Bool := fits 24 o.bytes && fits 16 o.desc && fits 14 o.srcRow && fits 14 o.outRow

def SignalOp.wf (o : SignalOp) : Bool := fits 6 o.ctr && fits 7 o.bench

def WaitOp.wf (o : WaitOp) : Bool := fits 6 o.ctr

def MsgOp.wf (o : MsgOp) : Bool := fits 14 o.row && fits 15 o.rows && fits 12 o.tag

def ReduceOp.wf (o : ReduceOp) : Bool :=
  fits 4 o.tree && fits 2 o.mode && fits 21 o.n && fits 14 o.srcRow && fits 14 o.dstRow && fits 16 o.rdesc

def ExchangeOp.wf (o : ExchangeOp) : Bool :=
  fits 14 o.dispRow && fits 14 o.srcRow && fits 14 o.dstRow && fits 14 o.peerRow && fits 12 o.peers && fits 8 o.tokq &&
  fits 12 o.tag

def FoldOp.wf (o : FoldOp) : Bool := fits 16 o.src && fits 16 o.dst && fits 12 o.tag

def LoopOp.wf (o : LoopOp) : Bool := fits 8 o.body && fits 24 o.count && fitsS 16 o.rs && fitsS 32 o.es

def EventOp.wf (o : EventOp) : Bool := fits 16 o.code

/-- A frame as the wire carries it (12 R338): field widths, and a payload of PLEN 16-byte units. -/
def Frame.wf (f : Frame) : Bool :=
  fits 8 f.typ && fits 2 f.vc && fits 3 f.part && f.plen ≤ 16 && fits 4 f.stain && fits 18 f.dst && fits 6 f.dHi &&
  fits 18 f.src && fits 6 f.sHi && fits 8 f.c && fits 8 f.d && fits 16 f.ef && f.payload.length = 16 * f.plen

def Via.wf : Via → Bool
  | .port _ lseq => fits 16 lseq
  | .home => true

def ControlBlock.wf (c : ControlBlock) : Bool :=
  fits 16 c.ack && fits 16 c.replayFrom && fits 2 c.creditA.1 && fits 16 c.creditA.2.2.2 && fits 2 c.creditB.1 &&
  fits 16 c.creditB.2.2.2

def IdentBlock.wf (i : IdentBlock) : Bool :=
  fits 3 i.port && fits 3 i.role && fits 16 i.hwType && fits 18 i.coord && fits 7 i.dimX && fits 7 i.dimY &&
  fits 7 i.dimZ && fits 8 i.dir

def MsgSrc.wf (m : MsgSrc) : Bool := fits 32 m.reqId

/-- An access size of RV64: 1, 2, 4 or 8 bytes (15 R420). -/
def sizeOk (n : Nat) : Bool := n = 1 || n = 2 || n = 4 || n = 8

def LineOp.wf : LineOp → Bool
  | .read => true
  | .write d m _ => d.length = 64 && m.length = 64
  | .atomic a => fits 8 a.atop && fits 4 a.width

/-- The command can be spelled: every field fits its width. -/
def Instr.wf : Instr → Bool
  | .fetch _ o _ => o.wf
  | .store _ o _ => o.wf
  | .copyShelf _ o _ => o.wf
  | .copyToSeam _ o _ => o.wf
  | .copyFromSeam _ o _ => o.wf
  | .copyConvert _ o _ => o.wf
  | .loadw _ o _ => o.wf
  | .loadwMask _ o _ => o.wf
  | .press _ o _ => o.wf
  | .pressCompacted _ o _ => o.wf
  | .compactCount _ o _ => o.wf
  | .compactPlan _ o _ => o.wf
  | .compactStream _ o _ => o.wf
  | .compactCompress _ o _ => o.wf
  | .merge _ o _ => o.wf
  | .sort _ o _ => o.wf
  | .scan _ o _ => o.wf
  | .vec _ o _ => o.wf
  | .vecSoftmaxForward _ o _ => o.wf
  | .vecSoftmaxBackward _ o _ => o.wf
  | .vecNormForward _ o _ => o.wf
  | .vecNormBackward _ o _ => o.wf
  | .size _ o _ => o.wf
  | .quant _ o _ => o.wf
  | .stat _ o _ => o.wf
  | .update _ o _ => o.wf
  | .digest _ o _ => o.wf
  | .signal _ o => o.wf
  | .wait _ o => o.wf
  | .fence _ _ => true
  | .send _ o => o.wf
  | .recv _ o => o.wf
  | .reduce _ o => o.wf
  | .exchangeDispatch _ o => o.wf
  | .exchangeReturn _ o => o.wf
  | .fold _ o => o.wf
  | .loop _ o => o.wf
  | .jump _ disp => fitsS 32 disp
  | .event _ o => o.wf
  | .halt _ code => fits 16 code
  | .benchHalted _ => true
  | .orderLineFetch _ line => fits 48 line
  | .orderDecode _ _ => true
  | .orderIssue _ => true
  | .orderComplete _ _ => true
  | .signalDeliver _ src => src < 136
  | .descriptorFill _ desc _ => fits 16 desc
  | .translationWalk _ walk => walk < 4
  | .seamRowArrive _ seam => seam < 512
  | .eventRingInterrupt _ => true
  | .bqStart _ => true
  | .bqStop _ => true
  | .bqClrTokens _ => true
  | .bqSeedWrite _ _ => true
  | .invalAll _ => true
  | .invalVa _ va => fits 48 va
  | .plLoad => true
  | .plUnload _ => true
  | .plUnloadSnapshot _ => true
  | .plRelease _ => true
  | .loadValidateDone => true
  | .loadDrainDone => true
  | .loadDrainTimeout => true
  | .loadMemoryWaitExpiry => true
  | .rinseComplete _ => true
  | .stCtlWrite _ _ => true
  | .zeroGo _ => true
  | .zeroFillDone c => fits 40 c.upto
  | .tcAmoGo _ _ _ _ => true
  | .chRetireBench a c => fits 8 a && fits 8 c
  | .chRetireChannel a c => fits 8 a && fits 8 c
  | .chRetirePort a c => fits 8 a && fits 8 c
  | .chRetireLane a c => fits 8 a && fits 8 c
  | .chRetireClerk a c => fits 8 a && fits 8 c
  | .chBeat _ => true
  | .clerkHeartbeatTimeout _ => true
  | .clerkCacheUe _ => true
  | .clerkAccess _ pa op => fits 56 pa && (match op with | .load k => sizeOk k | .store k _ => sizeOk k | .flush | .inval | .evict | .fence => true)
  | .clerkAmo _ pa _ width _ => fits 56 pa && (width = 4 || width = 8)
  | .startCtlStage n => fits 4 n
  | .startCtlDone => true
  | .ledgerClear => true
  | .lcNonce _ => true
  | .lcField _ => true
  | .lcReturn _ => true
  | .lcVoid _ => true
  | .flRead count => fits 16 count
  | .flProgram count => fits 16 count
  | .flErase count => fits 16 count
  | .flCommit count => fits 16 count
  | .flashCommandDone _ => true
  | .railSetWrite _ _ => true
  | .portCtlDisable _ _ => true
  | .recalNow _ => true
  | .erTailWrite _ _ => true
  | .biTestGo _ _ => true
  | .selfTestDone _ _ => true
  | .controlSpaceMisuse addr width _ => fits 48 addr && sizeOk width
  | .controlSpaceUnassigned addr _ => fits 48 addr
  | .registerWrite addr _ => fits 48 addr
  | .seamStallExpiry _ seam => seam < 512
  | .tokenWaitExpiry _ _ => true
  | .memoryRequestExpiry _ _ => true
  | .crossingCreditExpiry _ _ => true
  | .mgmtCommandExpiry _ => true
  | .bootStageExpiry => true
  | .startCompletionExpiry => true
  | .stepRateWindow _ _ => true
  | .boostLimit _ => true
  | .boostPermit _ => true
  | .refLoss => true
  | .refReturn => true
  | .powerOnReset mv => fits 17 mv
  | .modReset _ _ => true
  | .resetRelease _ _ => true
  | .supplyCap mv => fits 17 mv
  | .supplyCapDeepen mv => fits 17 mv
  | .dipEnd mv => fits 17 mv
  | .holdEnter mv => fits 17 mv
  | .holdExit mv => fits 17 mv
  | .supplyCapLift mv => fits 17 mv
  | .supplyLossStop => true
  | .overvoltageStop => true
  | .railSettle _ => true
  | .stackHeatEnter _ temp => fitsS 16 temp
  | .stackHeatLeave _ temp => fitsS 16 temp
  | .junctionSample _ temp => fitsS 16 temp
  | .tileThermalStop _ _ temp => fitsS 16 temp
  | .moduleThermalStop _ temp => fitsS 16 temp
  | .coolantHotSet temp => fitsS 16 temp
  | .coolantHotClear temp => fitsS 16 temp
  | .lineRequestArrive _ pa op _ => fits 48 pa && op.wf
  | .memoryResponse _ line errs => fits 48 line && errs.all (·.1 < 72)
  | .regulatorServe target ws _ => (target < 14 || (0x20 ≤ target && target < 0x30)) && ws.all fun w => fits 48 w.pa && w.op.wf
  | .scrubRead _ errs => errs.all (·.1 < 72)
  | .channelCeThreshold _ ch => ch < 17
  | .channelNoResponse _ ch => ch < 17
  | .spareCopyDone c => fits 33 c.upto
  | .portTrainStart _ => true
  | .identityBlock _ blk => blk.wf
  | .portTrainDone _ => true
  | .portTrainTimeout _ => true
  | .portTrainRetry _ => true
  | .probationDone _ => true
  | .laneFecThreshold _ lane => lane < 9
  | .laneLockLoss _ lane => lane < 9
  | .laneRecalPeriod _ => true
  | .laneSwapDone _ => true
  | .portUncorrectableBurst _ _ => true
  | .portFarEndSilent _ => true
  | .linkUnitDiscard _ u => u.bytes.length % 8 = 0 && 16 ≤ u.bytes.length && u.bytes.length ≤ 280
  | .controlBlock _ blk => blk.wf
  | .takeoverRequest _ _ lseq => fits 16 lseq
  | .takeoverAnswer _ lseq => fits 16 lseq
  | .takeoverTimeout _ => true
  | .frameTransit via f => via.wf && f.wf
  | .msgFrame via f => via.wf && f.wf
  | .exHdrFrame via f => via.wf && f.wf
  | .exDataFrame via f => via.wf && f.wf
  | .foldDataFrame via f => via.wf && f.wf
  | .redFrame via f _ => via.wf && f.wf
  | .memReqFrame via f => via.wf && f.frame.wf
  | .memRespFrame via f => via.wf && f.wf
  | .mgmtFrame via f => via.wf && f.wf
  | .probeFrame via f => via.wf && f.wf
  | .hello => true
  | .setSlot m _ => m.wf
  | .measure m _ => m.wf
  | .status m => m.wf
  | .sensors m => m.wf
  | .retire m _ _ _ => m.wf
  | .ticketAck m _ => m.wf
  | .ticketResend => true
  | .tally m _ _ _ => m.wf
  | .tallyTimeout _ => true
  | .faultNotice m _ _ _ _ => m.wf
  | .epochReady m _ _ _ => m.wf
  | .peerAck m _ _ _ => m.wf
  | .peerResend => true
  | .stageWrite m _ _ => m.wf
  | .stageCommit m _ _ => m.wf
  | .bootData m _ _ => m.wf
  | .bootReqResend => true
  | .arbiterStart _ => true
  | .arbiterCopyDone _ => true
  | .arbiterVerdict _ _ => true
  | .arbiterTimeout _ => true
  | .bootImageVerify => true
  | .updateCopyDone => true
  | .startSelftestDone _ => true
  | .sealKeyReady => true
  | .returnRinseDone => true
  | .smbusReadWord addr cmd => fits 7 addr && fits 8 cmd
  | .sensorRenew _ => true
  | .trstN => true
  | .dipStart mv => fits 17 mv
  | .surgeStart mv => fits 17 mv
  | .surgeEnd mv => fits 17 mv
  | .managementPortUp => true
  | .managementPortDown => true
  | .unknownType m _ => m.wf
  | .manglePowerGate _ _ _ => true
  | .hubSelfTestDone _ _ _ => true
  | .clerkCoresHalt => true
  | .arbiterRinseDone _ => true
  | .ceWindowRestart _ => true
  | .tck _ _ _ => true

end Sys2Proof
end

