-- ==== Sys2Proof/Tests/Slice0.lean ====
section
/-! SUPPORT. Tests: ill-formed commands are refused, each statement's hypotheses can be met, and small facts of single steps
taken from the spec's words. -/

namespace Sys2Proof.Tests

open Sys2Proof Sys2Proof.Machine Sys2Proof.Safety

/-! Well-formedness: for every check a term that it refuses -/

theorem test_wf_moveOp : (({} : MoveOp).wf && (
  [{ desc := 65536 }, { row := 16384 }, { offset := 4294967296 }, { count := 16777216 }, { rowq := 128 }].all fun (o : MoveOp) => !o.wf)) = true := by decide

theorem test_wf_copyOp : (({} : CopyOp).wf && (
  [{ seamEnd := 4 }, { sfmt := 16 }, { dfmt := 16 }, { srcRow := 16384 }, { dstRow := 16384 }, { rows := 32768 }].all fun (o : CopyOp) => !o.wf)) = true := by decide

theorem test_wf_loadwOp : (({} : LoadwOp).wf && (
  [{ quad := 4 }, { fmt := 16 }, { row := 16384 }].all fun (o : LoadwOp) => !o.wf)) = true := by decide

theorem test_wf_maskOp : (({} : MaskOp).wf && (
  [{ m := 8 }, { tail := 256 }].all fun (o : MaskOp) => !o.wf)) = true := by decide

theorem test_wf_pressOp : (({} : PressOp).wf && (
  [{ quad := 4 }, { afmt := 16 }, { ofmt := 16 }, { mask := 8 }, { pin := 4 }, { n := 65536 }, { arow := 16384 },
   { orow := 16384 }, { prow := 16384 }, { till := 262144 }].all fun (o : PressOp) => !o.wf)) = true := by decide

theorem test_wf_compactOp : (({} : CompactOp).wf && (
  [{ pack := 4 }, { sid := 4 }, { afmt := 16 }, { desc := 65536 }, { listRow := 16384 }, { auxRow := 16384 },
   { outRow := 16384 }].all fun (o : CompactOp) => !o.wf)) = true := by decide

theorem test_wf_mergeOp : (({} : MergeOp).wf && (
  [{ nrm1 := 64 }, { ofmt := 16 }, { srcRow := 16384 }, { runBase := 16384 }, { outRow := 16384 }, { desc := 65536 },
   { row0 := 16777216 }].all fun (o : MergeOp) => !o.wf)) = true := by decide

theorem test_wf_sortOp : (({} : SortOp).wf && (
  [{ kb := 4 }, { n := 8388608 }, { src := 65536 }, { dst := 65536 }, { scratchRow := 16384 }, { histRow := 16384 }].all fun (o : SortOp) => !o.wf)) = true := by decide

theorem test_wf_scanOp : (({} : ScanOp).wf && (
  [{ typ := 4 }, { n := 4194304 }, { srcRow := 16384 }, { dstRow := 16384 }, { totalRow := 16384 }].all fun (o : ScanOp) => !o.wf)) = true := by decide

theorem test_wf_vecOp : (({} : VecOp).wf && (
  [{ op := 64 }, { ifmt := 16 }, { ofmt := 16 }, { n := 2097152 }, { aRow := 16384 }, { bRow := 16384 },
   { cRow := 16384 }, { dRow := 16384 }].all fun (o : VecOp) => !o.wf)) = true := by decide

theorem test_wf_fusedOp : (({} : FusedOp).wf && (
  [{ nlen := 65536 }, { rows := 256 }, { xRow := 16384 }, { dyRow := 16384 }, { pRow := 16384 }, { dRow := 16384 }].all fun (o : FusedOp) => !o.wf)) = true := by decide

theorem test_wf_sizeOp : (({} : SizeOp).wf && (
  [{ ifmt := 16 }, { n := 2097152 }, { srcRow := 16384 }, { outRow := 16384 }].all fun (o : SizeOp) => !o.wf)) = true := by decide

theorem test_wf_quantOp : (({} : QuantOp).wf && (
  [{ ofmt := 16 }, { n := 2097152 }, { srcRow := 16384 }, { tRow := 16384 }, { outRow := 16384 },
   { scaleRow := 16384 }].all fun (o : QuantOp) => !o.wf)) = true := by decide

theorem test_wf_statOp : (({} : StatOp).wf && (
  [{ slot := 8 }, { lo := 65536 }, { hi := 65536 }, { outRow := 16384 }].all fun (o : StatOp) => !o.wf)) = true := by decide

theorem test_wf_updateOp : (({} : UpdateOp).wf && (
  [{ slot := 8 }, { n := 1048576 }, { desc := 65536 }, { stateRow := 16384 }, { gRow := 16384 }, { pRow := 16384 }].all fun (o : UpdateOp) => !o.wf)) = true := by decide

theorem test_wf_digestOp : (({} : DigestOp).wf && (
  [{ bytes := 16777216 }, { desc := 65536 }, { srcRow := 16384 }, { outRow := 16384 }].all fun (o : DigestOp) => !o.wf)) = true := by decide

theorem test_wf_signalOp : (({} : SignalOp).wf && (
  [{ ctr := 64 }, { bench := 128 }].all fun (o : SignalOp) => !o.wf)) = true := by decide

theorem test_wf_waitOp : (({} : WaitOp).wf && (
  [{ ctr := 64 }].all fun (o : WaitOp) => !o.wf)) = true := by decide

theorem test_wf_msgOp : (({} : MsgOp).wf && (
  [{ row := 16384 }, { rows := 32768 }, { tag := 4096 }].all fun (o : MsgOp) => !o.wf)) = true := by decide

theorem test_wf_reduceOp : (({} : ReduceOp).wf && (
  [{ tree := 16 }, { mode := 4 }, { n := 2097152 }, { srcRow := 16384 }, { dstRow := 16384 }, { rdesc := 65536 }].all fun (o : ReduceOp) => !o.wf)) = true := by decide

theorem test_wf_exchangeOp : (({} : ExchangeOp).wf && (
  [{ dispRow := 16384 }, { srcRow := 16384 }, { dstRow := 16384 }, { peerRow := 16384 }, { peers := 4096 },
   { tokq := 256 }, { tag := 4096 }].all fun (o : ExchangeOp) => !o.wf)) = true := by decide

theorem test_wf_foldOp : (({} : FoldOp).wf && (
  [{ src := 65536 }, { dst := 65536 }, { tag := 4096 }].all fun (o : FoldOp) => !o.wf)) = true := by decide

theorem test_wf_loopOp : (({} : LoopOp).wf && (
  [{ body := 256 }, { count := 16777216 }, { rs := 32768 }, { es := 2147483648 }].all fun (o : LoopOp) => !o.wf)) = true := by decide

theorem test_wf_eventOp : (({} : EventOp).wf && (
  [{ code := 65536 }].all fun (o : EventOp) => !o.wf)) = true := by decide

theorem test_wf_frame : (({} : Frame).wf && (
  [{ typ := 256 }, { vc := 4 }, { part := 8 }, { stain := 16 }, { dst := 262144 }, { dHi := 64 }, { src := 262144 },
   { sHi := 64 }, { c := 256 }, { d := 256 }, { ef := 65536 }, { plen := 17, payload := List.replicate 272 0 },
   { plen := 1, payload := [] }].all fun (o : Frame) => !o.wf)) = true := by decide

theorem test_wf_controlBlock : (({} : ControlBlock).wf && (
  [{ ack := 65536 }, { replayFrom := 65536 }, { creditA := (4, false, false, 0) },
   { creditA := (0, false, false, 65536) }, { creditB := (4, false, false, 0) },
   { creditB := (0, false, false, 65536) }].all fun (o : ControlBlock) => !o.wf)) = true := by decide

theorem test_wf_identBlock : (({} : IdentBlock).wf && (
  [{ port := 8 }, { role := 8 }, { hwType := 65536 }, { coord := 262144 }, { dimX := 128 }, { dimY := 128 },
   { dimZ := 128 }, { dir := 256 }].all fun (o : IdentBlock) => !o.wf)) = true := by decide

theorem test_wf_msgSrc : (({} : MsgSrc).wf && (
  [{ reqId := 4294967296 }].all fun (o : MsgSrc) => !o.wf)) = true := by decide

def illTerms0 : List Instr :=
  [.fetch ⟨0, 0⟩ { desc := 65536 } {}, .store ⟨0, 0⟩ { desc := 65536 } {}, .copyShelf ⟨0, 0⟩ { seamEnd := 4 } {},
   .copyToSeam ⟨0, 0⟩ { seamEnd := 4 } {}, .copyFromSeam ⟨0, 0⟩ { seamEnd := 4 } {},
   .copyConvert ⟨0, 0⟩ { seamEnd := 4 } {}, .loadw ⟨0, 0⟩ { quad := 4 } {}, .loadwMask ⟨0, 0⟩ { m := 8 } {},
   .press ⟨0, 0⟩ { quad := 4 } {}, .pressCompacted ⟨0, 0⟩ { quad := 4 } {}, .compactCount ⟨0, 0⟩ { pack := 4 } {},
   .compactPlan ⟨0, 0⟩ { pack := 4 } {}, .compactStream ⟨0, 0⟩ { pack := 4 } {},
   .compactCompress ⟨0, 0⟩ { pack := 4 } {}, .merge ⟨0, 0⟩ { nrm1 := 64 } {}, .sort ⟨0, 0⟩ { kb := 4 } {},
   .scan ⟨0, 0⟩ { typ := 4 } {}, .vec ⟨0, 0⟩ { op := 64 } {}, .vecSoftmaxForward ⟨0, 0⟩ { nlen := 65536 } {},
   .vecSoftmaxBackward ⟨0, 0⟩ { nlen := 65536 } {}, .vecNormForward ⟨0, 0⟩ { nlen := 65536 } {},
   .vecNormBackward ⟨0, 0⟩ { nlen := 65536 } {}, .size ⟨0, 0⟩ { ifmt := 16 } {}, .quant ⟨0, 0⟩ { ofmt := 16 } {}]

theorem test_wf_refuses0 : (illTerms0.all fun i => !i.wf) = true := by decide

def illTerms1 : List Instr :=
  [.stat ⟨0, 0⟩ { slot := 8 } {}, .update ⟨0, 0⟩ { slot := 8 } {}, .digest ⟨0, 0⟩ { bytes := 16777216 } {},
   .signal ⟨0, 0⟩ { ctr := 64 }, .wait ⟨0, 0⟩ { ctr := 64 }, .send ⟨0, 0⟩ { row := 16384 },
   .recv ⟨0, 0⟩ { row := 16384 }, .reduce ⟨0, 0⟩ { tree := 16 }, .exchangeDispatch ⟨0, 0⟩ { dispRow := 16384 },
   .exchangeReturn ⟨0, 0⟩ { dispRow := 16384 }, .fold ⟨0, 0⟩ { src := 65536 }, .loop ⟨0, 0⟩ { body := 256 },
   .jump ⟨0, 0⟩ 2147483648, .event ⟨0, 0⟩ { code := 65536 }, .halt ⟨0, 0⟩ 65536,
   .orderLineFetch ⟨0, 0⟩ 281474976710656, .signalDeliver ⟨0, 0⟩ 136, .descriptorFill ⟨0, 0⟩ 65536 false,
   .translationWalk ⟨0, 0⟩ 4, .seamRowArrive 0 512, .invalVa ⟨0, 0⟩ 281474976710656, .chRetireBench 256 0,
   .chRetireBench 0 256, .chRetireChannel 256 0]

theorem test_wf_refuses1 : (illTerms1.all fun i => !i.wf) = true := by decide

def illTerms2 : List Instr :=
  [.chRetireChannel 0 256, .chRetirePort 256 0, .chRetirePort 0 256, .chRetireLane 256 0, .chRetireLane 0 256,
   .chRetireClerk 256 0, .chRetireClerk 0 256, .clerkAccess 0 72057594037927936 (.load 1),
   .clerkAccess 0 0 (.load 3), .clerkAccess 0 0 (.store 16 0), .clerkAmo 0 72057594037927936 .lr 0 0,
   .clerkAmo 0 0 .lr 2 0, .startCtlStage 16, .flRead 65536, .flProgram 65536, .flErase 65536, .flCommit 65536,
   .controlSpaceMisuse 281474976710656 0 false, .controlSpaceMisuse 0 3 false,
   .controlSpaceUnassigned 281474976710656 false, .registerWrite 281474976710656 0, .seamStallExpiry 0 512,
   .powerOnReset 131072, .supplyCap 131072]

theorem test_wf_refuses2 : (illTerms2.all fun i => !i.wf) = true := by decide

def illTerms3 : List Instr :=
  [.supplyCapDeepen 131072, .dipEnd 131072, .holdEnter 131072, .holdExit 131072, .supplyCapLift 131072,
   .stackHeatEnter 0 32768, .stackHeatLeave 0 32768, .junctionSample 0 32768, .tileThermalStop 0 none 32768,
   .moduleThermalStop none 32768, .coolantHotSet 32768, .coolantHotClear 32768,
   .lineRequestArrive .hub 281474976710656 .read {},
   .lineRequestArrive .hub 0 (.write [] (List.replicate 64 true) false) {},
   .lineRequestArrive .hub 0 (.write (List.replicate 64 0) [] false) {},
   .lineRequestArrive .hub 0 (.atomic { atop := 256 }) {}, .lineRequestArrive .hub 0 (.atomic { width := 16 }) {},
   .memoryResponse 0 281474976710656 [], .memoryResponse 0 0 [(72, 1)], .regulatorServe 14 [] {}, .regulatorServe 0x30 [] {},
   .regulatorServe 0 [{ pa := 281474976710656 }] {}, .regulatorServe 0 [{ op := .atomic { width := 16 } }] {}, .scrubRead 0 [(72, 1)],
   .spareCopyDone { upto := 8589934592 }, .zeroFillDone { upto := 1099511627776 },
   .linkUnitDiscard 0 { bytes := List.replicate 17 0 }, .linkUnitDiscard 0 { bytes := List.replicate 8 0 },
   .linkUnitDiscard 0 { bytes := List.replicate 288 0 },
   .channelCeThreshold 0 17, .channelNoResponse 0 17, .identityBlock 0 { port := 8 }, .laneFecThreshold 0 9]

theorem test_wf_refuses3 : (illTerms3.all fun i => !i.wf) = true := by decide +kernel

def illTerms4 : List Instr :=
  [.laneLockLoss 0 9, .controlBlock 0 { ack := 65536 }, .takeoverRequest 0 0 65536, .takeoverAnswer 0 65536,
   .frameTransit (.port 0 65536) {}, .frameTransit .home { typ := 256 }, .msgFrame (.port 0 65536) {},
   .msgFrame .home { typ := 256 }, .exHdrFrame (.port 0 65536) {}, .exHdrFrame .home { typ := 256 },
   .exDataFrame (.port 0 65536) {}, .exDataFrame .home { typ := 256 }, .foldDataFrame (.port 0 65536) {},
   .foldDataFrame .home { typ := 256 }, .redFrame (.port 0 65536) {} 0, .redFrame .home { typ := 256 } 0,
   .memReqFrame (.port 0 65536) {}, .memReqFrame .home { frame := { typ := 256 } }, .memRespFrame (.port 0 65536) {},
   .memRespFrame .home { typ := 256 }, .mgmtFrame (.port 0 65536) {}, .mgmtFrame .home { typ := 256 },
   .probeFrame (.port 0 65536) {}, .probeFrame .home { typ := 256 }]

theorem test_wf_refuses4 : (illTerms4.all fun i => !i.wf) = true := by decide

def illTerms5 : List Instr :=
  [.setSlot { reqId := 4294967296 } [], .measure { reqId := 4294967296 } [], .status { reqId := 4294967296 },
   .sensors { reqId := 4294967296 }, .retire { reqId := 4294967296 } 0 0 0, .ticketAck { reqId := 4294967296 } 0,
   .tally { reqId := 4294967296 } 0 0 [], .faultNotice { reqId := 4294967296 } 0 0 0 0,
   .epochReady { reqId := 4294967296 } 0 0 0, .peerAck { reqId := 4294967296 } 0 0 0,
   .stageWrite { reqId := 4294967296 } 0 [], .stageCommit { reqId := 4294967296 } 0 [],
   .bootData { reqId := 4294967296 } 0 [], .smbusReadWord 128 0, .smbusReadWord 0 256, .dipStart 131072,
   .surgeStart 131072, .surgeEnd 131072, .unknownType { reqId := 4294967296 } []]

theorem test_wf_refuses5 : (illTerms5.all fun i => !i.wf) = true := by decide

/-! States of the witnesses -/

def b0 : BenchId := ⟨0, 0⟩

def b1 : BenchId := ⟨0, 1⟩

/-- A running module: four tiles on, partition 0 loaded with benches 0 and 1 of tile 0 and a seam from the first to the
second, bench 2 free. -/
def on : State := { State.reset with
  tileOn := [true, true, true, true]
  benches := [{ asg := .assigned 0 0 false }, { asg := .assigned 0 1 false }, { asg := .free }] ++ List.replicate 133 {}
  parts := { loaded := true, epoch := 1, benches := [{}, { phys := 1, logical := 1 }]
             hdr := { drainMs := 10, tSeamMs := 10, tTokenMs := 10, tMem := 10, tCreditMs := 10, addrBook := 0x18000000000 }
             seams := [{ rcd := { id := 0, src := 0, srcOut := 0, dst := 1, dstIn := 0 } }] } :: List.replicate 7 {} }

/-- With bench 0 changed. -/
def onB (f : Bench → Bench) : State := on.modBench b0 f

/-- With partition 0 changed. -/
def onP (f : Partition → Partition) : State := on.modPart 0 f

/-- With an order in a slot of bench 0. -/
def inSlot (o : Order) : State := onB fun x => { x with inflight := [{ dec := { body := o } }] }

/-- At a module time. -/
def State.at (s : State) (ns : Nat) : State := { s with time := { s.time with now := BitVec.ofNat 64 ns } }

/-! Witnesses: for each statement a state and operands that meet its hypotheses together -/

theorem witness_StepRunsFrontCommand : ({ on with pending := [.trstN] } : State).pending = .trstN :: [] ∧ on.pending = [] := by decide

theorem witness_ReferenceEdgesAdvanceModuleTime :
    (on.power = .running ∧ on.time.holdover = false ∧ ({ on.time with fifth := 4 } : ModTime).fifth < 5 ∧ on.time.clkMode = 0) ∧
    ({ on.time with clkMode := 3 } : ModTime).clkMode ≠ 0 := by decide

/-- What an order of a bench does to it, as its statement puts it. -/
def workOf (s : State) (b : BenchId) (p : PartId) (o : Order) (u : Upset) : Work :=
  Order.effect o (((s.modBench b fun x => { x with
    draw := x.draw + BitVec.ofNat 64 (s.drawsOf b p (s.bench b).masks o), nextSeq := x.nextSeq + 1 }).upsetSram b p u).orderWork b p u
      (directSlot (s.bench b) o))

theorem witness_UnitOrderRunsOnItsBench :
    (unitOrder (.loadwMask b0 {} {}) = some (b0, .loadwMask {}, {}) ∧ Alone on b0 0 (.loadwMask {}) ∧
      Undisturbed (workOf on b0 0 (.loadwMask {}) {}) ∧ (workOf on b0 0 (.loadwMask {}) {}).oob = []) ∧
    (unitOrder (.sort b0 { n := 1 } {}) = some (b0, .sort { n := 1 }, {}) ∧ Alone on b0 0 (.sort { n := 1 }) ∧
      Undisturbed (workOf on b0 0 (.sort { n := 1 }) {}) ∧ (workOf on b0 0 (.sort { n := 1 }) {}).oob = []) := by
  unfold Alone Undisturbed; decide +kernel

theorem witness_IssuedOrderRunsInItsSlot :
    let i : InFlight := { dec := { body := .loadwMask {} } }
    let s := inSlot (.loadwMask {})
    unitOrder (.loadwMask b0 {} {}) = some (b0, .loadwMask {}, {}) ∧ Issued s b0 0 (.loadwMask {}) 0 i ∧
      Undisturbed (Order.effect (.loadwMask {}) ((s.upsetSram b0 0 {}).orderWork b0 0 {} i)) := by
  unfold Issued Undisturbed; decide

theorem witness_CopyShelfMovesWholeRows :
    Alone on b0 0 (.copyShelf { dstRow := 16383, rows := 1 }) ∧ Memory.wf 0 (on.bench b0).shelf = true := by
  unfold Alone; decide

theorem witness_LoadwMaskWritesItsMask : Alone on b0 0 (.loadwMask { m := 7, tail := 128 }) := by unfold Alone; decide

theorem witness_IllegalOrderFaults :
    unitOrder (.copyShelf b0 { rows := 2 } {}) = some (b0, .copyShelf { rows := 2 }, {}) ∧
      on.benchLive b0 = true ∧ (on.bench b0).partOf = some 0 ∧ (on.bench b0).inflight = [] ∧ (on.bench b0).hold = .none ∧
      Order.check (on.checkCtx b0 0) (.copyShelf { rows := 2 }) = some 0x03 := by decide

theorem witness_StoppedPartitionHasNothingInFlight : (on.part 0).live = true := by decide

def queued : State := onP fun x => { x with seams := [{ rcd := { src := 1, dst := 0 }, rows := [{}], since := 5 }] }

theorem witness_SeamCopiesMoveTheirRows :
    Alone on b0 0 (.copyToSeam { srcRow := 16383, rows := 1 }) ∧
    Alone queued b0 0 (.copyFromSeam { dstRow := 16383, rows := 1 }) ∧ Memory.wf 0 (queued.bench b0).shelf = true ∧
      (queued.part 0).seams.findIdx? (fun m => m.rcd.dst = (queued.bench b0).logical && m.rcd.dstIn = 0) = some 0 ∧
      (queued.part 0).seams[0]? = some { rcd := { src := 1, dst := 0 }, rows := [{}], since := 5 } := by
  unfold Alone; decide

theorem witness_SignalReachesItsCounter :
    (Alone on b0 0 (.signal { ctr := 63, bench := 1, value := 1 }) ∧ on.benchOfLogical 0 1 = some b1 ∧ b1 ≠ b0) ∧
    (Alone on b0 0 (.signal { bench := 0, value := 0xFFFFFFFF }) ∧ on.benchOfLogical 0 0 = some b0 ∧
      ((on.bench b0).tokens.getD 0 0).toNat + 0xFFFFFFFF ≤ 0xFFFFFFFF) ∧
    (Alone (onB fun x => { x with tokens := 1 :: List.replicate 63 0 }) b0 0 (.signal { value := 0xFFFFFFFF }) ∧
      (onB fun x => { x with tokens := 1 :: List.replicate 63 0 }).benchOfLogical 0 0 = some b0 ∧
      0xFFFFFFFF < (((onB fun x => { x with tokens := 1 :: List.replicate 63 0 }).bench b0).tokens.getD 0 0).toNat + 0xFFFFFFFF) := by
  unfold Alone; decide

theorem witness_DeliveredSignalAddsToItsCounter :
    let s := onB fun x => { x with sigIn := [(1, 63, 0xFFFFFFFF)] }
    s.benchLive b0 = true ∧ (s.bench b0).sigIn = (1, 63, 0xFFFFFFFF) :: [] ∧ (s.bench b0).inflight = [] ∧
      ((s.bench b0).tokens.getD 63 0).toNat + 0xFFFFFFFF ≤ 0xFFFFFFFF := by decide

theorem witness_WaitFenceEventTakeEffect :
    (Alone on b0 0 (.wait { ctr := 63, consume := true }) ∧ (0#32).toNat ≤ ((on.bench b0).tokens.getD 63 0).toNat) ∧
    Alone on b0 0 (.fence true) ∧ Alone on b0 0 (.event { code := 0xFFFF }) := by unfold Alone; decide

def deciding : State := onB fun x => { x with seqState := .running, pc := 0x1000 }

theorem witness_LoopJumpHaltActAtDecode :
    ((deciding.bench b0).partOf = some 0 ∧ deciding.decodes b0 = true ∧ (deciding.bench b0).loops.length < 4 ∧
      (deciding.bench b0).loops = []) ∧
    (let s := onB fun x => { x with seqState := .running, loops := List.replicate 4 {} }
     (s.bench b0).partOf = some 0 ∧ s.decodes b0 = true ∧ 4 ≤ (s.bench b0).loops.length ∧ (s.bench b0).loops ≠ []) := by decide

/-- A FENCE at the decode address. -/
def fenceWord : BitVec 128 := 0x32

def decoding : State := onB fun x => { x with seqState := .running, pc := 0x1000, queue := [{ va := 0x1000, word := fenceWord }] }

theorem witness_DecodedOrderEntersItsStream :
    (decoding.bench b0).partOf = some 0 ∧ decoding.decodes b0 = true ∧
      (decoding.bench b0).queue.find? (fun e => e.va = (decoding.bench b0).pc) = some { va := 0x1000, word := fenceWord } ∧
      decoding.decodeWord b0 0 fenceWord.toNat = (.fence false, none) ∧
      (decoding.bench b0).fStream.length < 32 ∧ (decoding.bench b0).bStream.length < 32 := by decide

def issuing : State := onB fun x => { x with
  seqState := .running, tokens := 1 :: List.replicate 63 0
  fStream := [{ hdr := { needEn := true, sigEn := true, sigBench := 1 }, body := .loadwMask {} }] }

theorem witness_IssuedHeadTakesASlot :
    (issuing.bench b0).partOf = some 0 ∧ issuing.benchLive b0 = true ∧ (issuing.bench b0).seqState = .running ∧
      (issuing.bench b0).stopped = false ∧ (issuing.bench b0).hold = .none ∧ (issuing.part 0).quiescing = false ∧
      (issuing.bench b0).chosen = some { hdr := { needEn := true, sigEn := true, sigBench := 1 }, body := .loadwMask {} } ∧
      1 < (issuing.part 0).benches.length := by decide

theorem witness_ChosenHeadIsTheOlderReadyOne :
    (issuing.bench b0).chosen = some { hdr := { needEn := true, sigEn := true, sigBench := 1 }, body := .loadwMask {} } := by decide

def completing : State := onB fun x => { x with seqState := .running, inflight := [{ dec := { body := .loadwMask {} }, ran := true }] }

theorem witness_CompletedOrderFreesItsSlotAndSignals :
    (completing.bench b0).partOf = some 0 ∧ completing.benchLive b0 = true ∧
      (completing.bench b0).inflight[0]? = some { dec := { body := .loadwMask {} }, ran := true } ∧
      (completing.bench b0).mayComplete 0 { dec := { body := .loadwMask {} }, ran := true } = true ∧
      (completing.bench b0).hold = .none ∧ (completing.bench b0).stopped = false := by decide

theorem witness_HaltedBenchWritesItsRecord :
    let s := onB fun x => { x with seqState := .running, haltCode := some (0xFFFF, 0x1000) }
    (s.bench b0).partOf = some 0 ∧ s.benchLive b0 = true ∧ (s.bench b0).haltCode = some (0xFFFF, 0x1000) ∧
      (s.bench b0).seqState = .running ∧ (s.bench b0).fStream = [] ∧ (s.bench b0).bStream = [] ∧ (s.bench b0).inflight = [] := by decide

theorem witness_BenchControlWritesAct :
    (Reached on b0 ∧ (on.bench b0).partOf = some 0 ∧ (on.bench b0).seqState ≠ .running ∧ (on.bench b0).hold = .none ∧
      (on.part 0).live = true ∧ (on.bench b0).pc % 16 = 0) ∧
    (Reached deciding b0 ∧ (deciding.bench b0).partOf = some 0 ∧ (deciding.bench b0).seqState = .running ∧
      (deciding.bench b0).stopped = false ∧ (deciding.bench b0).inflight = []) ∧
    (Reached completing b0 ∧ (completing.bench b0).partOf = some 0 ∧ (completing.bench b0).seqState = .running ∧
      (completing.bench b0).stopped = false ∧ (completing.bench b0).inflight ≠ []) := by unfold Reached; decide

/-- A page table that maps virtual 0 to H0 with orders allowed, as its entry stands in memory. -/
def booked : State := { onB (fun x => { x with
    seqState := .running, pc := 0x10, lineReqs := [(0, 0)], tlb := [{ va := 0, big := true, pa := 0x18000000000, orders := true }]
    walks := [{ va := 0, level := 1, table := 0x18000001000 }] }) with
  cells := memWrite 0 [] (cellKey 12 1 0x1000) [1, 0x20, 0, 0, 0x80, 1] }

/-- A legal descriptor of one element at virtual address 0x1000 (08 R251). -/
def descBytes : List Byte :=
  [0, 0, 0, 0, 0, 0, 0x10, 0, 0, 64, 0, 0, 0, 0, 0xFF, 0xFF] ++ [16, 0, 0, 0] ++ (List.replicate 6 [1, 0, 0, 0]).flatten ++
    List.replicate 20 0

def described : State := onB fun x => { x with dcount := 1, dcache := [(0, descBytes)] }

def arriving : State := onP fun x => { x with seams := [{ rcd := { src := 0, dst := 1 }, onTheWay := [{}], rows := List.replicate 63 {} }] }

theorem witness_FetchesAndWalksArrive :
    ((booked.bench b0).partOf = some 0 ∧ booked.benchLive b0 = true ∧ ((booked.bench b0).lineReqs.any fun r => r.1 = lineBase 63) = true ∧
      ((booked.part 0).pendReqs.any fun r => r.bench = b0.idx && r.pa = lineBase 63) = false ∧
      (((booked.modBench b0 fun x => { x with
        lineReqs := x.lineReqs.filter fun r => r.1 ≠ lineBase 63
        walks := x.walks.filter fun w => w.va / 2 ^ 21 ≠ lineBase 63 / 2 ^ 21 }).work b0 0).fetchLine (lineBase 63)).2.fault = none) ∧
    (((booked.part 0).pendReqs = [] ∧ (booked.bench b0).queue.length ≤ 252) ∧
      (booked.bench b0).walks[0]? = some { va := 0, level := 1, table := 0x18000001000 } ∧
      ((booked.mem.readIn (0x18000001000 + 8 * bookIndex 1 0) 8 (booked.originOf (.bench b0))).map fun r => bookEntry 1 (leNat r.1)) =
        some (.table 0x18000002000)) ∧
    ((described.work b0 0).rawDesc 0).2.fault = none ∧
    ((((described.work b0 0).rawDesc 0).2).checkDesc (parseDesc ((described.work b0 0).rawDesc 0).1)).fault = none ∧
    ((arriving.part 0).live = true ∧ arriving.supply.hold = false ∧
      (arriving.part 0).seams[0]? = some { rcd := { src := 0, dst := 1 }, onTheWay := [{}], rows := List.replicate 63 {} } ∧
      arriving.benchOfLogical 0 1 = some b1 ∧ (arriving.bench b1).inflight = []) := by decide

theorem witness_SendLaunchesTwoFramesARow :
    Alone on b0 0 (.send { row := 16383, rows := 1, peer := 0, tag := 0xFFF }) := by unfold Alone; decide

theorem witness_RecvAwaitsItsFrames :
    Alone on b0 0 (.recv { row := 16384, rows := 0, peer := 0, tag := 0xFFF }) ∧
      Alone on b0 0 (.recv { row := 0, rows := 16384, peer := 0, tag := 0 }) ∧ (on.bench b0).rxStore = [] := by unfold Alone; decide

/-- A partition with a tree whose parent is a neighbour and that has no children here. -/
def treed : State := onP fun x => { x with trees := [{ id := 3, modes := 7, parent := 1 }] }

theorem witness_ReduceContributesItsEntries :
    Alone treed b0 0 (.reduce { tree := 3, n := 0, srcRow := 16384, dstRow := 16384 }) ∧
    Alone treed b0 0 (.reduce { tree := 3, n := 128, srcRow := 16383, dstRow := 16383 }) ∧ (treed.bench b0).forceExact = false ∧
      (treed.part 0).reds = [] ∧ (treed.part 0).redFrames = [] ∧ (treed.redTree 0 3).parent = some 0 ∧ (treed.redTree 0 3).kids = [] := by
  unfold Alone; decide

/-- A dispatch descriptor of no tokens and one expert with the mode given, in row 0, and the peer words of both benches in row 40. -/
def dispatched (mode : Byte) : State := onB fun x => { x with
  shelf := memWrite 0 (memWrite 0 [] 0 ([mode, 1, 0, 0, 0, 0, 1, 0] ++ List.replicate 8 0 ++ [1, 0, 0, 0] ++ List.replicate 4 0 ++
    [1, 0, 2, 0, 3, 0, 4, 0, 5, 0, 6, 0, 7, 0])) 20480 ([peerWord 0 0, peerWord 0 1].flatMap (leBytes 4)) }

def exOrder : ExchangeOp := { peerRow := 40, peers := 2, tokq := 1, srcRow := 9, dstRow := 10 }

/-- The premises that both clauses of EXCHANGE share. -/
def exPremises (s : State) (mode : Nat) : Prop :=
  let x := s.bench b0
  let q := parseDisp (x.shelfRead 0 64)
  let peers := x.words 40 2
  let m := x.expertMap q.1
  let w := walkRoutes x q.1 false ((s.part 0).caps.getD 0 0) (x.words q.1.histRow 1) m
  Alone s b0 0 (.exchange exOrder) ∧ q.2 = (true, true) ∧ q.1.mode = mode ∧ q.1.experts = 1 ∧ q.1.strict = false ∧
    (s.part 0).hdr.strictPolicy = 0 ∧ exRowsBad q.1 exOrder = false ∧ x.shelfStain = [] ∧ x.rxStore = [] ∧ x.exchanges = [] ∧
    peers.any (peerBad s.geo) = false ∧ peerWord s.coord x.logical = peers.getD 0 0 ∧ peerWord 0 1 ∈ peers ∧
    peerWord s.coord x.logical ≠ peerWord 0 1 ∧ w.strictAt = none

theorem witness_ExchangeCountsSendsAndWaits :
    (let x := (dispatched 0).bench b0
     let dd := (parseDisp (x.shelfRead 0 64)).1
     exPremises (dispatched 0) 0 ∧
      tableBreach dd (x.words dd.histRow 1) (x.words dd.offRow 1) (x.expertMap dd) (x.words 40 2) = none ∧
      localsOf (x.expertMap dd) 0 = dd.locals_) ∧
    (let x := (dispatched 1).bench b0
     let dd := (parseDisp (x.shelfRead 0 64)).1
     let order := localOrder (x.expertMap dd) (some 0) dd.locals_
     exPremises (dispatched 1) 1 ∧
      ((List.range 2).all fun q => (peerPositions order (x.receiveTable dd 2).1 (x.receiveTable dd 2).2 q).all fun τ =>
        9 + rowsFor ((τ + 1) * 64) ≤ shelfRows) = true) := by
  unfold exPremises Alone; decide +kernel

/-- Descriptors of 16 elements in one block: two tensors under the owner table of descriptor 2, and one without. -/
def folding : State := onB fun x => { x with
  dcount := 4
  dcache := [(0, foldDesc 0x10 0x10 64 2 16 4), (1, foldDesc 0x20 0x10 64 2 16 4), (2, foldDesc 0x30 0x1D 8 0xFFFF 1 1), (3, descBytes)]
  tlb := [{ va := 0, big := true, pa := 0x18000000000, orders := true, write := true }] }
where foldDesc (base fmtRank extent owner dim stride : Nat) : List Byte :=
  leBytes 6 (256 * base) ++ leBytes 3 fmtRank ++ leBytes 5 extent ++ leBytes 2 owner ++ leBytes 4 dim ++
    (List.replicate 5 [1, 0, 0, 0]).flatten ++ leBytes 4 stride ++ List.replicate 20 0

def foldSides (o : FoldOp) : FoldSide × FoldSide × Work :=
  let (sd, so, w) := (folding.work b0 0).desc o.src
  let (dd, do_, w) := w.desc o.dst
  ({ i := o.src, d := sd, o := so }, { i := o.dst, d := dd, o := do_ }, ((w.rawDesc o.src).2.rawDesc o.dst).2)

theorem witness_FoldMovesItsLocalBlocks :
    Alone folding b0 0 (.fold {}) ∧ (folding.bench b0).rxStore = [] ∧ (folding.bench b0).folds = [] ∧
    ((foldSides { src := 3, dst := 3 }).2.2.fault = none ∧
      foldMismatch (foldSides { src := 3, dst := 3 }).1 (foldSides { src := 3, dst := 3 }).2.1 = some 0x03) ∧
    (let q := foldSides { src := 0, dst := 1 }
     let plan := Work.foldPlan q.1 q.2.1 (peerWord folding.coord 0) 1 0 q.2.2
     let read := Work.readSteps q.1 16 q.1.d plan.1 plan.2
     let u := read.1.foldl (fun w k => if w.ok then w.writeStep q.2.1 16 q.1.d k else w) read.2
     q.2.2.fault = none ∧ foldMismatch q.1 q.2.1 = none ∧ plan.1 = [.move 0 0] ∧ plan.2.fault = none ∧ read.2.fault = none ∧
       stagedSlots q.1 q.2.1 16 plan.1 = [] ∧ u.fault = none ∧ u.oob = []) := by unfold Alone; decide +kernel

/-! Frames -/

/-- A frame from bench 1 to bench 0 of partition 0 in its epoch, on this module. -/
def msg (typ : Nat) : Frame := { typ := typ, vc := (vcOf typ).getD 0, plen := 1, last := true, epoch := 1, d := 1, payload := List.replicate 16 0 }

def homed (f : Frame) : State := { on with cx := { on.cx with home := [f] } }

def taken (f : Frame) : State := { homed f with cx := { (homed f).cx with home := (homed f).cx.home.eraseP fun g => g = f } }

/-- The state serves a ring of two modules: port 0 toward the neighbour, a spare on port 1 that detours it. -/
def linked (x : Port) : State := { on with
  loader := { on.loader with geometry := some {
    dim := [2, 1, 1], coord := [0, 0, 0], portDir := [0, 15, 15, 15, 15, 15], detour := [1, 15, 15, 15, 15, 15]
    ports := [(0, [1, 0, 0]), (1, [1, 0, 0])] } }
  ports := x :: List.replicate 7 {} }

theorem accepted_homed (f : Frame) (h : (homed f).cx.home.contains f = true) : Accepted (homed f) .home f (taken f) :=
  ⟨rfl, h, rfl⟩

def onWay : Frame := { msg 1 with dst := 1 }

def transiting : State := { linked { state := 5 } with cx := { on.cx with home := [onWay] } }

theorem witness_TransitFramesGoOn :
    frameOf (.frameTransit .home onWay) = some (.home, onWay, {}) ∧ transiting.power = .running ∧ transiting.cx.home.contains onWay = true ∧
      (let s1 := { transiting with cx := { transiting.cx with home := transiting.cx.home.eraseP fun g => g = onWay } }
       s1.supply.hold = false ∧ frFormatOk onWay = true ∧ coordOk s1.geo onWay.dst = true ∧ s1.fromGateway none = false ∧
         s1.route s1.geo none none onWay = .port 0 { onWay with cls := false }) := by decide

theorem witness_BenchFramesReachTheirBench :
    (∀ typ ∈ [1, 2, 3, 4], (homed (msg typ)).cx.home.contains (msg typ) = true ∧ ForHere (taken (msg typ)) .home (msg typ) ∧
      OfItsEpoch (taken (msg typ)) (msg typ) ∧ (msg typ).src ≠ gatewayCoord ∧ (taken (msg typ)).benchOfLogical 0 0 = some b0 ∧
      ((taken (msg typ)).bench b0).broken.contains (frFlow (msg typ)) = false) ∧
    (((taken (msg 1)).modBench b0 fun x => { x with broken := [frFlow (msg 1)] }).bench b0).broken.contains (frFlow (msg 1)) = true := by
  unfold ForHere OfItsEpoch; decide

theorem witness_MsgFrameFillsItsHalfRow :
    on.benchLive b0 = true ∧ (on.bench b0).partOf = some 0 ∧ Memory.wf 0 (on.bench b0).shelf = true ∧ (on.part 0).hdr.stainPolicy ≠ 1 ∧
      frFidx (msg 1) = ({ row := 16383, total := 1 } : RecvCtx).got % 4096 ∧ (msg 1).last = true := by decide

/-- A contribution of bench 1 at its leaf, whose result its parent, this module itself, sends. -/
def reducing : State := { onP (fun x => { x with
    trees := [{ id := 3, modes := 7, parent := 1 }], reds := [{ tree := 3, bench := 1, n := 128 }] }) with
  cx := { on.cx with home := [red] } }
where red : Frame := { msg 0x10 with c := 3 }

def memReq : Frame := { typ := 0x20, plen := 1, epoch := 1, last := true, payload := List.replicate 16 0 }

theorem witness_ReductionAndMemoryFramesAreServed :
    (let f := reducing.red
     let s1 := { reducing with cx := { reducing.cx with home := reducing.cx.home.eraseP fun g => g = f } }
     let s2 := { (treed : State) with cx := { treed.cx with home := [] } }
     f.src ≠ gatewayCoord ∧ ForHere s1 .home f ∧ OfItsEpoch s1 f ∧ s1.redKnown none f = true ∧ (s1.part 0).brokenReds = [] ∧
       (((s1.part 0).redOf f).map (·.tree)) = some 3 ∧
       ForHere s2 .home f ∧ OfItsEpoch s2 f ∧ s2.redKnown none f = true ∧ (s2.part 0).brokenReds = [] ∧ ((s2.part 0).redOf f) = none ∧
       ((s2.modPart 0 fun x => { x with brokenReds := [frRedFlow f] }).part 0).brokenReds.contains (frRedFlow f) = true) ∧
    (ForHere (taken memReq) .home memReq ∧ OfItsEpoch (taken memReq) memReq) ∧
    (let f := { memReq with part := 7 }; ForHere (taken f) .home f ∧ ((taken f).part 7).loaded = false) ∧
    (let f := msg 0x21
     ForHere (taken f) .home f ∧ OfItsEpoch (taken f) f ∧ (taken f).benchOfLogical 0 0 = some b0) := by
  unfold ForHere OfItsEpoch; decide

def mgmt (last : Bool) : Frame := { typ := 0x30, vc := 3, plen := 1, last := last, payload := List.replicate 16 0 }

def probe : Frame := { typ := 0x31, vc := 3, plen := 1, dst := 1, payload := List.replicate 16 0 }

theorem witness_ManagementAndProbeFramesAccumulate :
    ForHere (taken (mgmt false)) .home (mgmt false) ∧ ForHere (taken (mgmt true)) .home (mgmt true) ∧
    (let s := linked { state := 3, probeBits := 10 ^ 12 - 128 }
     s.power = .running ∧ 3 ≤ (s.port 0).state.toNat ∧ 65535 ≠ (s.port 0).rxSeq ∧ 0 = (s.port 0).rxSeq ∧ frFormatOk probe = true ∧
       s.supply.hold = false ∧ (s.port 0).state = 3) := by unfold ForHere; decide

theorem witness_DiscardedFramesAreCountedOnce :
    (let f := { msg 1 with plen := 2 }; (homed f).cx.home.contains f = true ∧ (taken f).supply.hold = false ∧ frFormatOk f = false) ∧
    (let f := { msg 1 with dst := 1 }; (homed f).cx.home.contains f = true ∧ frFormatOk f = true ∧ coordOk (taken f).geo f.dst = false) ∧
    (let f := { msg 1 with part := 7 }
     (homed f).cx.home.contains f = true ∧ ForHere (taken f) .home f ∧ ((taken f).part (frPart f)).loaded = false) ∧
    (let f := msg 0x10
     (homed f).cx.home.contains f = true ∧ ForHere (taken f) .home f ∧ ((taken f).part (frPart f)).loaded = true ∧
       (taken f).redKnown none f = false) := by unfold ForHere; decide

def dated (e : BitVec 16) : Frame := { msg 1 with epoch := e }

def CountedByEpoch (f : Frame) : Prop :=
  (homed f).cx.home.contains f = true ∧ ForHere (taken f) .home f ∧ ((taken f).part (frPart f)).loaded = true ∧
    (taken f).benchOfLogical 0 0 = some b0 ∧ f.src ≠ gatewayCoord

theorem witness_FrameEpochsAreCompared_order :
    frOlder 0 0x8000 = true ∧ frNewer 0 0x8000 = false ∧ frOlder 0 0x7FFF = false ∧ frNewer 0 0x7FFF = true := by decide

theorem witness_FrameEpochsAreCompared_older :
    CountedByEpoch (dated 0) ∧ frOlder ((taken (dated 0)).part (frPart (dated 0))).epoch (dated 0).epoch = true := by
  unfold CountedByEpoch ForHere; decide

theorem witness_FrameEpochsAreCompared_newer :
    CountedByEpoch (dated 2) ∧ frNewer ((taken (dated 2)).part (frPart (dated 2))).epoch (dated 2).epoch = true := by
  unfold CountedByEpoch ForHere; decide

def fromOutside : Frame := { memReq with src := gatewayCoord, epoch := 0 }

theorem witness_FrameEpochsAreCompared_gateway :
    (homed fromOutside).cx.home.contains fromOutside = true ∧ frFormatOk fromOutside = true ∧
      fromOutside.dst = (taken fromOutside).coord ∧ coordOk (taken fromOutside).geo fromOutside.dst = true := by decide

theorem witness_FrameEpochsAreCompared_gateway_route :
    (taken fromOutside).route (taken fromOutside).geo none none fromOutside = .here := by decide

/-! The loader, the stacks and the clerk cores -/

/-- A first load: a module section of one module with every port unused, and its check section (03 R75, R77 to R79). -/
def stream : List Byte :=
  leBytes 4 0x5708FA77 ++ leBytes 2 1 ++ leBytes 2 0x5708 ++ leBytes 4 256 ++ [1, 0] ++ List.replicate 50 0 ++
  [1, 0xFF, 0, 0] ++ leBytes 4 128 ++ leBytes 4 1 ++ leBytes 4 0 ++
    [1, 1, 1, 0, 0, 0, 0, 0] ++ List.replicate 6 15 ++ [0, 0] ++ List.replicate 6 15 ++ List.replicate 10 0 ++
    (List.replicate 8 [4, 0, 0, 0]).flatten ++ List.replicate 48 0 ++
  [0xFF, 0xFF, 0, 0] ++ leBytes 4 64 ++ leBytes 4 1 ++ leBytes 4 0 ++ leBytes 4 0x70B24853 ++ List.replicate 44 0

/-- A loader that validates 256 bytes at the start of H0. -/
def validating (cells : Mem) : State := { State.reset with
  cells := cells
  loader := { State.reset.loader with busy := true, phase := .validate, cmdSrc := 0x18000000000, cmdLen := 256 } }

def streamed : State := validating (memWrite 0 [] (cellKey 12 1 0) stream)

/-- A loader that replaces partition 0 in the given phase. -/
def replacing (phase : LoadPhase) : State := { on with
  loader := { on.loader with busy := true, phase := phase, toRinse := [0, 1], image := some { parts := [{ hdr := { drainMs := 5 } }] } } }

theorem witness_LoaderCommandsAnswer :
    on.clerkTime = true ∧ on.loader.busy = false ∧ (replacing .rinse).clerkTime = true ∧ (replacing .rinse).loader.busy = true ∧
    ((on.part 0).loaded = true ∧ (on.part 0).snapshot = false ∧ on.nv.life = .maker ∧ ∀ b ∈ on.benchesOf 0, (on.bench b).folds = []) ∧
    (let s := onP fun x => { x with loaded := false, snapshot := true }
     s.clerkTime = true ∧ s.loader.busy = false ∧ (s.part 0).snapshot = true) ∧
    (on.part 7).loaded = false ∧ (on.part 7).snapshot = false ∧
    (let s := { on with nv := { on.nv with life := .field } }; s.clerkTime = true ∧ s.loader.busy = false ∧ s.nv.life = .field) := by decide +kernel

theorem witness_LoaderPhasesFollowEachOther :
    (let s := validating []
     s.clerkTime = true ∧ s.loader.phase = .validate ∧ s.loader.cmdSrc % 64 = 0 ∧
       ((s.mem.readBytes s.loader.cmdSrc (max 64 s.loader.cmdLen) Origin.hub).map fun r =>
         match (s.setMem r.2.2).validate r.1 s.loader.cmdLen with | .error e => e.code | .ok _ => 0) = some 1) ∧
    (let s := replacing .drain
     s.clerkTime = true ∧ s.loader.phase = .drain ∧ ((s.loader.toRinse.filter { parts := [{}] : PatImage }.drains).all s.drained) = true) ∧
    (let s := State.at { (inSlot (.loadwMask {})) with loader := (replacing .drain).loader } 5000000
     s.clerkTime = true ∧ s.loader.phase = .drain ∧ s.drained 0 = false ∧ s.drained 1 = true ∧
       s.loader.phaseAt + 1000000 * 5 ≤ s.now) ∧
    (let s := State.at (replacing .memWait) 2000000
     s.clerkTime = true ∧ s.loader.phase = .memWait ∧ s.loader.phaseAt + 2000000 ≤ s.now) ∧
    (let s := onP fun x => { x with loaded := false, rinsing := true }
     s.clerkTime = true ∧ (s.part 0).rinsing = true ∧ s.loader.image = none) ∧
    (let s := replacing .rinse
     s.clerkTime = true ∧ (s.part 0).rinsing = false ∧ s.loader.phase = .rinse ∧ 0 ∈ s.loader.toRinse ∧ 1 ∈ s.loader.toRinse) := by
  decide

theorem witness_LoaderAcceptsAStream :
    streamed.clerkTime = true ∧
    ((streamed.mem.readBytes 0x18000000000 256 Origin.hub).map fun r =>
      match (streamed.setMem r.2.2).validate r.1 256 with
      | .ok img => (allParts.all fun p => !((streamed.part p).loaded && img.names p)) && (streamed.recheck img).isNone
      | .error _ => false) = some true := by decide +kernel

theorem witness_StackControlsAct :
    let at_ (f : Stack → Stack) : State := on.modStack 13 f
    (on.clerkTime = true ∧ on.stackOn 13 = true ∧ (13 : StackId).val < on.stackSet.length ∧ Memory.wf 0 on.cells = true ∧
      (on.stack 13).lock = false ∧ (2#64).setWidth 2 ≠ 3#2 ∧ (7#64).setWidth 2 = 3#2) ∧
    (let s := at_ fun x => { x with lock := true }; s.stackOn 13 = true ∧ (s.stack 13).lock = true) ∧
    (let s := at_ fun x => { x with zeroBase := stackBytes / 2 ^ 21 * 2 ^ 21, zeroLen := stackBytes % 2 ^ 21 }
     s.stackOn 13 = true ∧ (s.stack 13).zeroBusy = false ∧ zeroOk (s.stack 13).zeroBase (s.stack 13).zeroLen = true) ∧
    zeroOk (on.stack 13).zeroBase (on.stack 13).zeroLen = true ∧ zeroOk 1 0 = false ∧ zeroOk 0 (2 ^ 21 - 1) = false ∧
    (let s := at_ fun x => { x with zeroBusy := true, zeroRun := (2 ^ 21, 2 ^ 21), zeroAt := 2 ^ 21 }
     s.stackOn 13 = true ∧ (s.stack 13).zeroBusy = true) ∧
    (let s := at_ fun x => { x with ceWin := x.ceWin.set 15 1000 }
     (s.stack 13).ceThresh ≤ ((s.stack 13).windowed s.now).ceWin.getD 15 0 ∧ (s.stack 13).spareState = 0 ∧ 16 ∉ (s.stack 13).degradedCh) ∧
    (let s := at_ fun x => { x with spareState := 1, replaced := 3, pointer := 5 }
     (s.stack 13).spareState ≠ 0 ∧ 16 ≠ (s.stack 13).replaced ∧ 16 ∉ (s.stack 13).degradedCh ∧ (s.stack 13).spareState = 1 ∧
       (s.stack 13).pointer ≤ channelLines - 1 ∧ channelLines - 1 < max (s.stack 13).pointer (min channelLines channelLines)) ∧
    ((on.stack 13).ceWinAt + 10000000000 ≤ (State.at on 10000000000).now ∧ (State.at on 9999999999).now < (on.stack 13).ceWinAt + 10000000000) := by
  decide +kernel

theorem witness_LinesAreDecoded :
    symbolWeight (errorWord []) = 0 ∧ symbolWeight (errorWord [(71, 1)]) = 1 ∧ symbolWeight (errorWord [(0, 0xFF), (64, 1)]) = 2 ∧
      symbolWeight (errorWord [(0, 1), (1, 1), (71, 1)]) = 3 ∧
      symbolWeight (errorWord [(0, 1), (1, 1), (2, 1), (3, 1), (71, 1)]) = 5 := by decide +kernel

/-- A clean line in the cache of tile 0. -/
def cached : State := on.modCache 0 fun c => { c with lines := [{ addr := 0, data := List.replicate 64 0 }] }

/-- A line of a tile stack in the clerk cores' caches, and one on its way home. -/
def clerked : State := { on with clerkLines := [{ addr := 64, data := List.replicate 64 0, dirty := List.replicate 64 false }] }

def flushed : State := { on with clerkFlush := [(0, { addr := 64, data := List.replicate 64 0, dirty := List.replicate 64 true })] }

theorem witness_AccessesReachTheirHome :
    (on.power = .running ∧ on.supply.hold = false ∧ Sized on ∧ Memory.wf 0 on.cells = true) ∧
    (match on.mem.reach 0x18000000FFF with | .ok k _ => decide (k = 12) | _ => false) = true ∧
    ((match on.mem.reach 4 with | .ok k _ => decide (homeTile k = some 0) | _ => false) = true ∧
      atomicOk { atop := 1, width := 4 } = true ∧ 4 % 4 = 0 ∧
      (let r := on.mem.atomicAt 0 0 4 4 { atop := 1, width := 4 } 0 Origin.hub; r.2.1 = false ∧ r.2.2.1 = false)) ∧
    ((match cached.mem.reach 63 with | .ok k _ => decide (homeTile k = some 0) | _ => false) = true ∧
      ((cached.cache 0).find 63).map (·.dirty) = some false) ∧
    (on.stackOn 13 = true ∧ 64 * (stackBytes / 64 - 1) < stackBytes ∧ homeTile 13 = none ∧ on.stackOn 0 = true ∧ homeTile 0 = some 0 ∧
      (on.cache 0).lines = []) := by unfold Sized; decide +kernel

theorem witness_ClerkAccessesReachTheirHome :
    (on.house.active.getLsbD 0 = true ∧ inCtl 0x18000000FF8 = false ∧ 8 ≤ 64 - 0x18000000FF8 % 64 ∧
      (match on.mem.reach 0x18000000FF8 with | .ok k _ => decide (homeTile k = none) | _ => false) = true ∧
      (on.mem.readLine 0x18000000FF8 Origin.hub).isSome = true ∧
      (on.mem.writeIn 0x18000000FF8 (leBytes 8 1) false Origin.hub).isSome = true ∧
      (on.mem.readIn 0x18000000FF8 8 Origin.hub).isSome = true ∧ 0x18000000FF8 % 8 = 0) ∧
    (clerked.house.active.getLsbD 0 = true ∧ inCtl 120 = false ∧ 8 ≤ 64 - 120 % 64 ∧
      (match clerked.mem.reach 120 with | .ok k _ => decide (homeTile k = some 0) | _ => false) = true ∧
      (clerked.clerkLines.find? (fun l => l.addr = lineBase 120)).isSome = true) ∧
    (on.clerkLines.find? (fun l => l.addr = lineBase 120) = none ∧ on.clerkFlush = [] ∧ (on.mem.readLine 120 Origin.hub).isSome = true) ∧
    (inCtl 0x300000000000 = false ∧ (match on.mem.reach 0x300000000000 with | .unmapped => true | _ => false) = true) ∧
    (inCtl 0xF00000000000 = true ∧ ctlAligned 0xF00000000000 8 = true ∧ ctlAligned 0xF00000000000 4 = false) ∧
    (flushed.clerkFlush.map (·.1) = [0] ∧
      (flushed.mem.writeLine 64 (List.replicate 64 0) (List.replicate 64 true) false Origin.hub).isSome = true) ∧
    (6 % max 1 4 ≠ 0 ∧ (amoMapped .add 4 1).isSome = true ∧
      (match on.mem.reach 4 with | .ok k _ => decide (homeTile k = some 0) | _ => false) = true) ∧
    (on.tileIsOn 0 = true ∧ stackOf ((on.cache 0).amo.getD 31 {}).addr = some (0, 0) ∧ bits 0x41 3 0 = 1 ∧ bits 0x41 7 4 = 4 ∧
      bit 0x41 8 = false ∧ on.amoStat 0 0 { atop := 0xF, width := 4 } ≠ 0) := by decide +kernel

/-- Two requests that wait at stack 12, of bench 0 and of the hub. -/
def waiting : List LineRequest := [{ sender := .bench b0, pa := 0x18000000000 }, { pa := 0x18000000040 }]

theorem witness_RegulatorServesFairly :
    (let b : Bucket := { sinceUnp := 63 }
     (b.serve (fun _ => none) (fun _ => true) true).2 = some none) ∧
    (let b : Bucket := { lvl := (List.replicate 8 0).set 7 1024 }
     (b.serve (fun p => if p = 7 then some { depth := 1 } else none) (fun _ => true) false).2 = some (some 7)) ∧
    (({} : Bucket).serve (fun _ => none) (fun _ => false) false).2 = none ∧
    on.memTime 12 = true ∧ on.power = .running ∧ (on.mem.waitingAt 12 waiting).length = 2 ∧ on.mem.waitingAt 12 [] = [] := by decide +kernel

theorem witness_CoresAndRingsAct :
    (on.clerkTime = true ∧ on.house.active.getLsbD (0 : CoreId).val = true ∧ on.house.spares = 28 :: [29, 30, 31] ∧
      28 ≠ (0 : CoreId).val) ∧
    (let s := State.at { on with house := { on.house with spares := [], wdog := 10 } } 10000000
     s.clerkTime = true ∧ s.house.active.getLsbD (0 : CoreId).val = true ∧ s.house.spares = [] ∧ s.house.wdog ≠ 0 ∧
       s.house.beats.getD 0 0 + 1000000 * s.house.wdog ≤ s.now) ∧
    (let s := State.at { on with start := { on.start with haltAt := some 0 } } 1000000
     s.clerkTime = true ∧ s.start.haltAt = some 0 ∧ 0 + 1000000 ≤ s.now) ∧
    (let s := State.at (on.modRing 7 fun r => { r with size := 16, head := 1 }) 10000
     s.clerkTime = true ∧ (s.ring 7).unread ≠ 0 ∧ (s.ring 7).told = false ∧ (s.ring 7).oldest + 10000 ≤ s.now ∧
       (s.ring 7).head = 1) := by decide

theorem witness_CoresAndRingsAct_late :
    let s := State.at { on with house := { on.house with wdog := 10 } } 10000000
    s.clerkTime = true ∧ s.house.active.getLsbD (0 : CoreId).val = true ∧ s.house.spares = 28 :: [29, 30, 31] ∧ s.house.wdog ≠ 0 ∧
      s.house.beats.getD 0 0 + 1000000 * s.house.wdog ≤ s.now := by decide

theorem witness_RetireCommandsAnswer :
    (on.clerkTime = true ∧ (on.bench ⟨0, 2⟩).ownerOf = none ∧ (on.bench b0).ownerOf ≠ none) ∧
    (on.port 7).state.toNat ≤ 1 ∧
    (let s := linked { state := 3 }
     s.clerkTime = true ∧ 1 < (s.port 0).state.toNat ∧ (s.port 0).serves 8 = none ∧ (s.port 0).swapping = none ∧
       (s.port 0).serves 0 = some 0 ∧ 3 ≤ (s.port 0).state.toNat) ∧
    (on.house.active.getLsbD 31 = false ∧ on.house.active.getLsbD 0 = true) := by decide

/-! Ports, starts, life cycle and flash -/

/-- The neighbour's identity block for port 0 of `linked`. -/
def neighbourBlock : IdentBlock := { hwType := 0x5708, coord := 1, dimX := 2, dimY := 1, dimZ := 1, dir := 1 }

/-- Port 0 after a time. -/
def linkedAt (x : Port) (ns : Nat) : State := State.at (linked x) ns

/-- The spare port in the given state. -/
def spared (x : Port) : State := { linked {} with ports := [{}, x] ++ List.replicate 6 {} }

theorem witness_PortsTrainAndServe :
    ((linked { state := 1 }).mayTrain 0 = true ∧ ((linked { state := 1 }).port 0).cause ≠ 6) ∧
    (let s := linkedAt { state := 1, cause := 6 } 1000000000
     s.mayTrain 0 = true ∧ (s.port 0).cause = 6 ∧ (s.port 0).downAt + 1000000000 ≤ s.now) ∧
    ((linked { state := 2 }).identityFits 0 neighbourBlock = true ∧
      (linked { state := 2 }).identityFits 0 { neighbourBlock with dir := 0 } = false ∧ ((linked { state := 2 }).port 0).state = 2) ∧
    (let x := ((linked { state := 2, identOk := true, everTrained := true }).port 0); x.state = 2 ∧ x.identOk = true ∧ x.everTrained = true) ∧
    (let x := ((linked { state := 2, identOk := true }).port 0); x.state = 2 ∧ x.identOk = true ∧ x.everTrained = false) ∧
    ((linkedAt { state := 2 } 200000000).port 0).trainAt + 200000000 ≤ (linkedAt { state := 2 } 200000000).now ∧
    (let s := spared { state := 3, myProbeDone := true, peerProbeDone := true }
     s.power = .running ∧ (1 : PortId).val < s.ports.length ∧ (s.port 1).state = 3 ∧ (s.port 1).myProbeDone = true ∧
       (s.port 1).peerProbeDone = true ∧ roleOf (s.trainGeo 1) 1 = 1) ∧
    (let s := linked { state := 3, myProbeDone := true, peerProbeDone := true }
     (s.port 0).state = 3 ∧ roleOf (s.trainGeo 0) 0 = 0 ∧ (s.part 0).loaded = true) ∧
    (let s := linked { state := 5 }
     s.power = .running ∧ (0 : PortId).val < s.ports.length ∧ s.supply.hold = false ∧ 1 < (s.port 0).state.toNat ∧ (s.port 0).retired = false ∧
       (s.port 0).state = 5) ∧
    (2 ≤ ((linked { state := 4 }).port 0).state.toNat ∧ ((linked { state := 4 }).port 0).state ≠ 5) := by decide

/-- A direction port that is down with its frames handed over to the spare. -/
def handedOver : State := { linked {} with
  ports := [{ state := 1, takeover := some (1, 0), held := [(3, msg 1), (4, msg 1)] }, { state := 5 }] ++ List.replicate 6 {} }

theorem witness_LanesAndLinksAct :
    (let x := ((linked { state := 3 }).port 0)
     3 ≤ x.state.toNat ∧ x.serves 7 = some 7 ∧ x.idleLane = some 8 ∧ x.replayAsked = false ∧ x.resend = none ∧ 64 < 65) ∧
    (let x := ((linked { state := 3, idleLane := none }).port 0); 3 ≤ x.state.toNat ∧ x.serves 0 = some 0 ∧ x.idleLane = none) ∧
    (let s := linkedAt { state := 5 } 3600000000000
     (s.port 0).state = 5 ∧ s.cx.recal ≠ 0 ∧ (s.port 0).recalAt + 60000000000 * s.cx.recal ≤ s.now ∧ (s.port 0).idleLane = some 8) ∧
    (let x := ((linked { state := 5, swapping := some (2, false) }).port 0); x.swapping = some (2, false) ∧ x.resend = none) ∧
    (let x := ((linked { state := 3, replayAsked := true }).port 0); 3 ≤ x.state.toNat ∧ x.replayAsked = true) ∧
    (let frame : List Byte := 1 :: List.replicate 15 0
     let block : List Byte := 0xC5 :: List.replicate 15 0
     unitIntact frame = false ∧ unitIsFrame frame = true ∧ unitIntact block = false ∧ unitIsFrame block = false) ∧
    (let s := linkedAt { state := 1, txq := [(none, { msg 1 with vc := 3, cls := true })] } 10000000
     s.supply.hold = false ∧ (s.port 0).state.toNat ≤ 2 ∧ ((s.port 0).txq.any fun e => frPair e.2 = 7) = true ∧
       (s.port 0).creditSince.getD 7 0 + 1000000 * s.creditMs ≤ s.now) ∧
    (4 ≤ (handedOver.port 1).state.toNat ∧ 65535 < 65536 ∧ (handedOver.port 0).state.toNat ≤ 1) ∧
    (handedOver.takeoverOn 1 = some (0, 0) ∧ (0 : PortId) ≠ 1) ∧
    ((State.at handedOver 10000).takeoverOn 1 = some (0, 0) ∧ 0 + 10000 ≤ (State.at handedOver 10000).now) ∧
    (let s := linkedAt { state := 5, txq := [(none, { msg 1 with vc := 3, cls := true })] } 10000000
     s.supply.hold = false ∧ 2 < (s.port 0).state.toNat ∧ ((s.port 0).txq.any fun e => frPair e.2 = 7) = true ∧
       (s.port 0).creditSince.getD 7 0 + 1000000 * s.creditMs ≤ s.now) := by decide +kernel

def reset (f : Start → Start) : State := { State.reset with start := f State.reset.start }

/-- After power is lost. -/
def dark (p : PowerState) (ledger : Nat) (life : LifeCycle) : State := { State.reset with
  power := p, nv := { State.reset.nv with ledger := ledger, life := life } }

theorem witness_ResetsStartTheModule :
    ((dark .unpowered 0 .maker).power = .unpowered ∧ 40000 ≤ 59500) ∧
    (on.power = .running ∧ on.porDone = true ∧ on.start.flBusy = none ∧ on.start.copying = false ∧ 19 < 20 ∧ 100 ≤ 100) ∧
    (let s := dark .inReset 2 .maker
     s.power = .inReset ∧ s.nv.nextLife.getD s.nv.life ≠ .void_ ∧ (0#2) ≠ 3 ∧ s.nv.ledger < 3) ∧
    (let s := dark .inReset 3 .field; s.power = .inReset ∧ s.nv.nextLife.getD s.nv.life ≠ .void_ ∧ 3 ≤ s.nv.ledger) := by decide

theorem witness_StartStagesAreSized (f : Start → Start) (ns : Nat) : Sized (reset f) ∧ Sized (State.at (reset f) ns) := by
  unfold Sized; exact ⟨⟨rfl, rfl, rfl, rfl, rfl, rfl, rfl, rfl⟩, rfl, rfl, rfl, rfl, rfl, rfl, rfl, rfl⟩

/-- Self-tests of two benches: row 1 of the first excluded, with the faulty cells given, and a unit of the second failed. -/
def cells (cs : List (Nat × Nat)) : List TestOutcome := [.pass cs [1] [] [] [], .fail 3]

theorem witness_StartStagesFollowEachOther :
    (let s := reset fun x => { x with stage := 14 }
     s.clerkTime = true ∧ s.benches.length = 136 ∧ 2 ≤ s.start.stage ∧ s.start.stage < 15 ∧ s.start.recovery = false ∧ s.start.done = false) ∧
    (let s := State.at (reset fun x => { x with stage := 3, clearPending := true }) 60000000000
     s.clerkTime = true ∧ s.benches.length = 136 ∧ s.start.clearPending = true ∧ s.start.doneAt + 60000000000 ≤ s.now ∧ s.start.recovery = false) ∧
    (let s := State.reset
     s.clerkTime = true ∧ s.benches.length = 136 ∧ s.start.stage = 0 ∧ s.start.failed = false ∧ (s.stack 12).lock = false ∧ s.nv.life ≠ .void_ ∧
       s.start.recovery = false ∧ s.start.bootSrc = 0 ∧ 128 ≤ 128) ∧
    (let s := reset fun x => { x with stage := 1 }
     s.clerkTime = true ∧ s.benches.length = 136 ∧ s.start.bootSrc = 0 ∧ s.start.stage = 1 ∧ s.start.failed = false ∧ s.start.copying = false ∧
       s.nv.life ≠ .return_ ∧ s.start.recovery = false ∧ s.start.selftestDone = false) ∧
    (let s := { reset (fun x => { x with stage := 1 }) with tileOn := [true, false, false, false] }
     s.tileIsOn 0 = true ∧ s.tileIsOn 3 = false ∧ (cells [(1, 2)])[b0.idx]? = some (.pass [(1, 2)] [1] [] [] []) ∧
       TestOutcome.passes (.pass [(1, 2)] [1] [] [] []) = true ∧ TestOutcome.passes (.pass [(3, 2)] [1] [] [] []) = false ∧
       (cells [(1, 2)])[b1.idx]? = some (.fail 3)) ∧
    (let s := State.at (reset fun x => { x with stage := 2 }) 600000000000
     s.start.recovery = false ∧ s.start.failed = false ∧ s.start.done = false ∧ s.nv.life ≠ .void_ ∧
       s.start.stageAt + 30000000000 ≤ s.now ∧ 600000000000 ≤ s.now) := by decide +kernel

theorem witness_LifeCycleCommandsAct :
    (State.reset.clerkTime = true ∧ (0#32) ≠ 0x57085708 ∧ State.reset.nv.life = .maker ∧ State.reset.loaderHolds = false) ∧
    (let s := { reset (fun x => { x with nonce := some (List.replicate 32 0) }) with nv := { State.reset.nv with life := .field } }
     s.clerkTime = true ∧ s.nv.life = .field ∧ s.nv.life ≠ .maker ∧ s.loaderHolds = false ∧ s.start.nonce = some (List.replicate 32 0)) ∧
    (on.clerkTime = true ∧ on.nv.life ≠ .void_ ∧ on.loaderHolds = true) ∧
    (let s := { reset (fun x => { x with stage := 1 }) with nv := { State.reset.nv with life := .return_ } }
     s.clerkTime = true ∧ s.start.stage = 1 ∧ s.start.failed = false ∧ s.nv.life = .return_ ∧ s.start.debugOpen = false ∧
       s.start.bootSrc = 0) := by decide

/-- A flash whose commands are about to end. -/
def flashing (j : FlashJob) : State := reset fun x => { x with flBusy := some j, sfdpOk := true, flSizeMib := 128 }

theorem witness_FlashCommandsAct :
    (State.reset.clerkTime = true ∧ Memory.wf 0xFF State.reset.nv.flash = true ∧ State.reset.start.flBusy = none ∧ 1 ≤ 65535 ∧
      flashRefused (reset fun x => { x with flAddr := settingsArea }).start.flAddr 4096 = false ∧ flashRefused 0 (4096 * 65535) = true) ∧
    (∀ op ∈ [1, 2, 3], let j : FlashJob := { op := op, count := 1, offset := 128 * 2 ^ 20 - 4096, buf := 0x18000000000 }
     (flashing j).clerkTime = true ∧ Memory.wf 0xFF (flashing j).nv.flash = true ∧ (flashing j).start.flBusy = some j ∧ (flashing j).start.sfdpOk = true ∧
       j.offset + 4096 * j.count ≤ (flashing j).start.flSizeMib * 2 ^ 20 ∧ (flashing j).house.commands = [] ∧
       inStaging j.offset (4096 * j.count) = false) ∧
    (let s := { reset (fun x => { x with copying := true }) with
       nv := { State.reset.nv with flash := memWrite 0xFF [] commitRecord (leBytes 4 64) } }
     s.clerkTime = true ∧ s.start.copying = true ∧ s.commitLen = some 64 ∧ Memory.wf 0xFF s.nv.flash = true ∧ 64 ≤ stagingArea) ∧
    (State.reset.start.keyReady = false ∧ State.reset.house.commands = []) := by decide

/-! Supply, heat and the counting house -/

/-- The running module with a supply. -/
def supplied (x : Supply) (ns : Nat) : State := State.at { on with supply := x } ns

theorem witness_RailsFollowTheirLimits :
    (on.clerkTime = true ∧ 600 ≤ bits (600#64).toNat 9 0 ∧ bits (900#64).toNat 9 0 ≤ 900 ∧ bits (900#64).toNat 9 0 % 10 = 0 ∧
      900 < bits (910#64).toNat 9 0 ∧ bits (605#64).toNat 9 0 % 10 ≠ 0 ∧ bits (599#64).toNat 9 0 < 600) ∧
    (on.tileIsOn (3 : TileId).val = true ∧ on.supply.hold = false ∧ (3 : TileId).val < on.supply.railNow.length) ∧
    (let s := supplied { boostSince := [some 5, none, none, none] } 10000000005
     s.clerkTime = true ∧ s.supply.boostSince.getD (0 : TileId).val none = some 5 ∧ 5 + 10000000000 ≤ s.now) ∧
    (let s := supplied { boostPast := [[(0, 15000000000)], [], [], []], boostSince := [some 15000000000, none, none, none] } 15000000000
     15000000000 ≤ s.boostTime 0 ∧ s.supply.boostSince.getD (0 : TileId).val none = some 15000000000) ∧
    (let s := supplied { denied := [true, false, false, false] } 0
     s.supply.denied.getD (0 : TileId).val false = true ∧ s.boostTime 0 < 15000000000) ∧
    ((1488 : Int) ≤ 1488 ∧ (1439 : Int) < 1440 ∧ ({ jCool := [9, 0, 0, 0] } : Supply).jCool.getD (0 : TileId).val 0 = 9) ∧
    (on.time.stepCount.length = 4 ∧ on.time.stepRate.length = 4 ∧ State.reset.tileIsOn (0 : TileId).val = false ∧ State.reset.clerkTime = true ∧
      on.tileIsOn b0.tile.val = true) := by decide

theorem witness_SupplyEventsAct :
    (on.power = .running ∧ 39999 < 40000 ∧ on.supply.dipSince = none ∧ on.supply.surgeSince = none ∧ 59500 < 59501) ∧
    (let s := supplied { dipSince := some 7, dipLow := 35000 } 1000007
     s.power = .running ∧ s.supply.hold = false ∧ s.supply.dipActed = false ∧ s.supply.dipSince = some 7 ∧ 7 + 1000000 ≤ s.now ∧
       30000 ≤ 30000 ∧ 29999 < 30000) ∧
    (let s := supplied { cap := .v70 } 10000000
     s.supply.cap = .v70 ∧ 35999 < 36000 ∧ s.supply.hold = false ∧ s.supply.cap ≠ .none ∧ s.supply.dipSince = none ∧
       s.supply.lowAt + 10000000 ≤ s.now) ∧
    (let s := supplied { hold := true } 100000
     s.supply.hold = true ∧ 32000 ≤ 32000 ∧ s.supply.holdSince + 100000 ≤ s.now ∧ s.cx.heldFrames = []) ∧
    (let s := supplied { hold := true } 20000000; s.supply.hold = true ∧ s.supply.holdSince + 20000000 ≤ s.now) ∧
    (let s := supplied { surgeSince := some 1 } 100000001; 59500 ≤ 59500 ∧ s.supply.surgeSince = some 1 ∧ 1 + 100000000 ≤ s.now) := by
  decide

theorem witness_HeatAndReferenceAct :
    (on.power = .running ∧ Sized on) ∧ on.stackOn 13 = true ∧
    ((1312 : Int) ≤ 1312 ∧ ∀ i < 4, (on.stack 13).hotAt.getD i 0 + 100000000 ≤ (State.at on 100000000).now) ∧
    (on.tileIsOn (0 : TileId).val = true ∧ homeTile 2 = some 0 ∧ (1680 : Int) ≤ 1680 ∧ (on.bench b0).partOf = some 0 ∧ b0.tile = 0 ∧
      (on.part 0).loaded = true ∧ homeTile 12 = none ∧ (640 : Int) < 641 ∧ (608 : Int) ≤ 608) ∧
    (on.time.clkMode.toNat < 2 ∧ on.time.holdover = false) ∧
    ({ on with time := { on.time with holdover := true } } : State).time.holdover = true := by unfold Sized; decide +kernel

/-- The manager's source. -/
def mgr : MsgSrc := { addr := 1, reqId := 0xFFFFFFFF }

/-- A served module: its management port up, its key ready, and its manager known. -/
def served : State := { on with
  house := { on.house with link := true, mgr := some 1 }
  start := { on.start with keyReady := true, sfdpOk := true, stage := 3 } }

theorem witness_DatagramsAreServed :
    (served.online = true ∧ served.byRelay = false ∧ mgr.relay = none ∧ Sized served) ∧
    (served.house.mgr = some mgr.addr ∧ served.servesFailed = false ∧ served.start.recovery = false ∧ served.house.commands = []) ∧
    (let s := { served with house := { served.house with mgr := none } }; s.online = true ∧ s.house.mgr = none ∧ 1 ≤ 32) ∧
    (served.start.keyReady = true ∧ 16 ≤ 64 ∧ (served.bench ⟨3, 33⟩).ownerOf = none ∧ served.house.lostUntold = 0) ∧
    (served.start.sfdpOk = true ∧ served.start.flBusy = none ∧ served.start.copying = false ∧
      commitRecord - stagingArea - 3584 + 3584 ≤ commitRecord - stagingArea) ∧
    (let s := { served with
       start := { served.start with bootSrc := 1, stage := 1 }
       house := { served.house with bootReqs := [(0, 512, 0), (512, 512, 0)], bootNext := 1024 } }
     s.online = true ∧ s.house.mgr = some mgr.addr ∧ s.fetching = true ∧ (512, 512) ∈ s.house.bootReqs.map (fun r => (r.1, r.2.1)) ∧
       ∀ r ∈ s.house.bootReqs, r.1 < s.house.bootNext) ∧
    (let d : List Byte := [0xA2, 0, 0x07, 1, 0x1A, 0xFF, 0xFF, 0xFF, 0xFF]
     uintKey (cborDatagram d).1 0 = some 7 ∧ uintKey (cborDatagram d).1 1 = some 0xFFFFFFFF ∧ uintKey (cborDatagram d).1 20 = none) := by
  unfold Sized; decide +kernel

/-- One member, at address 2, of the group of partition 0, in the table at the start of H0. -/
def grouped (f : PartInteg → PartInteg) (ns : Nat) : State := State.at { (served.modInteg 0 fun x => f { x with
    groupTable := 0x18000000000 / 64, groupCount := 1, verdict := 0 }) with
  cells := memWrite 0 [] (cellKey 12 1 0) ([2] ++ List.replicate 15 0 ++ [0, 0, 0, 3]) } ns

def member : MsgSrc := { addr := 2 }

theorem witness_MembersAndHouseTimersAct :
    (served.power = .running ∧ served.house.link = true ∧ served.byRelay = false ∧ member.relay = none ∧ Sized served) ∧
    (let s := { served with house := { served.house with mgr := none } }
     s.start.keyReady = true ∧ s.house.mgr = none ∧ s.house.helloAt ≤ s.now ∧ s.house.link = true) ∧
    (let s := { served with start := { served.start with bootSrc := 1, stage := 1 } }; s.fetching = true ∧ s.byRelay = false) ∧
    (let s := State.at { served with house := { served.house with commands := [{ cmd := .measure mgr [], since := 1 }] } } 1000000001
     s.house.commands = [{ cmd := .measure mgr [], since := 1 }] ∧ 1 + 1000000 * s.time.wtMgmt ≤ s.now ∧
       (mgmtSrc (.measure mgr [])).relay = none) ∧
    (let s := grouped id 0
     s.power = .running ∧ s.fromMember member = true ∧ (s.memberAddr 0 member).map (·.isReplica) = some true ∧ (s.part 0).loaded = true ∧
       (s.integOf 0).tallyStep < 2 ^ 64 - 1 ∧ (s.integOf 0).verdict ≠ 6 ∧ (s.integOf 0).tallies = [] ∧ (s.integOf 0).ready = [] ∧
       (s.integOf 0).barrierEpoch = BitVec.ofNat 16 0) ∧
    (let s := grouped (fun x => { x with verdict := 6 }) 1000000000
     (s.integOf 0).verdict = 6 ∧ (s.integOf 0).formedAt + 1000000 * s.integ.timeoutMs ≤ s.now) ∧
    (let s := { grouped id 0 with house := { served.house with peerOut := [{ dest := 2, typ := 0x20, part := 0, n := 9 }] } }
     s.fromMember member = true ∧
       s.house.peerOut.findIdx? (fun e => e.dest = member.addr && e.typ = 0x20 && e.part = 0 && e.n = 9) = some 0) := by
  unfold Sized; decide +kernel

/-! Integrity, registers and timers -/

/-- Bench 0 held for the examiner, with an arbiter run at bench 2. -/
def arbitrated (ns : Nat) : State := State.at { onB (fun x => { x with hold := .examiner }) with
  integ := { on.integ with runs := [{ held := 0, arb := 2, kind := .examiner, epoch := 1, copied := true }] } } ns

/-- A run for a disagreement of paired logic over a MERGE result: the bench gave 5, its second half 6, and the right sum is 5. -/
def disputed : ArbRun := {
  held := 0, arb := 2, kind := .paired, epoch := 1, copied := true
  order := { dec := { body := .merge {} }, checks := [{ kind := .paired, orig := [5], chk := [6], right := [5] }] } }

def disputing (copied : Bool) : State := { onB (fun x => { x with hold := .paired }) with
  integ := { on.integ with runs := [{ disputed with copied := copied }] } }

theorem witness_SelfTestsAndArbitersAct_verdicts :
    (let s := disputing true
     s.clerkTime = true ∧ s.runFor b0 = some disputed ∧ (s.bench b0).partOf = some disputed.part ∧ (s.part 0).loaded = true ∧
       (s.part 0).epoch = disputed.epoch ∧ (s.recompute disputed {}).1 = 1 ∧
       (s.recompute disputed { pair := some { result := 0, mask := 3 } }).1 = 2 ∧
       (s.recompute disputed { pair := some { result := 0, mask := 1 } }).1 = 3) ∧
    (let s := disputing false
     s.clerkTime = true ∧ Sized s ∧ s.runFor b0 = some { disputed with copied := false } ∧ disputed.arb < 136) ∧
    (let s := { onB (fun x => { x with hold := .paired, heldOrder := some {} }) with integ := { on.integ with arbEn := false } }
     s.clerkTime = true ∧ (s.bench b0).partOf = some 0 ∧ (s.bench b0).unjudged = true ∧ s.runFor b0 = none ∧ (s.part 0).loaded = true ∧
       (s.bench b0).holdSince + 2000000 ≤ (State.at s 2000000).now) := by unfold Sized; decide +kernel

theorem witness_SelfTestsAndArbitersAct :
    (on.clerkTime = true ∧ Sized on) ∧
    (let x := on.bench ⟨0, 2⟩
     on.tileIsOn 0 = true ∧ x.testing = false ∧ x.testPending = none ∧ x.mayTest = true) ∧
    (onB fun x => { x with testing := true }).bench b0 = { on.bench b0 with testing := true } ∧
    (on.bench b0).unjudged = false ∧
    (let s := onB fun x => { x with hold := .examiner, heldOrder := some {} }
     (s.bench b0).partOf = some 0 ∧ (s.bench b0).unjudged = true ∧ s.integ.arbEn = true ∧ s.runFor b0 = none ∧
       s.arbiterFor b0 0 = some ⟨0, 2⟩) ∧
    (let s := arbitrated 2000000
     s.clerkTime = true ∧ s.runFor b0 = some { held := 0, arb := 2, kind := .examiner, epoch := 1, copied := true } ∧
       (s.bench b0).partOf = some 0 ∧ (s.part 0).loaded = true ∧ (s.part 0).epoch = 1 ∧ (s.bench b0).hold ≠ .none ∧
       (s.bench b0).holdSince + 2000000 ≤ s.now) ∧
    (let s := onB fun x => { x with asg := .free, closingRinse := true }
     (s.bench b0).closingRinse = true ∧ (s.bench b0).testPending = none) := by unfold Sized; decide +kernel

theorem witness_ControlSpaceMisuseIsTicketed :
    on.clerkTime = true ∧ inCtl 0xF0FFFFFFFFF8 = true ∧ 0xF0FFFFFFFFF8 % 8 = 0 ∧ on.regFor 0xF0FFFFFFFFF8 = none ∧
      inCtl 0xF00000000004 = true ∧ 0xF00000000004 % 8 ≠ 0 ∧ on.house.active.getLsbD 0 = true ∧
      State.reset.tileIsOn (3 : TileId).val = false := by decide +kernel

theorem witness_OutsideAccessesAct :
    (on.clerkTime = true ∧ inCtl 0xF00002000000 = true ∧ 0xF00002000000 % 8 = 0) ∧
    (on.power ≠ .unpowered ∧ 0x01 ∈ sensorCodes ∧ 0xFF ∉ sensorCodes ∧ on.power = .running) := by decide +kernel

theorem witness_WatchTimersStopThePartition :
    (let s := State.at queued 10000005
     s.clerkTime = true ∧ (s.part 0).live = true ∧ (s.part 0).frozenSince = none ∧
       (s.part 0).seams[0]? = some { rcd := { src := 1, dst := 0 }, rows := [{}], since := 5 } ∧
       5 + 1000000 * (s.part 0).hdr.tSeamMs ≤ s.now ∧ s.benchOfLogical 0 0 = some b0 ∧ (s.bench b0).fault = none) ∧
    (let s := State.at (inSlot (.wait { thresh := 1 })) 10000000
     s.clerkTime = true ∧ (s.part 0).live = true ∧ (s.bench b0).partOf = some 0 ∧ (s.tokenWatch b0 0 0).isSome = true ∧
       0 + 1000000 * (s.part 0).hdr.tTokenMs ≤ s.now ∧ (s.bench b0).fault = none) ∧
    (let s := State.at booked 1000000
     s.clerkTime = true ∧ (s.part 0).live = true ∧
       (match (s.memRequests 0)[0]? with | some (MemWatch.line b va, since) => b = b0 && va = 0 && since = 0 | _ => false) = true ∧
       (s.bench b0).partOf = some 0 ∧ 0 + 100000 * (s.part 0).hdr.tMem ≤ s.now) ∧
    (let s := State.at (onP fun x => { x with pendReqs := [{ bench := 1, pa := 64 }] }) 1000000
     (match (s.memRequests 0)[0]? with | some (MemWatch.pending b pa, since) => b = 1 && pa = 64 && since = 0 | _ => false) = true ∧
       s.loader.phase = .idle ∧ 0 + 100000 * (s.part 0).hdr.tMem ≤ s.now) ∧
    (let s := State.at (onB fun x => { x with streams := [{}] }) 10000000
     s.clerkTime = true ∧ (s.part 0).live = true ∧ (s.benchesOf 0)[0]? = some b0 ∧ (s.bench b0).streams.head? = some {} ∧
       0 + 1000000 * (s.part 0).hdr.tSeamMs ≤ s.now) ∧
    (let s := State.at (onB fun x => { x with oobBase := 8, inflight := [{ dec := { body := .fetch {} } }, { ran := true, oob := [(0, 1)] }] }) 1000000
     s.clerkTime = true ∧ (s.part 0).live = true ∧
       (match (s.memRequests 0)[0]? with | some (MemWatch.order b _, since) => b = b0 && since = 0 | _ => false) = true ∧
       (match (s.memRequests 0)[1]? with | some (MemWatch.add b _, since) => b = b0 && since = 0 | _ => false) = true) := by decide +kernel

theorem witness_ResetKeepsTheInvariants : Canonical State.reset ∧ Sized State.reset := by
  unfold Canonical Sized; decide +kernel

theorem witness_LifeCycleNeverGoesBack :
    (dark .running 0 .void_).nv.life = .void_ ∧ (dark .running 0 .void_).nv.nextLife = none ∧ (dark .running 0 .field).nv.life ≠ .maker ∧
      (dark .running 0 .field).nv.nextLife ≠ some .maker := by decide


/-! Facts from the spec's own worked examples and tables -/

/-- 04, "Muslin, one FP48 output in four targets": 1 + 2^-24, and 500 in the two FP8 formats. -/
theorem test_press_rounds_outputs :
    let v := val48 0x3F8000008000
    (sFP32.conv .byFormat v none).1 = 0x3F800000 ∧ (sFP32.conv .byFormat v (some 0x6A1F0C33)).1 = 0x3F800000 ∧
      (sFP32.conv .byFormat v (some 0x9B2077E4)).1 = 0x3F800001 ∧ (sBF16.conv .byFormat v none).1 = 0x3F80 ∧
      (Fmt.conv .e4m3 v none).1 = 0x38 ∧ (Fmt.conv .e4m3 (val48 0x43FA00000000) none).1 = 0x7E ∧
      (Fmt.conv .e5m2 (val48 0x43FA00000000) none).1 = 0x60 := by decide +kernel

/-- 04, "Calico, one MXFP4 cell". -/
theorem test_press_mxfp4_cell :
    let p (w wscale a ascale : Nat) := prod (scaled .mxE2m1 w wscale) (scaled .mxE2m1 a ascale)
    (cellSum 0x3F8000000001 [p 7 0x7F 3 0x7E, p 9 0x7F 5 0x7E, p 6 0x80 1 0x7D]).1 = 0x40B800000000 := by decide +kernel

/-- 04, "Serge, cancellation along a column". -/
theorem test_press_cancels :
    let cell (pin a b : Nat) := (cellSum pin [prod (sBF16.decode a) (sBF16.decode b)]).1
    cell 0 0x4980 0x4A00 = 0x540000000000 ∧ cell 0x540000000000 0x3F80 0x3F80 = 0x540000000000 ∧
      cell 0x540000000000 0xC980 0x4A00 = 0 := by decide +kernel

/-- 04, "Gingham, one entry in each mode". -/
theorem test_reduce_modes :
    (sum16 0x3F80 [0x3380, 0x3380]).1 = 0x3F80 ∧
      (ebOf (val32 0x40400000) = 1 ∧ groupShift 1 2 32 = -26 ∧ quantQ 1 2 32 (val32 0x40400000) = 201326592 ∧
        quantQ 1 2 32 (val32 0xBE200000) = -10485760 ∧ quantQ 1 2 32 (val32 0x32000000) = 0 ∧
        (exactResult 1 2 32 190840832).1 = 0x40360000) ∧
      (let r := encodeBlock (List.replicate 16 0x3F000000 ++ List.replicate 16 0xBE800000) (List.replicate 32 0)
       r.1 = 0xFFFF0000 ∧ r.2.1 = 0x3600 ∧ r.2.2.1 = List.replicate 32 0x3E000000) := by decide +kernel

/-- 06, "Serge, an expert batch of 40 tokens": the plan of five rows for 40 tokens. -/
theorem test_compact_plan :
    let us := placeRuns 32 40 0 (planUnits 32 2 64 [(2, 43, 70), (0, 0, 40), (3, 113, 12), (1, 40, 3), (4, 125, 0)])
    us.map (·.kind) = [0, 0, 2, 2] ∧ us.map (·.loads) = [2, 1, 1, 1] ∧ us.map (·.runRow) = [0, 40, 80, 160] ∧
      us.map (·.records) = [1280, 1280, 2560, 2560] ∧
      us.map (fun u => u.segs.map (·.listRow)) = [[2], [0], [0, 2], [1, 3]] ∧
      us.map (fun u => u.segs.map (·.count)) = [[64], [32], [8, 6], [3, 12]] := by decide

/-- 09, "Muslin, routing six tokens": the routes in sorted order in row 10, the histogram, and the expert map. -/
def routed : State := onB fun x => { x with
  shelf := memWrite 0 (memWrite 0 [] 5120 ([(0, 0, 1), (0, 3, 0), (1, 1, 1), (1, 4, 0), (1, 5, 1), (2, 0, 0), (2, 1, 0), (2, 2, 0), (2, 3, 1),
    (2, 4, 1), (3, 2, 1), (3, 5, 0)].flatMap fun r => leBytes 4 r.1 ++ leBytes 4 (r.2.1 + 2 ^ 24 * r.2.2)))
    10240 ([2, 3, 5, 2].flatMap (leBytes 4)) }

theorem test_exchange_keeps_by_capacity :
    let x := routed.bench b0
    let d : DispDesc := { k := 2, tokens := 6, routes := 12, experts := 4, routeRow := 10, histRow := 20 }
    let w := walkRoutes x d false 2 (x.words 20 4) [(0, 0), (0, 1), (1, 0), (1, 1)]
    w.excess = [0, 1, 3, 0] ∧ w.oob = 0 ∧
      w.kept = [(0, 0, 0, 1), (0, 0, 3, 0), (0, 1, 1, 1), (0, 1, 4, 0), (1, 0, 0, 0), (1, 0, 1, 0), (1, 1, 2, 1), (1, 1, 5, 0)] := by
  decide +kernel

/-- 08, "Gingham, three views of one matrix": the descriptor of the element transpose; a FETCH at its end counts 10. -/
def transposeDesc : List Byte :=
  [0, 0, 0, 0x40, 0, 0, 0x23, 0, 0, 0, 0, 0x10, 0, 0, 0xFF, 0xFF, 0, 4, 0, 0, 0, 4, 0, 0, 1, 0, 0, 0, 1, 0, 0, 0,
    1, 0, 0, 0, 1, 0, 0, 0, 0, 4, 0, 0, 1, 0, 0, 0] ++ List.replicate 16 0

theorem test_descriptor_fields :
    let d := parseDesc transposeDesc
    d.base = 0x40000000 ∧ d.fmt = 3 ∧ d.rank = 2 ∧ d.extent = 0x100000 ∧ d.owner = 0xFFFF ∧ d.dim = [1024, 1024, 1, 1, 1, 1] ∧
      d.stride = [1024, 1, 0, 0, 0, 0] ∧ d.strict = false ∧ d.rsvd = false ∧ d.legal = true := by decide

/-- The next state of a command; none where it stops. -/
def after (c : Instr) (s : State) : Option State :=
  match exec c s with
  | .next t => some t
  | _ => none

theorem test_fetch_counts_out_of_bounds :
    let s := onB fun x => { x with
      dcount := 1, dcache := [(0, transposeDesc)], tlb := [{ va := 0x40000000, big := true, pa := 0x18000000000 }] }
    (after (.fetch b0 { row := 5, offset := 1048570, count := 16 } {}) s).map (fun t => ((t.bench b0).oobTotal, (t.bench b0).fault)) =
      some (10, none) := by decide +kernel

/-- 05, "Gingham, an odd-shaped product": the mask registers of T0.B00. -/
theorem test_mask_registers :
    let s := onB fun x => { x with masks := [{}, { rows := 0xFFFFFFF8, tail := 12 }, { cols := 0xFFFFFFC0 },
      { rows := 0xFFFFFFF8, cols := 0xFFFFFFC0, tail := 12 }, {}, {}, {}, {}] }
    (s.ctlRead 0xF01000040048).bus.data = 0x00000000FFFFFFF8 ∧ (s.ctlRead 0xF01000040058).bus.data = 0xFFFFFFC0FFFFFFF8 ∧
      (s.ctlRead 0xF01000040080).bus.data = 0x000000000C000C00 := by decide +kernel

/-- 13, "Serge, an in-place fold on two modules": what module A, peer word 0, does with its blocks. -/
theorem test_fold_plan :
    let d : TDesc := { fmt := 1, rank := 2, dim := [1024, 8, 1, 1, 1, 1], stride := [10, 0, 0, 0, 0, 0], extent := 8192, owner := 3 }
    let side (i : Nat) : FoldSide := { i := i, d := d, o := some {} }
    let plan := (List.range 8).filterMap fun k => foldClass (side 0) (side 1) 0 0 k (k / 4) (k % 4) (k % 2) (k / 2)
    plan = [.send 1 1, .move 2 1, .send 1 3, .receive 1 2, .receive 1 3] ∧ (stagedSlots (side 0) (side 1) 1024 plan).length = 3 := by decide

/-- 15, "Gingham, one port-down ticket": the keys that the example gives. -/
theorem test_port_down_ticket :
    let s := State.at { served with
      time := { served.time with hubRate := 1410 }, supply := { served.supply with hubJunction := 1032 }
      ports := List.replicate 3 {} ++ [{ state := 5 }] ++ List.replicate 4 {} } 73400620000
    ((after (.portUncorrectableBurst 3 65) s).bind (fun t => t.house.tickets.head?)).map (fun k =>
        decide (k.cls = 6 ∧ k.index = 3 ∧ k.event = 0x40 ∧ k.railMv = 800 ∧ k.temp = 1032 ∧ k.stepRate = 1410 ∧ k.time = 73400620000 ∧
          k.part = none ∧ k.detail = [(0, .num 2)])) = some true := by decide +kernel

/-- 16, "Muslin rides a sag and a dropout": the cap of a dip to 34 V. -/
theorem test_supply_cap_band :
    let s := supplied { dipSince := some 0, dipLow := 34000, railNow := [750, 750, 750, 750] } 1000000
    (after (.supplyCap 34000) s).map (fun t => (t.supply.cap, t.supply.railNow)) = some (.v60, [600, 600, 600, 600]) := by decide +kernel

/-- 03 R78: the published check value of a CRC with these parameters, over the digits 1 to 9. -/
theorem test_stream_crc : crc32c ((List.range 9).map fun i => BitVec.ofNat 8 (0x31 + i)) = 0xE3069283 := by decide +kernel

/-- 05 R151: the examiner finds an error of one unit of a long accumulator, and misses one that is a multiple of 8,191: a
column of two cells, one vector of ones. -/
def oneColumn (d : Int) : Pressed :=
  let ones : List Byte := (List.replicate 32 [0x80, 0x3F]).flatten
  { vecs := [(ones, [])]
    p := { af := .bf16, fwd := true, side := 2, r0 := 0, c0 := 0, k := cellK .bf16 false, two8 := false
           tile := { fmt := some .bf16, data := ones }, rowMasked := fun _ => false, colMasked := fun _ => false, tail := 0
           errs := [{ vec := 0, row := 1, col := 0, delta := d }] } }

theorem test_examiner_works_in_residues :
    let agrees (d : Int) : Bool := res ((oneColumn d).column 0).1 = res ((oneColumn d).column 0).2
    agrees 0 = true ∧ agrees 1 = false ∧ agrees (-8190) = false ∧ agrees 8191 = true := by decide +kernel

/-- 12 R329: a frame unit passes its own CRC, and fails it with one bit changed. -/
theorem test_frame_unit :
    unitIntact (frameUnit 5 (msg 1)) = true ∧ unitIntact ((frameUnit 5 (msg 1)).modify 20 (· ^^^ 1)) = false := by decide +kernel

/-! Single steps -/

/-- 06 R158: records with equal keys keep their order, also in descending order. -/
theorem test_sort_is_stable :
    sortRecs { desc_ := true } [0x200000005, 0x100000007, 0x900000005] = [0x100000007, 0x200000005, 0x900000005] := by decide

/-- 07 R218: an exclusive scan starts at zero. -/
theorem test_scan_exclusive : (scanInt 32 false true 0 [2, 3, 5, 2]).1 = [0, 2, 5, 10] := by decide

/-- 04 R119: two draws of one seed differ, and the same index draws the same. -/
theorem test_draw_repeats : draw 7 0 ≠ draw 7 1 ∧ draw 7 3 = draw 7 3 := by decide +kernel

/-- 11 R312: atomic values at 4 bytes: add wraps, signed minimum, compare and swap. -/
theorem test_atomic_values :
    atomicValue { atop := 1, width := 4, opnd := 1 } 0xFFFFFFFF = 0 ∧
      atomicValue { atop := 3, width := 4, signed := true, opnd := 1 } 0xFFFFFFFF = 0xFFFFFFFF ∧
      atomicValue { atop := 3, width := 4, opnd := 1 } 0xFFFFFFFF = 1 := by decide

/-- 18 R488: the test access port walks from reset to Shift-DR by 0, 1, 0, 0. -/
theorem test_tap_walk :
    ((((TapState.testLogicReset.next false).next true).next false).next false) = .shiftDr := by decide

/-- 02 R59: any five edges of the 156.25 MHz reference advance module time by 32 ns. -/
theorem test_reference_edges : (afterEdges 5 State.reset).time.now = 32 ∧ (afterEdges 6 State.reset).time.now = 38 := by decide +kernel

end Sys2Proof.Tests
end

/-! The state after reset (00 R15, 17 R457) -/

namespace Sys2Proof.Machine

open Sys2Proof

theorem getD_replicate_self {α : Type} (n i : Nat) (d : α) : (List.replicate n d).getD i d = d := by
  rw [List.getD_eq_getElem?_getD, List.getElem?_replicate]
  split <;> rfl

theorem State.reset_bench (b : BenchId) : State.reset.bench b = {} := getD_replicate_self ..

theorem State.reset_part (p : PartId) : State.reset.part p = {} := getD_replicate_self ..

theorem State.reset_port (n : PortId) : State.reset.port n = {} := getD_replicate_self ..

theorem State.reset_stack (k : StackId) : State.reset.stack k = {} := getD_replicate_self ..

theorem State.reset_tileIsOn (t : Nat) : State.reset.tileIsOn t = false := getD_replicate_self 4 t false

theorem State.reset_canonical : Safety.Canonical State.reset := by
  refine ⟨rfl, rfl, fun x hx => ?_⟩
  rw [List.eq_of_mem_replicate hx]
  rfl

theorem State.reset_sized : Safety.Sized State.reset := ⟨rfl, rfl, rfl, rfl, rfl, rfl, rfl, rfl⟩

end Sys2Proof.Machine

namespace Sys2Proof.Proofs

open Sys2Proof Sys2Proof.Machine

/-- Settles O57: each unit after reset is its default; the listed registers are read one by one. -/
theorem resetHoldsItsValues : Obligations.ResetHoldsItsValues :=
  ⟨State.reset_canonical, State.reset_sized, rfl, rfl, rfl, rfl, rfl, rfl,
    fun b => by rw [State.reset_bench],
    fun p => by rw [State.reset_part],
    fun n => by rw [State.reset_port],
    fun h => State.reset_tileIsOn h.val,
    fun k => by rw [State.reset_stack]; exact ⟨rfl, rfl, rfl, rfl, rfl⟩,
    by decide +kernel⟩

end Sys2Proof.Proofs

/-! Where the registers of control space stand, and what an access that reaches none of them does -/

namespace Sys2Proof.Machine

open Sys2Proof

/-! The blocks of registers (01 R37) -/

@[simp] theorem ro_off (o : Nat) (f) : (ro o f).off = o := rfl
@[simp] theorem rc_off (o : Nat) (f g) : (rc o f g).off = o := rfl
@[simp] theorem rw_off (o : Nat) (f g) : (rw o f g).off = o := rfl
@[simp] theorem wo_off (o : Nat) (g) : (wo o g).off = o := rfl

/-- Every register of a block stands at a multiple of 8. -/
def AlignedBlock (rs : List Register) : Prop := ∀ r ∈ rs, r.off % 8 = 0

theorem alignedBlock_nil : AlignedBlock [] := List.forall_mem_nil _

theorem alignedBlock_cons (r : Register) (rs : List Register) : AlignedBlock (r :: rs) ↔ r.off % 8 = 0 ∧ AlignedBlock rs :=
  List.forall_mem_cons

theorem alignedBlock_append (rs qs : List Register) : AlignedBlock (rs ++ qs) ↔ AlignedBlock rs ∧ AlignedBlock qs :=
  List.forall_mem_append

theorem alignedBlock_map {α : Type} (f : α → Register) (as : List α) : AlignedBlock (as.map f) ↔ ∀ a ∈ as, (f a).off % 8 = 0 :=
  List.forall_mem_map

theorem moduleRegs_aligned : AlignedBlock moduleRegs := by unfold AlignedBlock; decide +kernel
theorem houseRegs_aligned : AlignedBlock houseRegs := by unfold AlignedBlock; decide +kernel
theorem loaderRegs_aligned : AlignedBlock loaderRegs := by unfold AlignedBlock; decide +kernel
theorem crossingRegs_aligned : AlignedBlock crossingRegs := by unfold AlignedBlock; decide +kernel
theorem supplyRegs_aligned : AlignedBlock supplyRegs := by unfold AlignedBlock; decide +kernel
theorem timeRegs_aligned : AlignedBlock timeRegs := by unfold AlignedBlock; decide +kernel
theorem platformRegs_aligned : AlignedBlock platformRegs := by unfold AlignedBlock; decide +kernel
theorem stackRegs_aligned : ∀ k : StackId, AlignedBlock (stackRegs k) := by unfold AlignedBlock; decide +kernel
theorem senseRegs_aligned : ∀ t : TileId, AlignedBlock (senseRegs t) := by unfold AlignedBlock; decide +kernel
theorem cacheRegs_aligned : ∀ t : TileId, AlignedBlock (cacheRegs t) := by unfold AlignedBlock; decide +kernel

/-- The tables of a bench are gone through for any of the 136 at once. -/
theorem benchRegs_aligned (b : BenchId) : AlignedBlock (benchRegs b) := by
  simp only [benchRegs, benchQueueRegs, benchMangleRegs, benchDarnerRegs, benchMemoryRegs, benchCrossRegs, benchIntegRegs,
    alignedBlock_append, alignedBlock_map, alignedBlock_cons, alignedBlock_nil, ro_off, rc_off, rw_off, wo_off,
    and_true, true_and]
  exact ⟨fun n _ => by omega, fun m _ => by omega⟩

/-! The place of an address in its block (01 R37) -/

/-- A block of aligned registers, and a place in it as far from a multiple of 8 as the offset `o`. -/
def AlignedAt (o : Nat) (q : List Register × Nat) : Prop := AlignedBlock q.1 ∧ (q.1 = [] ∨ q.2 % 8 = o % 8)

theorem alignedAt_nil (o : Nat) : AlignedAt o ([], 0) := ⟨alignedBlock_nil, .inl rfl⟩

theorem tileBlock_aligned (t : TileId) (o : Nat) : AlignedAt o (tileBlock t o) := by
  unfold tileBlock
  split
  · exact ⟨benchRegs_aligned _, .inr (by dsimp only; omega)⟩
  split
  · exact ⟨cacheRegs_aligned t, .inr (by dsimp only; omega)⟩
  split
  · split
    · exact ⟨stackRegs_aligned _, .inr (by dsimp only; omega)⟩
    · exact alignedAt_nil o
  split
  · exact ⟨senseRegs_aligned t, .inr (by dsimp only; omega)⟩
  · exact alignedAt_nil o

theorem hubBlock_aligned (o : Nat) : AlignedAt o (hubBlock o) := by
  have place : o % 2 ^ 24 % 8 = o % 8 := by omega
  unfold hubBlock
  split
  · exact ⟨moduleRegs_aligned, .inr place⟩
  · exact ⟨houseRegs_aligned, .inr place⟩
  · exact ⟨loaderRegs_aligned, .inr place⟩
  · exact ⟨crossingRegs_aligned, .inr place⟩
  · dsimp only
    split
    · exact ⟨stackRegs_aligned _, .inr (by dsimp only; omega)⟩
    · exact alignedAt_nil o
  · exact ⟨supplyRegs_aligned, .inr place⟩
  · exact ⟨timeRegs_aligned, .inr place⟩
  · exact ⟨platformRegs_aligned, .inr place⟩
  · exact alignedAt_nil o

/-- The register at a place of a block. -/
def registerIn (q : List Register × Nat) : Option Register := q.1.find? fun r => r.off = q.2

/-- In a block of aligned registers a register is found only at an offset that is a multiple of 8. -/
theorem AlignedAt.mod_eq_zero {o : Nat} {q : List Register × Nat} (h : AlignedAt o q) (hr : (registerIn q).isSome = true) :
    o % 8 = 0 := by
  obtain ⟨r, hr⟩ := Option.isSome_iff_exists.1 hr
  have hmem : r ∈ q.1 := List.mem_of_find?_eq_some hr
  have hoff : r.off = q.2 := by simpa using List.find?_some hr
  obtain ⟨hall, hnil | hplace⟩ := h
  · exact absurd hmem (hnil ▸ List.not_mem_nil)
  · rw [← hplace, ← hoff, hall r hmem]

theorem inCtl_iff (a : Nat) : inCtl a = true ↔ ctlBase ≤ a ∧ a < ctlBase + ctlSize := by simp [inCtl]

/-- The windows of the tiles. -/
theorem tileOfCtl_eq_some_iff {a : Nat} {t : TileId} (ha : ctlBase ≤ a) :
    tileOfCtl a = some t ↔ ctlBase + tileWindows + 2 ^ 32 * t.val ≤ a ∧ a < ctlBase + tileWindows + 2 ^ 32 * (t.val + 1) := by
  have ht := t.isLt
  unfold tileOfCtl ctlBase tileWindows at *
  dsimp only
  split
  · rename_i h
    simp only [Bool.and_eq_true, decide_eq_true_eq] at h
    rw [Option.some_inj, Fin.ext_iff, Fin.val_ofNat]
    omega
  · rename_i h
    simp only [Bool.and_eq_true, decide_eq_true_eq, not_and] at h
    refine iff_of_false (by simp) ?_
    omega

/-! What each of the functions that find a register does, as an equation between functions: with the function that it asks first
made a variable, its cases are taken on that variable. At an address that is a variable the kernel would otherwise count down
the literals of `tileOfCtl`. -/

theorem regAt_eq : ∀ a, regAt a = registerIn ((tileOfCtl a).elim (hubBlock (a - ctlBase))
    fun t => tileBlock t ((a - ctlBase - tileWindows) % 2 ^ 32)) := by
  refine congrFun ?_
  delta regAt
  generalize tileOfCtl = tileOf, hubBlock = inHub, tileBlock = inTile
  revert tileOf inHub inTile
  exact id fun tileOf _ _ => funext fun a => by cases tileOf a <;> rfl

theorem State.regFor_eq (s : State) : ∀ a, s.regFor a = (tileOfCtl a).elim (regAt a)
    fun t => if s.tileIsOn t.val then regAt a else none := by
  refine congrFun ?_
  delta State.regFor
  generalize tileOfCtl = tileOf, regAt = reg
  revert tileOf reg
  exact id fun tileOf _ => funext fun a => by cases tileOf a <;> rfl

theorem State.ctlRead_eq (s : State) : ∀ a, s.ctlRead a = (s.regFor a).elim (s.misuse.reply 0)
    fun r => (r.clear s).reply (BitVec.ofNat 64 (r.read s)) := by
  refine congrFun ?_
  delta State.ctlRead
  generalize s.regFor = reg
  revert reg
  exact id fun reg => funext fun a => by cases reg a <;> rfl

theorem State.ctlWrite_eq (s : State) : ∀ a v, s.ctlWrite a v = (s.regFor a).elim s.misuse fun r => r.write v.toNat s := by
  refine fun a => congrFun ?_
  revert a
  refine congrFun ?_
  delta State.ctlWrite
  generalize s.regFor = reg
  revert reg
  exact id fun reg => funext fun a => funext fun v => by cases reg a <;> rfl

theorem regAt_of_hub {a : Nat} (h : tileOfCtl a = none) : regAt a = registerIn (hubBlock (a - ctlBase)) := by
  rw [regAt_eq, h, Option.elim_none]

theorem regAt_of_tile {a : Nat} {t : TileId} (h : tileOfCtl a = some t) :
    regAt a = registerIn (tileBlock t ((a - ctlBase - tileWindows) % 2 ^ 32)) := by
  rw [regAt_eq, h, Option.elim_some]

theorem State.regFor_of_hub (s : State) {a : Nat} (h : tileOfCtl a = none) : s.regFor a = regAt a := by
  rw [State.regFor_eq, h, Option.elim_none]

theorem State.regFor_of_tile (s : State) {a : Nat} {t : TileId} (h : tileOfCtl a = some t) :
    s.regFor a = if s.tileIsOn t.val then regAt a else none := by
  rw [State.regFor_eq, h, Option.elim_some]

/-- Every register of control space stands at a multiple of 8 (00 R12). -/
theorem regAt_aligned {a : Nat} (ha : ctlBase ≤ a) (h : (regAt a).isSome = true) : a % 8 = 0 := by
  cases ht : tileOfCtl a with
  | none =>
    rw [regAt_of_hub ht] at h
    have ho := (hubBlock_aligned _).mod_eq_zero h
    unfold ctlBase at *
    omega
  | some t =>
    rw [regAt_of_tile ht] at h
    have ho := (tileBlock_aligned t _).mod_eq_zero h
    have hw := (tileOfCtl_eq_some_iff ha).1 ht
    unfold ctlBase tileWindows at *
    omega

theorem State.regFor_aligned {s : State} {a : Nat} (ha : ctlBase ≤ a) (h : (s.regFor a).isSome = true) : a % 8 = 0 := by
  cases ht : tileOfCtl a with
  | none =>
    rw [s.regFor_of_hub ht] at h
    exact regAt_aligned ha h
  | some t =>
    rw [s.regFor_of_tile ht] at h
    split at h
    · exact regAt_aligned ha h
    · cases h

theorem State.regFor_of_tile_off {s : State} {a : Nat} {t : TileId} (ha : tileOfCtl a = some t) (off : s.tileIsOn t.val = false) :
    s.regFor a = none := by
  rw [s.regFor_of_tile ha, off]
  exact if_neg Bool.false_ne_true

/-! What an access does (00 R12, R13; 01 R38) -/

theorem State.ctlRead_of_unassigned {s : State} {a : Nat} (h : s.regFor a = none) : s.ctlRead a = s.misuse.reply 0 := by
  rw [State.ctlRead_eq, h, Option.elim_none]

theorem State.ctlWrite_of_unassigned {s : State} {a : Nat} (h : s.regFor a = none) (v : BitVec 64) : s.ctlWrite a v = s.misuse := by
  rw [State.ctlWrite_eq, h, Option.elim_none]

section Accesses

variable {s : State} (ht : s.clerkTime = true) {a : Nat} (ha : inCtl a = true)

include ht in
theorem State.coreRuns_of_active {c : CoreId} (hc : s.house.active.getLsbD c.val = true) : s.coreRuns c = true := by
  simp only [State.clerkTime, Bool.and_eq_true] at ht
  simp [State.coreRuns, hc, of_decide_eq_true ht.1]

include ht ha

theorem exec_controlSpaceMisuse {width : Nat} (hw : ctlAligned a width = false) (write : Bool) :
    exec (.controlSpaceMisuse a width write) s = .next (if write then s.misuse else s.misuse.reply 0) := by
  change execControlSpaceMisuse a width write s = _
  simp [execControlSpaceMisuse, ht, ha, hw]

theorem exec_controlSpaceUnassigned (h8 : a % 8 = 0) (hr : s.regFor a = none) (write : Bool) :
    exec (.controlSpaceUnassigned a write) s = .next (if write then s.misuse else s.misuse.reply 0) := by
  change execControlSpaceUnassigned a write s = _
  simp [execControlSpaceUnassigned, ht, ha, h8, hr]

theorem exec_registerWrite (h8 : a % 8 = 0) (v : BitVec 64) : exec (.registerWrite a v) s = .next (s.ctlWrite a v) := by
  change execRegisterWrite a v s = _
  simp [execRegisterWrite, ht, ha, h8]

variable {c : CoreId} (hc : s.house.active.getLsbD c.val = true)

include hc

theorem exec_clerkAccess_load_ctl (width : Nat) :
    exec (.clerkAccess c a (.load width)) s = .next (if ctlAligned a width then s.ctlRead a else s.misuse.reply 0) := by
  change execClerkAccess c a (.load width) s = _
  simp [execClerkAccess, ht, ha, State.coreRuns_of_active ht hc]

theorem exec_clerkAccess_store_ctl (width : Nat) (v : BitVec 64) :
    exec (.clerkAccess c a (.store width v)) s = .next (if ctlAligned a width then s.ctlWrite a v else s.misuse) := by
  change execClerkAccess c a (.store width v) s = _
  simp [execClerkAccess, ht, ha, State.coreRuns_of_active ht hc]

end Accesses

theorem ctlAligned_eq_false {a width : Nat} (h : width ≠ 8 ∨ a % 8 ≠ 0) : ctlAligned a width = false := by
  simp only [ctlAligned, Bool.and_eq_false_iff, decide_eq_false_iff_not]
  exact h

theorem ctlAligned_eight {a : Nat} (h : a % 8 = 0) : ctlAligned a 8 = true := by simp [ctlAligned, h]

end Sys2Proof.Machine

namespace Sys2Proof.Proofs

open Sys2Proof Sys2Proof.Machine

/-- Settles O54: no register stands off a multiple of 8 or in the window of a tile that is off, and an access that reaches
none is answered by the ticket and the zero reply. -/
theorem controlSpaceMisuseIsTicketed : Obligations.ControlSpaceMisuseIsTicketed := by
  intro s ht addr ha
  have hbase : ctlBase ≤ addr := ((inCtl_iff addr).1 ha).1
  refine ⟨State.regFor_aligned hbase, fun h off lo hi => ?_, fun width hw => ?_, fun h8 hr => ?_⟩
  · exact State.regFor_of_tile_off ((tileOfCtl_eq_some_iff hbase).2 ⟨lo, hi⟩) off
  · have hw := ctlAligned_eq_false hw
    refine ⟨exec_controlSpaceMisuse ht ha hw true, exec_controlSpaceMisuse ht ha hw false, fun c hc => ⟨fun v => ?_, ?_⟩⟩
    · rw [exec_clerkAccess_store_ctl ht ha hc, hw]
      rfl
    · rw [exec_clerkAccess_load_ctl ht ha hc, hw]
      rfl
  · have hw := ctlAligned_eight h8
    refine ⟨exec_controlSpaceUnassigned ht ha h8 hr true, exec_controlSpaceUnassigned ht ha h8 hr false, fun v => ?_,
      fun c hc => ⟨fun v => ?_, ?_⟩⟩
    · rw [exec_registerWrite ht ha h8, State.ctlWrite_of_unassigned hr]
      rfl
    · rw [exec_clerkAccess_store_ctl ht ha hc, hw, if_pos rfl, State.ctlWrite_of_unassigned hr]
      rfl
    · rw [exec_clerkAccess_load_ctl ht ha hc, hw, if_pos rfl, State.ctlRead_of_unassigned hr]
      rfl

end Sys2Proof.Proofs

/-! Accesses from outside: the sideband, the test access port -/

namespace Sys2Proof.Machine

open Sys2Proof

/-! Stores to single registers (00 R13): at an address that is given the map is evaluated. -/

theorem State.ctlWrite_loaderSrc (s : State) (v : BitVec 64) :
    s.ctlWrite 0xF00002000000 v = { s with loader := { s.loader with src := bits v.toNat 47 0 } } := rfl

theorem State.ctlWrite_loaderLen (s : State) (v : BitVec 64) :
    s.ctlWrite 0xF00002000008 v = { s with loader := { s.loader with len := bits v.toNat 20 0 } } := rfl

theorem State.ctlWrite_moduleTime (s : State) (v : BitVec 64) : s.ctlWrite 0xF00007000000 v = s := rfl

theorem State.ctlWrite_moduleId (s : State) (v : BitVec 64) : s.ctlWrite 0xF00000000000 v = s := rfl

/-! The test access port (18 R488) -/

theorem State.tapRise_state (s : State) (tms tdi : Bool) : (s.tapRise tms tdi).tap.state = s.tap.state.next tms := by
  unfold State.tapRise
  refine congrArg (TapState.next · tms) ?_
  split <;> rfl

/-- Five clocks with TMS high reach the reset state from every state (IEEE 1149.1). -/
theorem TapState.next_five_times_high (q : TapState) :
    ((((q.next true).next true).next true).next true).next true = .testLogicReset := by
  cases q <;> rfl

theorem exec_tck {s : State} (hp : s.power ≠ .unpowered) (rising tms tdi : Bool) :
    exec (.tck rising tms tdi) s = .next (if rising then s.tapRise tms tdi else s.tapFall) := by
  change execTck rising tms tdi s = _
  exact if_neg hp

theorem exec_trstN {s : State} (hp : s.power ≠ .unpowered) : exec .trstN s = .next { s with tap := {} } := by
  change execTrstN s = _
  exact if_neg hp

/-! The sideband (15 R438) -/

theorem exec_smbusReadWord_listed {s : State} (hp : s.power ≠ .unpowered) {cmd : Nat} (hc : cmd ∈ sensorCodes) :
    ∃ pecv, exec (.smbusReadWord 0x5C cmd) s = .next { s with smbus := some (s.sensor cmd, pecv) } := by
  change ∃ pecv, execSmbusReadWord 0x5C cmd s = _
  unfold execSmbusReadWord
  rw [if_neg hp, if_neg (by simpa using hc)]
  exact ⟨_, rfl⟩

theorem exec_smbusReadWord_other {s : State} (hp : s.power ≠ .unpowered) {addr cmd : Nat} (h : addr ≠ 0x5C ∨ cmd ∉ sensorCodes) :
    exec (.smbusReadWord addr cmd) s = .next { s with smbus := none } := by
  change execSmbusReadWord addr cmd s = _
  unfold execSmbusReadWord
  rw [if_neg hp, if_pos (by simpa using h)]

/-! Renewal of the sensors (15 R438, R439) -/

/-- A table of one value for each code gives that value at each of its codes. -/
theorem State.sensor_of_table {s : State} {codes : List Nat} {f : Nat → BitVec 16} (h : s.sensors = codes.map fun c => (c, f c))
    {c : Nat} (hc : c ∈ codes) : s.sensor c = f c := by
  have found : s.sensors.find? (fun e => e.1 = c) = some (c, f c) := by
    rw [h]
    clear h
    induction codes with
    | nil => cases hc
    | cons k ks ih =>
      by_cases hk : k = c
      · simp [hk]
      · simpa [hk] using ih (List.mem_of_ne_of_mem (Ne.symm hk) hc)
  simp [State.sensor, found]

/-- What a renewal takes from its measurements and what the temperatures of the stacks leave alone. -/
def State.measured (s : State) : List Bench × Mem × Nat × Nat × Int × Int :=
  (s.benches, s.cells, s.supply.mv, s.supply.current, s.supply.coolant, s.supply.hubJunction)

theorem State.moveRail_measured (s : State) (t : TileId) (mv : Nat) : (s.moveRail t mv).measured = s.measured := by
  simp only [State.moveRail, Supply.boost]
  split
  · rfl
  · split
    · rfl
    · split <;> rfl

theorem State.setRail_measured (s : State) (t : TileId) : (s.setRail t).measured = s.measured := by
  unfold State.setRail
  split
  · rfl
  · exact s.moveRail_measured t _

theorem State.railUnder_measured (s : State) (k : StackId) : (s.railUnder k).measured = s.measured := by
  unfold State.railUnder
  split
  · exact s.setRail_measured _
  · rfl

theorem State.raise_measured (s : State) (cls index event : Nat) : (s.raise cls index event).measured = s.measured := by
  simp [State.measured]

theorem State.stackSample_measured (s : State) (k : StackId) (temp : Int) : (s.stackSample k temp).measured = s.measured := by
  unfold State.stackSample
  dsimp only
  split
  · exact (State.raise_measured ..).trans (State.railUnder_measured ..)
  · exact State.railUnder_measured ..

/-- The state of a renewal once the measurements are taken, before the table of sensors is written. -/
def State.taking (s : State) (v : Measured) : State :=
  let s := s.sample v.mv
  let s := { s with supply := { s.supply with current := v.current, hubJunction := v.hubJunction, coolant := v.coolant } }
  allStacks.foldl (fun s k =>
    match v.stackTemp[k.val]? with
    | some t => if s.stackOn k then s.stackSample k t else s
    | none => s) s

/-- The state that a renewal leaves. -/
def State.renewed (s : State) (v : Measured) : State :=
  { s.taking v with sensors := sensorCodes.map fun c => (c, (s.taking v).sensorOf v c) }

theorem State.renewed_sensor (s : State) (v : Measured) {c : Nat} (hc : c ∈ sensorCodes) :
    (s.renewed v).sensor c = (s.renewed v).sensorOf v c :=
  State.sensor_of_table (f := (s.taking v).sensorOf v) rfl hc

theorem exec_sensorRenew {s : State} (hp : s.power = .running) (v : Measured) : exec (.sensorRenew v) s = .next (s.renewed v) := by
  change execSensorRenew v s = _
  exact if_neg fun h => h hp

theorem State.taking_measured (s : State) (v : Measured) :
    (s.taking v).measured = (s.benches, s.cells, v.mv, v.current, v.coolant, v.hubJunction) := by
  unfold State.taking
  refine List.foldlRecOn (motive := fun t => State.measured t = _) allStacks _ rfl fun t ht k _ => ?_
  split
  · split
    · exact (t.stackSample_measured k _).trans ht
    · exact ht
  · exact ht

end Sys2Proof.Machine

namespace Sys2Proof.Proofs

open Sys2Proof Sys2Proof.Machine

/-- Settles O55: the stores by what the register at each address does, the renewal by what the stacks' samples leave of the
measurements, the test port by the cases of its controller. -/
theorem outsideAccessesAct : Obligations.OutsideAccessesAct := by
  refine fun s => ⟨fun ht => ?stores, fun hp => ?ports, fun hp v => ?renewal, TapState.next_five_times_high⟩
  case stores =>
    refine ⟨fun addr v ha h8 => exec_registerWrite ht ha h8 v, fun v => ?_, fun v => ?_, fun v => ?_, fun v => ?_⟩
    · rw [exec_registerWrite ht rfl rfl, State.ctlWrite_loaderSrc]
    · rw [exec_registerWrite ht rfl rfl, State.ctlWrite_loaderLen]
    · rw [exec_registerWrite ht rfl rfl, State.ctlWrite_moduleTime]
    · rw [exec_registerWrite ht rfl rfl, State.ctlWrite_moduleId]
  case ports =>
    refine ⟨fun cmd hc => exec_smbusReadWord_listed hp hc, fun addr cmd h => exec_smbusReadWord_other hp h, exec_trstN hp,
      fun rising tms tdi => ?_⟩
    cases rising with
    | false => exact ⟨s.tapFall, exec_tck hp false tms tdi, rfl, rfl, rfl, rfl⟩
    | true => exact ⟨s.tapRise tms tdi, exec_tck hp true tms tdi, s.tapRise_state tms tdi, rfl, rfl, rfl⟩
  case renewal =>
    have hm := s.taking_measured v
    simp only [State.measured, Prod.mk.injEq] at hm
    obtain ⟨hbenches, hcells, hmv, hcurrent, hcoolant, hhub⟩ := hm
    exact ⟨s.renewed v, exec_sensorRenew hp v, hmv, hcurrent, hcoolant, hhub, fun c hc => s.renewed_sensor v hc,
      s.renewed_sensor v (c := 0x01) (by decide), hcells, hbenches⟩

end Sys2Proof.Proofs

/-! The resets and reset release -/

namespace Sys2Proof.Machine

open Sys2Proof

/-! What survives a reset (01 R22; 17 R458) -/

/-- A reset can touch nothing of the non-volatile store but the flash. -/
theorem State.survives_eq (s : State) : ∃ flash, s.survives = { s.nv with flash := flash } := by
  unfold State.survives
  cases s.start.flBusy with
  | none =>
    dsimp only
    split <;> exact ⟨_, rfl⟩
  | some j =>
    dsimp only
    split
    · split <;> exact ⟨_, rfl⟩
    · split <;> exact ⟨_, rfl⟩

/-- A flash that nothing was writing survives whole. -/
theorem State.survives_of_idle {s : State} (hb : s.start.flBusy = none) (hc : s.start.copying = false) : s.survives = s.nv := by
  simp [State.survives, hb, hc]

/-! MOD_PWRGD (18 R486) -/

theorem State.modPwrgd_of_unpowered {s : State} (hp : s.power = .unpowered) : s.modPwrgd = false := by
  simp [State.modPwrgd, hp]

theorem State.modPwrgd_of_running {s : State} (hp : s.power = .running) : s.modPwrgd = true := by
  simp [State.modPwrgd, hp]

theorem State.modPwrgd_of_inReset {s : State} (hp : s.power = .inReset) (hd : s.porDone = true) : s.modPwrgd = true := by
  simp [State.modPwrgd, hp, hd]

/-! Power-on and the reset pin (16 R441; 17 R456) -/

theorem exec_powerOnReset {s : State} (hp : s.power = .unpowered) {mv : Nat} (lo : 40000 ≤ mv) (hi : mv ≤ 59500) :
    exec (.powerOnReset mv) s = .next { s with power := .inReset, supply := { s.supply with mv := mv } } := by
  change execPowerOnReset mv s = _
  simp [execPowerOnReset, hp, Nat.not_lt.2 lo, Nat.not_lt.2 hi]

theorem exec_modReset_short (s : State) {lowUs : Nat} (hl : lowUs < 20) (acts : Bool) : exec (.modReset lowUs acts) s = .next s := by
  change execModReset lowUs acts s = _
  simp [execModReset, hl]

/-- A pulse of 100 microseconds or more always acts. -/
theorem exec_modReset_long {s : State} (hp : s.power ≠ .unpowered) {lowUs : Nat} (hl : 100 ≤ lowUs) (acts : Bool) :
    exec (.modReset lowUs acts) s =
      .next (if s.power = .inReset then { s with resetPin := true } else { s.blank .inReset with resetPin := true }) := by
  change execModReset lowUs acts s = _
  have long : ¬ lowUs < 20 := by omega
  simp only [execModReset, hp, long, Nat.not_lt.2 hl, decide_false, Bool.false_and, Bool.or_self, Bool.false_eq_true, if_false]
  split <;> rfl

/-! Reset release (17 R457, R459) -/

/-- What reset release settles apart from the ledger's count and recovery mode, and what a ticket and the ledger's check leave
alone. -/
def State.released (s : State) :
    PowerState × Bool × Bool × ModTime × BitVec 2 × BitVec 32 × LifeCycle × Option LifeCycle × Nat × Mem :=
  (s.power, s.resetPin, s.porDone, s.time, s.start.bootSrc, s.house.active, s.nv.life, s.nv.nextLife, s.nv.arbCount, s.nv.flash)

theorem State.raise_released (s : State) (cls index event : Nat) (part : Option PartId) (detail : List (Nat × Detail)) :
    (s.raise cls index event part detail).released = s.released := by
  simp [State.released]

theorem State.ledgerCheck_released (s : State) : s.ledgerCheck.released = s.released := by
  unfold State.ledgerCheck
  dsimp only
  split
  · rfl
  · split
    · rfl
    · split
      · exact s.raise_released ..
      · rfl

/-- Below 3 failed starts the attempt is counted; the ticket of an earlier one leaves the rest. -/
theorem State.ledgerCheck_counts {s : State} (hv : s.nv.life ≠ .void_) (hb : s.start.bootSrc ≠ 3) (hl : s.nv.ledger < 3) :
    s.ledgerCheck.nv.ledger = s.nv.ledger + 1 ∧ s.ledgerCheck.start = s.start := by
  have count : min 15 (s.nv.ledger + 1) = s.nv.ledger + 1 := by omega
  simp only [State.ledgerCheck, hv, hb, Nat.not_le.2 hl, count, beq_iff_eq, decide_false, Bool.or_false, if_false]
  split <;> simp

theorem State.ledgerCheck_recovers {s : State} (hv : s.nv.life ≠ .void_) (h : s.start.bootSrc = 3 ∨ 3 ≤ s.nv.ledger) :
    s.ledgerCheck = { s with start := { s.start with recovery := true } } := by
  have asked : (s.start.bootSrc == 3 || decide (3 ≤ s.nv.ledger)) = true := by simpa using h
  simp only [State.ledgerCheck, hv, asked, if_false, if_true]

/-- The state in which the ledger is read at reset release: the straps are sampled, a RETURN burnt before has taken effect, stage 0
runs on `core`, and a reserved clock mode has its ticket. -/
def State.strapped (s : State) (straps : Straps) (core : CoreId) : State :=
  let t := { s with
    power := .running, porDone := true, resetPin := false, freeCtr := s.freeCtr + 1
    nv := { s.nv with life := s.nv.nextLife.getD s.nv.life, nextLife := none }
    time := { s.time with clkMode := straps.clkMode }
    start := { s.start with bootSrc := straps.bootSrc }
    house := { s.house with active := 1#32 <<< core.val, mac := Config.macAddr s.freeCtr, iid := Config.interfaceId s.freeCtr } }
  if straps.clkMode = 3 then t.raise 0 0 0x0003 else t

theorem exec_resetRelease {s : State} (hp : s.power = .inReset) (straps : Straps) (core : CoreId) :
    exec (.resetRelease straps core) s = .next (s.strapped straps core).ledgerCheck := by
  change execResetRelease straps core s = _
  exact if_neg fun h => h hp

section Strapped

variable (s : State) (straps : Straps) (core : CoreId)

theorem State.strapped_released : (s.strapped straps core).released =
    (.running, false, true, { s.time with clkMode := straps.clkMode }, straps.bootSrc, 1#32 <<< core.val,
      s.nv.nextLife.getD s.nv.life, none, s.nv.arbCount, s.nv.flash) := by
  unfold State.strapped
  dsimp only
  split
  · exact State.raise_released ..
  · rfl

@[simp] theorem State.strapped_nv :
    (s.strapped straps core).nv = { s.nv with life := s.nv.nextLife.getD s.nv.life, nextLife := none } := by
  unfold State.strapped
  dsimp only
  split
  · rw [State.raise_nv]
  · rfl

@[simp] theorem State.strapped_start : (s.strapped straps core).start = { s.start with bootSrc := straps.bootSrc } := by
  unfold State.strapped
  dsimp only
  split
  · rw [State.raise_start]
  · rfl

end Strapped

end Sys2Proof.Machine

namespace Sys2Proof.Proofs

open Sys2Proof Sys2Proof.Machine

/-- Settles O44: the pin by what survives its reset, reset release by what the straps give and what the ledger's check adds. -/
theorem resetsStartTheModule : Obligations.ResetsStartTheModule := by
  refine fun s => ⟨fun mv hp lo hi => exec_powerOnReset hp lo hi, fun lowUs acts hp hl => ?pulse,
    fun lowUs _ hl => exec_modReset_short s hl true, fun lowUs acts hp hl => ?held,
    State.modPwrgd_of_unpowered, State.modPwrgd_of_running, fun bootSrc clkMode core hp => ?release⟩
  case pulse =>
    refine ⟨_, exec_modReset_long (by simp [hp]) hl acts, ?_⟩
    rw [if_neg (by simp [hp])]
    obtain ⟨flash, hnv⟩ := s.survives_eq
    have nv : ({ s.blank .inReset with resetPin := true } : State).nv = { s.nv with flash := flash } := hnv
    refine ⟨rfl, by rw [nv], by rw [nv], by rw [nv], by rw [nv], rfl,
      fun hb hc => congrArg NonVol.flash (State.survives_of_idle hb hc), rfl, rfl, rfl, rfl, rfl, rfl, rfl, rfl, rfl, rfl, rfl,
      rfl, rfl, rfl, rfl, fun hd => State.modPwrgd_of_inReset rfl hd⟩
  case held => rw [exec_modReset_long (by simp [hp]) hl acts, if_pos hp]
  case release =>
    have hr := (s.strapped ⟨bootSrc, clkMode⟩ core).ledgerCheck_released.trans (s.strapped_released ⟨bootSrc, clkMode⟩ core)
    simp only [State.released, Prod.mk.injEq] at hr
    obtain ⟨hpower, hpin, hpor, htime, hsrc, hcore, hlife, hnext, harb, hflash⟩ := hr
    have life : (s.strapped ⟨bootSrc, clkMode⟩ core).ledgerCheck.nv.life = (s.strapped ⟨bootSrc, clkMode⟩ core).nv.life := by
      rw [hlife, State.strapped_nv]
    refine ⟨_, exec_resetRelease hp _ core, hpower, hpin, hpor, by rw [htime], by rw [htime], hsrc, hcore, hlife, hnext, harb,
      hflash, fun hv hb hl => ?_, fun hv h => ?_⟩ <;> rw [life] at hv
    · obtain ⟨hcount, hstart⟩ := State.ledgerCheck_counts (s := s.strapped ⟨bootSrc, clkMode⟩ core) hv
        (by simpa using hb) (by simpa using hl)
      exact ⟨by simpa using hcount, by simp [hstart]⟩
    · rw [State.ledgerCheck_recovers hv (by simpa using h)]
      exact ⟨by simp, rfl⟩

end Sys2Proof.Proofs

/-! Changes of one unit after another -/

namespace Sys2Proof.Machine

open Sys2Proof

/-- What each step of a fold keeps, the fold keeps. -/
theorem foldl_keeps {σ α β : Type} {f : σ → α → σ} {g : σ → β} (h : ∀ s a, g (f s a) = g s) (as : List α) (s : σ) :
    g (as.foldl f s) = g s := by
  induction as generalizing s with
  | nil => rfl
  | cons a as ih => exact (ih (f s a)).trans (h s a)

theorem benchOfIdx_idx (b : BenchId) : benchOfIdx b.idx = some b := by
  obtain ⟨⟨t, ht⟩, ⟨p, hp⟩⟩ := b
  have ht' : (34 * t + p) / 34 = t := by omega
  have hp' : (34 * t + p) % 34 = p := by omega
  simp [benchOfIdx, BenchId.idx, ht', hp', ht]

theorem mem_allBenches (b : BenchId) : b ∈ allBenches :=
  List.mem_filterMap.mpr ⟨b.idx, List.mem_range.mpr (BenchId.idx_lt b), benchOfIdx_idx b⟩

theorem allBenches_nodup : allBenches.Nodup := by decide +kernel

/-- A bench that is not the default has its place among the benches. -/
theorem State.idx_lt_of_bench_ne {s : State} {b : BenchId} (h : s.bench b ≠ {}) : b.idx < s.benches.length := by
  refine Decidable.byContradiction fun hn => h ?_
  simp [State.bench, List.getD_eq_getElem?_getD, List.getElem?_eq_none (Nat.le_of_not_lt hn)]

/-- A partition that is not the default has its place among the partitions. -/
theorem State.val_lt_of_part_ne {s : State} {p : PartId} (h : s.part p ≠ {}) : p.val < s.parts.length := by
  refine Decidable.byContradiction fun hn => h ?_
  simp [State.part, List.getD_eq_getElem?_getD, List.getElem?_eq_none (Nat.le_of_not_lt hn)]

theorem State.modBench_congr {s : State} {b : BenchId} {f g : Bench → Bench} (h : f (s.bench b) = g (s.bench b)) :
    s.modBench b f = s.modBench b g := by
  rw [← State.setBench_bench, h, State.setBench_bench]

theorem State.modBench_id {s : State} {b : BenchId} {f : Bench → Bench} (h : f (s.bench b) = s.bench b) : s.modBench b f = s := by
  rw [State.modBench_congr (g := id) h]
  simp [State.modBench]

section Folds

variable (h : BenchId → Bench → Bench) (bs : List BenchId) (s : State)

/-- Benches changed one after the other, each by a change of its own: nothing but the benches. -/
theorem State.foldl_modBench_eq : bs.foldl (fun s b => s.modBench b (h b)) s =
    { s with benches := bs.foldl (fun xs b => xs.modify b.idx (h b)) s.benches } := by
  induction bs generalizing s with
  | nil => rfl
  | cons b bs ih => exact ih (s.modBench b (h b))

theorem State.foldl_modBench_len : (bs.foldl (fun s b => s.modBench b (h b)) s).benches.length = s.benches.length :=
  foldl_keeps (g := fun s : State => s.benches.length) (fun s b => s.modBench_len b (h b)) bs s

variable {bs} {s} {b : BenchId}

theorem State.foldl_modBench_of_notMem (hb : b ∉ bs) : (bs.foldl (fun s b => s.modBench b (h b)) s).bench b = s.bench b := by
  induction bs generalizing s with
  | nil => rfl
  | cons c bs ih =>
    rw [List.mem_cons, not_or] at hb
    obtain ⟨hc, hb⟩ := hb
    rw [List.foldl_cons, ih hb, State.modBench_other _ _ _ _ (Ne.symm hc)]

theorem State.foldl_modBench_of_mem (hn : bs.Nodup) (hb : b ∈ bs) (hl : b.idx < s.benches.length) :
    (bs.foldl (fun s b => s.modBench b (h b)) s).bench b = h b (s.bench b) := by
  induction bs generalizing s with
  | nil => cases hb
  | cons c bs ih =>
    obtain ⟨hc, hn⟩ := List.nodup_cons.mp hn
    rw [List.foldl_cons]
    rcases List.mem_cons.mp hb with rfl | hb
    · rw [State.foldl_modBench_of_notMem h hc, State.modBench_self _ _ _ hl]
    · rw [ih hn hb (by simpa using hl), State.modBench_other _ _ _ _ fun e => hc (by rwa [e])]

end Folds

theorem State.modBenches_eq (s : State) (bs : List BenchId) (f : Bench → Bench) :
    s.modBenches bs f = { s with benches := bs.foldl (fun xs b => xs.modify b.idx f) s.benches } :=
  State.foldl_modBench_eq (fun _ => f) bs s

@[simp] theorem State.modBenches_len (s : State) (bs : List BenchId) (f : Bench → Bench) :
    (s.modBenches bs f).benches.length = s.benches.length := State.foldl_modBench_len (fun _ => f) bs s

@[simp] theorem State.modBenches_loader (s : State) (bs : List BenchId) (f : Bench → Bench) :
    (s.modBenches bs f).loader = s.loader := by
  rw [State.modBenches_eq]
@[simp] theorem State.modBenches_cells (s : State) (bs : List BenchId) (f : Bench → Bench) :
    (s.modBenches bs f).cells = s.cells := by
  rw [State.modBenches_eq]
@[simp] theorem State.modBenches_parts (s : State) (bs : List BenchId) (f : Bench → Bench) :
    (s.modBenches bs f).parts = s.parts := by
  rw [State.modBenches_eq]

theorem State.modBenches_of_notMem {s : State} {bs : List BenchId} {b : BenchId} (f : Bench → Bench) (hb : b ∉ bs) :
    (s.modBenches bs f).bench b = s.bench b :=
  State.foldl_modBench_of_notMem (fun _ => f) hb

theorem State.modBenches_of_mem {s : State} {bs : List BenchId} {b : BenchId} (f : Bench → Bench) (hn : bs.Nodup) (hb : b ∈ bs)
    (hl : b.idx < s.benches.length) : (s.modBenches bs f).bench b = f (s.bench b) :=
  State.foldl_modBench_of_mem (fun _ => f) hn hb hl

theorem State.mem_benchesOf {s : State} {p : PartId} {b : BenchId} : b ∈ s.benchesOf p ↔ (s.bench b).partOf = some p := by
  simp [State.benchesOf, mem_allBenches]

theorem State.benchesOf_nodup (s : State) (p : PartId) : (s.benchesOf p).Nodup := allBenches_nodup.filter _

theorem State.oldSet_nodup (s : State) (p : PartId) : (s.oldSet p).Nodup := allBenches_nodup.filter _

theorem State.mem_oldSet_of_partOf {s : State} {p : PartId} {b : BenchId} (h : (s.bench b).partOf = some p) : b ∈ s.oldSet p := by
  simp [State.oldSet, mem_allBenches, h]

/-- `t` is `s` but for the ports. -/
def OnPorts (s t : State) : Prop := ∃ ps, t = { s with ports := ps }

theorem OnPorts.foldl {α : Type} {f : State → α → State} (h : ∀ s a, OnPorts s (f s a)) (as : List α) (s : State) :
    OnPorts s (as.foldl f s) := by
  induction as generalizing s with
  | nil => exact ⟨s.ports, rfl⟩
  | cons a as ih =>
    obtain ⟨ps, hp⟩ := h s a
    obtain ⟨qs, hq⟩ := ih (f s a)
    exact ⟨qs, by rw [List.foldl_cons, hq, hp]⟩

/-! Frames leave a store, routes settle (03 R81; 12 R335, R343) -/

theorem State.dropStored_onPorts (s : State) (fs : List (Option PortId × Frame)) : OnPorts s (s.dropStored fs) := by
  refine OnPorts.foldl (fun s e => ?_) fs s
  rcases e with ⟨_ | n, f⟩ <;> exact ⟨_, rfl⟩

theorem State.portsByRole_onPorts (s : State) : OnPorts s s.portsByRole := OnPorts.foldl (fun _ _ => ⟨_, rfl⟩) allPorts s

theorem State.settleRoutes_eq (s : State) : ∃ ps l, s.settleRoutes = { s with ports := ps, loader := l } := by
  simp only [State.settleRoutes]
  split
  · split
    · obtain ⟨ps, h⟩ := State.portsByRole_onPorts _
      exact ⟨ps, _, h⟩
    · exact ⟨_, _, rfl⟩
  · exact ⟨_, _, rfl⟩

theorem State.epochMoved_eq (s : State) (p : PartId) : ∃ ps l, s.epochMoved p =
    { s.modPart p (fun x => { x with ownMoved := true }) with ports := ps, loader := l } := by
  obtain ⟨ps, l, h⟩ := State.settleRoutes_eq _
  exact ⟨ps, l, h⟩

end Sys2Proof.Machine

/-! A partition is removed (03 R97, R100, R101) -/

namespace Sys2Proof.Machine

open Sys2Proof

/-- A bench whose orders are cancelled, as `State.abortPart` leaves it. -/
def Bench.aborted (x : Bench) : Bench :=
  { x.cancel with stopped := true, haltCode := none, fStream := [], bStream := [], queue := [], loops := [] }

/-- A bench after its partition was removed, as `State.unload` leaves it; `old` says whether it was in the old set. -/
def Bench.removed (p : PartId) (snap old : Bool) (x : Bench) : Bench :=
  if old then { x.vacate with rinsing := some p, snapshot := snap } else if x.ownerOf = some p then x.leave else x

/-- What stays of a removed partition. -/
def Partition.removed (x : Partition) (snap : Bool) : Partition :=
  { rinsing := true, snapshot := x.snapshot || snap, keptSeams := if snap then x.seams else x.keptSeams }

/-- A tile cache without the lines that a partition wrote. -/
def TileCache.without (p : PartId) (c : TileCache) : TileCache := { c with lines := c.lines.filter fun l => l.writer ≠ some p }

/-- A pending self-test that may start changes the marks of the test alone. -/
theorem Bench.takePending_eq (x : Bench) :
    ∃ t q e, x.takePending = { x with testing := t, testPending := q, testExtra := e } := by
  simp only [Bench.takePending]
  split
  · split <;> exact ⟨_, _, _, rfl⟩
  · exact ⟨_, _, _, rfl⟩

theorem Bench.ownerOf_of_vacate {x y : Bench} (h : y.asg = x.vacate.asg) : y.ownerOf = none := by
  have ha : x.vacate.asg = .retired ∨ x.vacate.asg = .free := by
    simp only [Bench.vacate]
    split
    · exact .inl rfl
    · exact .inr rfl
  rcases ha with ha | ha <;> rw [Bench.ownerOf, h, ha]

theorem Bench.removed_ownerOf (p : PartId) (snap old : Bool) (x : Bench) : (x.removed p snap old).ownerOf ≠ some p := by
  simp only [Bench.removed]
  split
  · exact fun ho => nomatch (Bench.ownerOf_of_vacate (x := x) rfl).symm.trans ho
  · split
    · obtain ⟨_, _, _, h⟩ := x.vacate.takePending_eq
      exact fun ho => nomatch (Bench.ownerOf_of_vacate (x := x) (by rw [Bench.leave, h])).symm.trans ho
    · assumption

theorem State.dropLines_false (s : State) (p : PartId) :
    s.dropLines p false = { s with caches := s.caches.map (TileCache.without p) } := rfl

theorem TileCache.without_writer {cs : List TileCache} {p : PartId} :
    ∀ c ∈ cs.map (TileCache.without p), ∀ l ∈ c.lines, l.writer ≠ some p := by
  intro c hc l hl
  obtain ⟨c, -, rfl⟩ := List.mem_map.mp hc
  simpa using (List.mem_filter.mp hl).2

theorem State.cancelFolds_of_nil {s : State} {b : BenchId} (h : (s.bench b).folds = []) : s.cancelFolds b = s := by
  simp [State.cancelFolds, h]

theorem State.foldl_cancelFolds_of_nil {bs : List BenchId} {s : State} (h : ∀ b ∈ bs, (s.bench b).folds = []) :
    bs.foldl State.cancelFolds s = s := by
  induction bs with
  | nil => rfl
  | cons b bs ih =>
    rw [List.foldl_cons, State.cancelFolds_of_nil (h b (List.mem_cons_self ..))]
    exact ih fun c hc => h c (List.mem_cons_of_mem _ hc)

/-- Orders cancelled with no FOLD in flight: ports, the partition's waits, its benches. -/
theorem State.abortPart_eq {s : State} {p : PartId} (h : ∀ b ∈ s.benchesOf p, (s.bench b).folds = []) :
    ∃ ps f, s.abortPart p = (State.modPart { s with ports := ps } p f).modBenches (s.benchesOf p) Bench.aborted := by
  obtain ⟨ps, hd⟩ := s.dropStored_onPorts ((s.part p).redFrames.map fun e => (e.1, e.2.1))
  refine ⟨ps, ?_⟩
  simp only [State.abortPart, hd]
  rw [State.foldl_cancelFolds_of_nil (s := State.modPart { s with ports := ps } p _) h]
  exact ⟨_, rfl⟩

/-- The benches as a removal leaves them. -/
def State.removeBenches (s : State) (p : PartId) (snap : Bool) : State :=
  allBenches.foldl (fun t b => t.modBench b (Bench.removed p snap ((s.oldSet p).contains b)))
    (s.modBenches (s.benchesOf p) Bench.aborted)

theorem State.removeBenches_len (s : State) (p : PartId) (snap : Bool) :
    (s.removeBenches p snap).benches.length = s.benches.length := by
  rw [State.removeBenches, State.foldl_modBench_len, State.modBenches_len]

/-- One step of the removal, as a change of one bench. -/
theorem State.removeBench_eq (s : State) (p : PartId) (snap old : Bool) (b : BenchId) :
    (if old then s.modBench b fun x => { x.vacate with rinsing := some p, snapshot := snap }
      else if (s.bench b).ownerOf = some p then s.modBench b Bench.leave else s) = s.modBench b (Bench.removed p snap old) := by
  split
  · next ho => exact State.modBench_congr (by simp [Bench.removed, ho])
  · next ho =>
    split
    · next hb => exact State.modBench_congr (by simp [Bench.removed, ho, hb])
    · next hb => exact (State.modBench_id (by simp [Bench.removed, ho, hb])).symm

theorem State.modPart_modPart (s : State) (p : PartId) (f g : Partition → Partition) :
    (s.modPart p f).modPart p g = s.modPart p fun x => g (f x) := by
  simp only [State.modPart, List.modify_modify_eq]; rfl

@[simp] theorem State.epochMoved_benches (s : State) (p : PartId) : (s.epochMoved p).benches = s.benches := by
  obtain ⟨_, _, h⟩ := s.epochMoved_eq p; rw [h]; rfl
@[simp] theorem State.epochMoved_cells (s : State) (p : PartId) : (s.epochMoved p).cells = s.cells := by
  obtain ⟨_, _, h⟩ := s.epochMoved_eq p; rw [h]; rfl
@[simp] theorem State.epochMoved_lineStain (s : State) (p : PartId) : (s.epochMoved p).lineStain = s.lineStain := by
  obtain ⟨_, _, h⟩ := s.epochMoved_eq p; rw [h]; rfl
@[simp] theorem State.epochMoved_caches (s : State) (p : PartId) : (s.epochMoved p).caches = s.caches := by
  obtain ⟨_, _, h⟩ := s.epochMoved_eq p; rw [h]; rfl
@[simp] theorem State.epochMoved_parts (s : State) (p : PartId) :
    (s.epochMoved p).parts = (s.modPart p fun x => { x with ownMoved := true }).parts := by
  obtain ⟨_, _, h⟩ := s.epochMoved_eq p; rw [h]

/-- The state after orders were cancelled, benches and partition taken away: UNLOAD before it comes to the tile caches. -/
def State.taken (s : State) (p : PartId) (snap : Bool) : State :=
  (allBenches.foldl (fun t b => t.modBench b (Bench.removed p snap ((s.oldSet p).contains b))) (s.abortPart p)).modPart p
    fun _ => (s.part p).removed snap

/-- The lines that a partition wrote stay for a snapshot, or leave the tile caches unwritten. -/
def State.linesAfter (s : State) (p : PartId) (snap : Bool) : State :=
  { s with caches := if snap then s.caches else s.caches.map (TileCache.without p) }

theorem State.unload_eq (s : State) (p : PartId) (snap : Bool) :
    s.unload p snap = (((s.taken p snap).linesAfter p snap).epochMoved p).doneLoader := by
  have lines (t : State) : (if snap then t else t.dropLines p false) = t.linesAfter p snap := by cases snap <;> rfl
  simp only [State.unload, State.removeBench_eq, lines]
  rfl

section Unloaded

variable {s : State} {p : PartId} (h : ∀ b ∈ s.benchesOf p, (s.bench b).folds = []) (snap : Bool)
include h

theorem State.taken_eq : ∃ ps, s.taken p snap =
    State.modPart { s with ports := ps, benches := (s.removeBenches p snap).benches } p fun _ => (s.part p).removed snap := by
  obtain ⟨ps, f, ha⟩ := State.abortPart_eq h
  refine ⟨ps, ?_⟩
  simp only [State.taken, ha, State.removeBenches, State.foldl_modBench_eq, State.modBenches_eq, State.modPart_benches]
  generalize allBenches.foldl _ _ = xs
  exact State.modPart_modPart { s with ports := ps, benches := xs } p f _

theorem State.unload_cells : (s.unload p snap).cells = s.cells := by
  obtain ⟨ps, ht⟩ := State.taken_eq h snap
  simp [State.unload_eq, State.doneLoader, State.linesAfter, ht]

theorem State.unload_lineStain : (s.unload p snap).lineStain = s.lineStain := by
  obtain ⟨ps, ht⟩ := State.taken_eq h snap
  simp [State.unload_eq, State.doneLoader, State.linesAfter, ht]

theorem State.unload_caches :
    (s.unload p snap).caches = if snap then s.caches else s.caches.map (TileCache.without p) := by
  obtain ⟨ps, ht⟩ := State.taken_eq h snap
  simp [State.unload_eq, State.doneLoader, State.linesAfter, ht]

theorem State.unload_benches : (s.unload p snap).benches = (s.removeBenches p snap).benches := by
  obtain ⟨ps, ht⟩ := State.taken_eq h snap
  simp [State.unload_eq, State.doneLoader, State.linesAfter, ht]

theorem State.unload_parts : (s.unload p snap).parts = (s.modPart p fun _ => (s.part p).removed snap).parts := by
  obtain ⟨ps, ht⟩ := State.taken_eq h snap
  simp only [State.unload_eq, State.doneLoader, State.epochMoved_parts, State.linesAfter, ht, State.modPart, List.modify_modify_eq]
  rfl

theorem State.unload_part_self (hp : (s.part p).loaded = true) : (s.unload p snap).part p = (s.part p).removed snap := by
  rw [State.part, State.unload_parts h]
  exact State.modPart_self s p _ (State.lt_of_loaded hp)

theorem State.unload_part_other {q : PartId} (hq : q ≠ p) : (s.unload p snap).part q = s.part q := by
  rw [State.part, State.unload_parts h]
  exact State.modPart_other s p q _ hq.symm

theorem State.unload_bench {b : BenchId} (hb : b.idx < s.benches.length) : (s.unload p snap).bench b =
    Bench.removed p snap ((s.oldSet p).contains b) ((s.modBenches (s.benchesOf p) Bench.aborted).bench b) := by
  rw [State.bench, State.unload_benches h]
  exact State.foldl_modBench_of_mem _ allBenches_nodup (mem_allBenches b) (by simpa using hb)

theorem State.unload_ownerOf (b : BenchId) : ((s.unload p snap).bench b).ownerOf ≠ some p := by
  intro ho
  have hb := State.idx_lt_of_bench_ne (fun e => by rw [e] at ho; cases ho)
  rw [State.unload_benches h, State.removeBenches_len] at hb
  rw [State.unload_bench h snap hb] at ho
  exact Bench.removed_ownerOf _ _ _ _ ho

/-- What UNLOAD makes of a bench of the partition: its shelf is as it was until the rinse. -/
theorem State.unload_bench_of_partOf {b : BenchId} (hb : (s.bench b).partOf = some p) :
    (s.unload p snap).bench b = { (s.bench b).aborted.vacate with rinsing := some p, snapshot := snap } := by
  have hl := State.idx_lt_of_partOf hb
  rw [State.unload_bench h snap hl, State.modBenches_of_mem _ (s.benchesOf_nodup p) (State.mem_benchesOf.mpr hb) hl,
    Bench.removed, if_pos (List.contains_iff_mem.mpr (State.mem_oldSet_of_partOf hb))]

end Unloaded

/-- What a removal shows: the partition and its shares gone, no bench of it left, DONE, and memory as it was. -/
def PartRemoved (s : State) (p : PartId) (t : State) : Prop :=
  (t.part p).loaded = false ∧ (t.part p).trees = [] ∧ (t.part p).regs = [] ∧ (∀ b, (t.bench b).ownerOf ≠ some p) ∧
    t.loader.result = 1 ∧ t.cells = s.cells ∧ t.lineStain = s.lineStain ∧ ∀ q, q ≠ p → (t.part q).benches = (s.part q).benches

theorem State.unload_removed {s : State} {p : PartId} (h : ∀ b ∈ s.benchesOf p, (s.bench b).folds = [])
    (hp : (s.part p).loaded = true) (snap : Bool) : PartRemoved s p (s.unload p snap) := by
  have hself := State.unload_part_self h snap hp
  exact ⟨by rw [hself]; rfl, by rw [hself]; rfl, by rw [hself]; rfl, State.unload_ownerOf h snap, by rw [State.unload_eq]; rfl,
    State.unload_cells h snap, State.unload_lineStain h snap, fun q hq => by rw [State.unload_part_other h snap hq]⟩

/-! The commands of the loader (03 R96, R100, R101, R104) -/

/-- RELEASE as it acts: the marks of the snapshot go, the rinse begins, the lines leave the tile caches. -/
def State.release (s : State) (p : PartId) : State :=
  State.doneLoader (State.dropLines (State.modPart { s with
    benches := s.benches.map fun x => if x.rinsing = some p then { x with snapshot := false } else x } p
      fun x => { x with snapshot := false, rinsing := true }) p false)

theorem State.release_part {s : State} {p : PartId} (h : (s.part p).snapshot = true) :
    (s.release p).part p = { s.part p with snapshot := false, rinsing := true } :=
  State.modPart_self s p _ (State.val_lt_of_part_ne fun e => by simp [e] at h)

theorem State.release_shelf (s : State) (p : PartId) (b : BenchId) : ((s.release p).bench b).shelf = (s.bench b).shelf := by
  simp only [State.release, State.doneLoader, State.dropLines_false, State.modPart, State.bench, List.getD_eq_getElem?_getD,
    List.getElem?_map]
  cases s.benches[b.idx]? with
  | none => rfl
  | some x =>
    simp only [Option.map_some, Option.getD_some]
    split <;> rfl

section Commands

variable {s : State} (ht : s.clerkTime = true)
include ht

theorem exec_pl_busy (hb : s.loader.busy = true) : exec .plLoad s = .next (s.refuseLoader 3) ∧ ∀ p,
    exec (.plUnload p) s = .next (s.refuseLoader 3) ∧ exec (.plUnloadSnapshot p) s = .next (s.refuseLoader 3) ∧
    exec (.plRelease p) s = .next (s.refuseLoader 3) := by
  refine ⟨?load, fun p => ⟨?unload, ?snapshot, ?release⟩⟩
  case load => change execPlLoad s = _; simp [execPlLoad, ht, hb]
  case unload => change execPlUnload p s = _; simp [execPlUnload, ht, hb]
  case snapshot => change execPlUnloadSnapshot p s = _; simp [execPlUnloadSnapshot, ht, hb]
  case release => change execPlRelease p s = _; simp [execPlRelease, ht, hb]

variable (hb : s.loader.busy = false) {p : PartId}
include hb

theorem exec_plLoad_of_idle : exec .plLoad s = .next { s with loader := { s.loader with
    busy := true, phase := .validate, cmdAt := s.now, phaseAt := s.now, cmdSrc := s.loader.src, cmdLen := s.loader.len
    drainTimeout := false } } := by
  change execPlLoad s = _
  simp [execPlLoad, ht, hb]

theorem exec_plUnload_of_loaded (hl : (s.part p).loaded = true) : exec (.plUnload p) s = .next (s.unload p false) := by
  change execPlUnload p s = _
  simp [execPlUnload, ht, hb, hl]

theorem exec_plUnload_refused (hl : (s.part p).loaded = false) : exec (.plUnload p) s = .next (s.refuseLoader 4) := by
  change execPlUnload p s = _
  simp [execPlUnload, ht, hb, hl]

theorem exec_plUnloadSnapshot_of_loaded (hl : (s.part p).loaded = true) (hn : (s.part p).snapshot = false)
    (hf : s.nv.life = .maker ∨ s.nv.life = .return_) : exec (.plUnloadSnapshot p) s = .next (s.unload p true) := by
  change execPlUnloadSnapshot p s = _
  rcases hf with hf | hf <;> simp [execPlUnloadSnapshot, ht, hb, hl, hn, hf]

theorem exec_plUnloadSnapshot_refused (hf : s.nv.life = .field ∨ s.nv.life = .void_) :
    exec (.plUnloadSnapshot p) s = .next (s.refuseLoader 4) := by
  change execPlUnloadSnapshot p s = _
  rcases hf with hf | hf <;> simp [execPlUnloadSnapshot, ht, hb, hf]

theorem exec_plRelease_of_snapshot (hn : (s.part p).snapshot = true) : exec (.plRelease p) s = .next (s.release p) := by
  change execPlRelease p s = _
  simp [execPlRelease, State.release, ht, hb, hn]

theorem exec_plRelease_refused (hn : (s.part p).snapshot = false) : exec (.plRelease p) s = .next (s.refuseLoader 4) := by
  change execPlRelease p s = _
  simp [execPlRelease, ht, hb, hn]

end Commands

end Sys2Proof.Machine

namespace Sys2Proof.Proofs

open Sys2Proof Sys2Proof.Machine

/-- Settles O35: `State.taken_eq` gives what a removal with no FOLD in flight changes; it is DONE at the command itself, with
its lines gone (log 64). -/
theorem loaderCommandsAnswer : Obligations.LoaderCommandsAnswer := by
  intro s ht refused gone
  refine ⟨exec_plLoad_of_idle ht, exec_pl_busy ht, fun p hb hl hf => ?unload, fun p hb hl hn hf hlife => ?snapshot,
    fun p hb hn => ?release, fun p hb => exec_plUnload_refused ht hb, fun p hb => exec_plUnloadSnapshot_refused ht hb,
    fun p hb => exec_plRelease_refused ht hb⟩
  case unload =>
    refine ⟨_, exec_plUnload_of_loaded ht hb hl, State.unload_removed hf hl false, ?_, ?_⟩
    · rw [State.unload_part_self hf false hl]; rfl
    · rw [State.unload_caches hf]; exact TileCache.without_writer
  case snapshot =>
    have hself := State.unload_part_self hf true hl
    refine ⟨_, exec_plUnloadSnapshot_of_loaded ht hb hl hn hlife, State.unload_removed hf hl true, ?_, ?_,
      State.unload_caches hf true, ?_, fun b hp => ?_⟩
    · rw [hself]; exact Bool.or_true _
    · rw [hself]; rfl
    · rw [hself]; rfl
    · rw [State.unload_bench_of_partOf hf true hp]; exact ⟨rfl, rfl⟩
  case release =>
    refine ⟨_, exec_plRelease_of_snapshot ht hb hn, ?_, ?_, rfl, rfl, TileCache.without_writer, s.release_shelf p⟩
    · rw [State.release_part hn]
    · rw [State.release_part hn]

end Sys2Proof.Proofs

/-! A load applies (03 R94, R96, R99; 14 R408): what stays in memory, and which partitions are loaded then -/

namespace Sys2Proof.Machine

open Sys2Proof

/-- What stands in the stacks, and which partitions are loaded. -/
def State.standing (s : State) : Mem × List Bool := (s.cells, s.parts.map (·.loaded))

theorem State.part_loaded_eq (s : State) (q : PartId) : (s.part q).loaded = s.standing.2.getD q.val false := by
  simp only [State.part, State.standing, List.getD_eq_getElem?_getD, List.getElem?_map]
  cases s.parts[q.val]? <;> rfl

theorem State.parts_length_of_standing {s t : State} (h : t.standing = s.standing) : t.parts.length = s.parts.length := by
  simpa [State.standing] using congrArg (fun v => v.2.length) h

theorem State.modPart_standing (s : State) (p : PartId) {f : Partition → Partition} (h : ∀ x, (f x).loaded = x.loaded) :
    (s.modPart p f).standing = s.standing := by
  refine Prod.ext rfl (List.ext_getElem? fun j => ?_)
  by_cases e : p.val = j
  · subst e; cases hx : s.parts[p.val]? <;> simp [State.standing, State.modPart, hx, h]
  · simp [State.standing, State.modPart, e]

theorem OnPorts.standing {s t : State} (h : OnPorts s t) : t.standing = s.standing := by
  obtain ⟨ps, rfl⟩ := h; rfl

theorem State.applyGeometry_standing (s : State) (img : PatImage) : (s.applyGeometry img).standing = s.standing := by
  simp only [State.applyGeometry]
  split
  · rfl
  · split
    · rw [(State.portsByRole_onPorts _).standing]
      exact foldl_keeps (fun s p => s.modPart_standing p (f := fun x => { x with ownMoved := false }) fun _ => rfl) _ _
    · exact (State.portsByRole_onPorts _).standing

theorem State.applyBenches_standing (s : State) (img : PatImage) (old : List PartId) :
    (s.applyBenches img old).standing = s.standing := by
  refine foldl_keeps (fun s b => ?_) allBenches s
  dsimp only
  cases img.asgOf b with
  | some a => rfl
  | none =>
    cases (s.bench b).ownerOf with
    | none => rfl
    | some p => dsimp only; split <;> rfl

theorem State.fillBuckets_standing (s : State) (p : PartId) (rs : List RegRec) : (s.fillBuckets p rs).standing = s.standing := by
  refine foldl_keeps (fun s r => ?_) rs s
  dsimp only
  split <;> rfl

theorem State.epochMoved_standing (s : State) (p : PartId) : (s.epochMoved p).standing = s.standing := by
  obtain ⟨ps, l, h⟩ := s.epochMoved_eq p
  rw [h]
  exact s.modPart_standing p (f := fun x => { x with ownMoved := true }) fun _ => rfl

theorem State.sendPeers_standing (s : State) (dests : List (BitVec 128)) (typ part n : Nat) (body : List Byte) :
    (s.sendPeers dests typ part n body).standing = s.standing := by
  refine foldl_keeps (fun s d => ?_) dests s
  obtain ⟨ps, out, h, -⟩ := s.sendMsg_sends d body
  simp only [h]
  rfl

theorem State.barrierCheck_standing (s : State) (p : PartId) : (s.barrierCheck p).standing = s.standing := by
  simp only [State.barrierCheck]
  split <;> rfl

theorem State.barrierStart_standing (s : State) (p : PartId) : (s.barrierStart p).standing = s.standing := by
  simp only [State.barrierStart]
  rw [State.barrierCheck_standing, State.sendPeers_standing]
  rfl

theorem State.applyPart_standing (s : State) (img : PatImage) (x : PartImage) :
    (s.applyPart img x).standing = (s.cells, s.standing.2.set (x.part % 8) true) := by
  have fresh (f : Partition → Partition) (h : ∀ y, (f y).loaded = true) :
      (s.parts.modify (x.part % 8) f).map (·.loaded) = s.standing.2.set (x.part % 8) true := by
    refine List.ext_getElem? fun j => ?_
    by_cases e : x.part % 8 = j
    · subst e; by_cases hl : x.part % 8 < s.parts.length <;> simp [State.standing, hl, h]
    · simp [State.standing, e]
  simp only [State.applyPart]
  split
  · rw [State.fillBuckets_standing]
    exact Prod.ext rfl (fresh _ fun _ => rfl)
  · rw [State.barrierStart_standing, State.epochMoved_standing, State.fillBuckets_standing]
    exact Prod.ext rfl (fresh _ fun _ => rfl)

section AppliedParts

variable (img : PatImage) (xs : List PartImage) (s : State)

theorem State.foldl_applyPart_cells : (xs.foldl (fun s x => s.applyPart img x) s).cells = s.cells :=
  foldl_keeps (g := fun s : State => s.cells) (fun s x => congrArg Prod.fst (s.applyPart_standing img x)) xs s

theorem State.foldl_applyPart_standing : (xs.foldl (fun s x => s.applyPart img x) s).standing.2 =
    xs.foldl (fun l x => l.set (x.part % 8) true) s.standing.2 := by
  induction xs generalizing s with
  | nil => rfl
  | cons x xs ih => rw [List.foldl_cons, List.foldl_cons, ih, State.applyPart_standing]

end AppliedParts

/-- A place that is set stays set. -/
theorem foldl_set_true {xs : List PartImage} {l : List Bool} {i : Nat} (hi : i < l.length)
    (h : (∃ x ∈ xs, x.part % 8 = i) ∨ l.getD i false = true) :
    (xs.foldl (fun l x => l.set (x.part % 8) true) l).getD i false = true := by
  induction xs generalizing l with
  | nil => simpa using h
  | cons y xs ih =>
    refine ih (by simpa using hi) ?_
    dsimp only
    by_cases e : y.part % 8 = i
    · exact .inr (by rw [e]; exact getD_set_self _ _ _ _ hi)
    · rw [getD_set_ne _ _ _ _ _ e]
      simpa [e] using h

theorem State.foldl_applyPart_loaded {s : State} {img : PatImage} {xs : List PartImage} {x : PartImage} (hx : x ∈ xs)
    (hl : x.part < s.parts.length) : ((xs.foldl (fun s x => s.applyPart img x) s).part (Fin.ofNat 8 x.part)).loaded = true := by
  rw [State.part_loaded_eq, State.foldl_applyPart_standing]
  refine foldl_set_true ?_ (.inl ⟨x, hx, rfl⟩)
  simpa [State.standing] using Nat.lt_of_le_of_lt (Nat.mod_le _ _) hl

/-- A load whose benches are still there, and that replaces no loaded partition, has its whole effect (R94, R96). -/
theorem State.applyLoad_eq {s : State} {img : PatImage} (h : s.recheck img = none) :
    ∃ old, s.applyLoad img = State.finishLoad
      (img.parts.foldl (fun s x => s.applyPart img x) ((s.applyGeometry img).applyBenches img old)) 1 ⟨0, 0, 0⟩ := by
  simp only [State.applyLoad, h]
  exact ⟨_, rfl⟩

theorem State.applyLoad_of_recheck {s : State} {img : PatImage} (h : s.recheck img = none) :
    (s.applyLoad img).loader.result = 1 ∧ (s.applyLoad img).loader.busy = false ∧ (s.applyLoad img).cells = s.cells ∧
      ∀ x ∈ img.parts, x.part < s.parts.length → ((s.applyLoad img).part (Fin.ofNat 8 x.part)).loaded = true := by
  obtain ⟨old, ha⟩ := State.applyLoad_eq h
  have hs : ((s.applyGeometry img).applyBenches img old).standing = s.standing :=
    (State.applyBenches_standing _ _ _).trans (State.applyGeometry_standing _ _)
  rw [ha]
  refine ⟨rfl, rfl, ?_, fun x hx hl => ?_⟩
  · exact (State.foldl_applyPart_cells ..).trans (congrArg Prod.fst hs)
  · exact State.foldl_applyPart_loaded hx (by rwa [State.parts_length_of_standing hs])

end Sys2Proof.Machine

/-! The phases of a load (03 R92, R96, R97, R98) -/

namespace Sys2Proof.Machine

open Sys2Proof

/-! Drain and the wait for memory (03 R96, R97) -/

theorem State.cancelFolds_loader (s : State) (b : BenchId) : (s.cancelFolds b).loader = s.loader := by
  simp only [State.cancelFolds]
  split <;> rfl

theorem State.abortPart_loader (s : State) (p : PartId) : (s.abortPart p).loader = s.loader := by
  obtain ⟨ps, hd⟩ := s.dropStored_onPorts ((s.part p).redFrames.map fun e => (e.1, e.2.1))
  simp only [State.abortPart, State.modBenches_loader, hd]
  exact foldl_keeps State.cancelFolds_loader _ _

theorem State.memPhase_loader (s : State) : ∃ ph, (ph = .memWait ∨ ph = .rinse) ∧
    s.memPhase.loader = { s.loader with phase := ph, phaseAt := s.now } := by
  simp only [State.memPhase, State.memSettled]
  split
  · exact ⟨_, .inr rfl, rfl⟩
  · exact ⟨_, .inl rfl, rfl⟩

/-- The end of the drain goes on to the wait for memory or past it, and the mark of the timeout stays. -/
theorem State.endDrain_loader (s : State) (img : PatImage) : (s.endDrain img).loader.drainTimeout = s.loader.drainTimeout ∧
    ((s.endDrain img).loader.phase = .memWait ∨ (s.endDrain img).loader.phase = .rinse) := by
  obtain ⟨ph, hph, h⟩ := State.memPhase_loader ((s.loader.toRinse.filter img.drains).foldl State.abortPart s)
  have hd := congrArg Loader.drainTimeout
    (foldl_keeps (g := State.loader) State.abortPart_loader (s.loader.toRinse.filter img.drains) s)
  rw [State.endDrain, h]
  exact ⟨hd, hph⟩

/-- A partition's outstanding requests are discarded. -/
def State.discard (s : State) (p : PartId) : State := s.modPart p fun x => { x with pendReqs := [] }

theorem State.discard_pendReqs {s : State} {p q : PartId} (h : q = p ∨ (s.part q).pendReqs = []) :
    ((s.discard p).part q).pendReqs = [] := by
  by_cases e : q = p
  · subst e
    by_cases hd : (s.discard q).part q = {}
    · rw [hd]
    · have hl : q.val < s.parts.length := by simpa [State.discard] using State.val_lt_of_part_ne hd
      rw [State.discard, State.modPart_self _ _ _ hl]
  · rw [State.discard, State.modPart_other _ _ _ _ (Ne.symm e)]
    exact h.resolve_left e

theorem State.foldl_discard_pendReqs {ps : List PartId} {s : State} {q : PartId} (h : q ∈ ps ∨ (s.part q).pendReqs = []) :
    ((ps.foldl State.discard s).part q).pendReqs = [] := by
  induction ps generalizing s with
  | nil => simpa using h
  | cons p ps ih =>
    rw [List.mem_cons, or_assoc, or_left_comm] at h
    exact ih (h.imp_right State.discard_pendReqs)

theorem State.foldl_discard_keeps (ps : List PartId) (s : State) : (ps.foldl State.discard s).loader = s.loader ∧
    (ps.foldl State.discard s).mem = s.mem ∧ (ps.foldl State.discard s).benches = s.benches :=
  ⟨foldl_keeps (f := State.discard) (g := State.loader) (fun _ _ => rfl) ps s,
    foldl_keeps (f := State.discard) (fun s p => State.modPart_mem s p _ fun _ => ⟨rfl, rfl⟩) ps s,
    foldl_keeps (f := State.discard) (g := State.benches) (fun _ _ => rfl) ps s⟩

/-! Rinse (03 R98, R100) -/

/-- What the release of staging lines leaves as it was. -/
def State.unstaged (s : State) : List Partition × Loader × Mem × Nat := (s.parts, s.loader, s.cells, s.benches.length)

theorem State.modBenches_unstaged (s : State) (bs : List BenchId) (f : Bench → Bench) :
    (s.modBenches bs f).unstaged = s.unstaged := by
  simp [State.unstaged]

theorem State.freeStaging_unstaged (s : State) (b : BenchId) : (s.freeStaging b).unstaged = s.unstaged := by
  simp only [State.freeStaging]
  exact State.modBenches_unstaged ..

theorem State.dropStored_unstaged (s : State) (fs : List (Option PortId × Frame)) : (s.dropStored fs).unstaged = s.unstaged := by
  obtain ⟨ps, h⟩ := s.dropStored_onPorts fs
  rw [h]; rfl

/-- The state in which the benches of an unloaded partition are rinsed at last. -/
theorem State.rinseGone_eq (s : State) (p : PartId) : ∃ u : State, u.unstaged = s.unstaged ∧ s.rinseGone p =
    (u.modBenches ((allBenches.filter fun b => (s.bench b).rinsing = some p).filter fun b => !(s.bench b).snapshot)
      fun x => { x.rinse with rinsing := none }.takePending).modPart p
        fun x => { x with rinsing := false, keptSeams := if x.snapshot then x.keptSeams else [] } := by
  refine ⟨_, ?_, rfl⟩
  rw [State.modBenches_unstaged, foldl_keeps (g := State.unstaged) State.freeStaging_unstaged, State.dropStored_unstaged]

theorem State.rinseOld_eq (s : State) (p : PartId) : ∃ (u : State) (f : Partition → Partition), u.unstaged = s.unstaged ∧
    s.rinseOld p = ((u.modBenches (s.oldSet p) Bench.rinse).modPart p f).dropLines p true := by
  refine ⟨_, _, ?_, rfl⟩
  rw [foldl_keeps (g := State.unstaged) State.freeStaging_unstaged, State.dropStored_unstaged, State.dropStored_unstaged]

theorem State.rinseGone_keeps (s : State) (p : PartId) : (s.rinseGone p).loader = s.loader ∧ (s.rinseGone p).cells = s.cells := by
  obtain ⟨u, hu, h⟩ := s.rinseGone_eq p
  simp only [State.unstaged, Prod.mk.injEq] at hu
  obtain ⟨-, hl, hc, -⟩ := hu
  simp [h, hl, hc]

theorem State.rinseGone_part {s : State} {p : PartId} (h : (s.part p).rinsing = true) :
    ((s.rinseGone p).part p).rinsing = false := by
  obtain ⟨u, hu, hr⟩ := s.rinseGone_eq p
  have hp := State.val_lt_of_part_ne (s := s) (p := p) fun e => by simp [e] at h
  have hparts : u.parts = s.parts := congrArg Prod.fst hu
  rw [hr, State.modPart_self _ _ _ (by rwa [State.modBenches_parts, hparts])]

theorem State.rinseGone_bench {s : State} {p : PartId} {b : BenchId} (hb : (s.bench b).rinsing = some p)
    (hn : (s.bench b).snapshot = false) :
    ((s.rinseGone p).bench b).rinsing = none ∧ ((s.rinseGone p).bench b).shelf = [] ∧
      ((s.rinseGone p).bench b).tokens = List.replicate 64 0 := by
  obtain ⟨u, hu, hr⟩ := s.rinseGone_eq p
  have hl := State.idx_lt_of_bench_ne (s := s) (b := b) fun e => by simp [e] at hb
  have hlen : u.benches.length = s.benches.length := congrArg (fun v => v.2.2.2) hu
  rw [hr, State.modPart_bench, State.modBenches_of_mem _ ((allBenches_nodup.filter _).filter _)
    (by simp [mem_allBenches, hb, hn]) (hlen ▸ hl)]
  obtain ⟨t, q, e, hx⟩ := Bench.takePending_eq { (u.bench b).rinse with rinsing := none }
  rw [hx]
  exact ⟨rfl, rfl, rfl⟩

theorem State.rinseOld_loader (s : State) (p : PartId) : (s.rinseOld p).loader = s.loader := by
  obtain ⟨u, f, hu, h⟩ := s.rinseOld_eq p
  rw [h, State.dropLines, State.setMem_loader, State.modPart_loader, State.modBenches_loader]
  exact congrArg (fun v => v.2.1) hu

theorem State.rinseOld_caches (s : State) (p : PartId) : ∀ c ∈ (s.rinseOld p).caches, ∀ l ∈ c.lines, l.writer ≠ some p :=
  TileCache.without_writer

/-- The rinse of a replaced partition reaches each bench that serves it. -/
theorem State.rinseOld_bench {s : State} {p : PartId} {b : BenchId} (hb : (s.bench b).partOf = some p) :
    ((s.rinseOld p).bench b).shelf = [] ∧ ((s.rinseOld p).bench b).tlb = [] ∧ ((s.rinseOld p).bench b).queue = [] ∧
      ((s.rinseOld p).bench b).tokens = List.replicate 64 0 := by
  obtain ⟨u, f, hu, h⟩ := s.rinseOld_eq p
  have hlen : u.benches.length = s.benches.length := congrArg (fun v => v.2.2.2) hu
  rw [h, State.dropLines, State.setMem_bench, State.modPart_bench, State.modBenches_of_mem _ (s.oldSet_nodup p)
    (State.mem_oldSet_of_partOf hb) (hlen ▸ State.idx_lt_of_partOf hb)]
  exact ⟨rfl, rfl, rfl, rfl⟩

/-! The commands of the phases -/

section Phases

variable {s : State} (ht : s.clerkTime = true)
include ht

section Validated

variable {d : List Byte} {st : Bool} {m : MemSys} (hp : s.loader.phase = .validate) (ha : s.loader.cmdSrc % 64 = 0)
  (hr : s.mem.readBytes s.loader.cmdSrc (max 64 s.loader.cmdLen) Origin.hub = some (d, st, m))
include hp ha hr

theorem exec_loadValidateDone_of_error {r : Reject} (hv : (s.setMem m).validate d s.loader.cmdLen = .error r) :
    exec .loadValidateDone s = .next ((s.setMem m).finishLoad 2 r) := by
  change execLoadValidateDone s = _
  simp [execLoadValidateDone, ht, hp, ha, hr, hv]

theorem exec_loadValidateDone_of_ok {img : PatImage} (hv : (s.setMem m).validate d s.loader.cmdLen = .ok img) :
    exec .loadValidateDone s = .next ((s.setMem m).startQuiesce img) := by
  change execLoadValidateDone s = _
  simp [execLoadValidateDone, ht, hp, ha, hr, hv]

end Validated

omit ht in
/-- A load that replaces no loaded partition applies at once. -/
theorem State.startQuiesce_of_first {img : PatImage} (h : (allParts.all fun p => !((s.part p).loaded && img.names p)) = true) :
    s.startQuiesce img = State.applyLoad { s with
      loader := { s.loader with image := some img, toRinse := [], phaseAt := s.now, phase := .drain } } img := by
  have hnone : (allParts.filter fun p => (s.part p).loaded && img.names p) = [] :=
    List.filter_eq_nil_iff.mpr fun p hp => by simpa only [Bool.not_eq_true', Bool.not_eq_true] using List.all_eq_true.mp h p hp
  simp only [State.startQuiesce, hnone, List.isEmpty_nil, if_true]

theorem exec_loadDrainDone {img : PatImage} (hp : s.loader.phase = .drain) (hi : s.loader.image = some img)
    (hd : ((s.loader.toRinse.filter img.drains).all s.drained) = true) : exec .loadDrainDone s = .next (s.endDrain img) := by
  change execLoadDrainDone s = _
  simp only [execLoadDrainDone, hp, hi, ht, hd]
  rfl

theorem exec_loadDrainTimeout {img : PatImage} (hp : s.loader.phase = .drain) (hi : s.loader.image = some img)
    (hd : ((s.loader.toRinse.filter img.drains).all s.drained) = false)
    (late : ∀ p ∈ s.loader.toRinse, img.drains p = true → s.drained p = true ∨
      ∃ x ∈ img.parts, x.part = p.val ∧ s.loader.phaseAt + 1000000 * x.hdr.drainMs ≤ s.now) :
    exec .loadDrainTimeout s = .next (State.endDrain { s with loader := { s.loader with drainTimeout := true } } img) := by
  have hlate : ((s.loader.toRinse.filter img.drains).all fun p => s.drained p ||
      img.parts.any fun x => x.part = p.val && s.passed s.loader.phaseAt (ms x.hdr.drainMs)) = true := by
    have passed (n : Nat) : s.passed s.loader.phaseAt (ms n) = true ↔ s.loader.phaseAt + 1000000 * n ≤ s.now := by
      rw [State.passed, ms, Nat.mul_comm, decide_eq_true_iff]
    refine List.all_eq_true.mpr fun p hp => ?_
    obtain ⟨hm, hq⟩ := List.mem_filter.mp hp
    simpa [passed] using late p hm hq
  change execLoadDrainTimeout s = _
  simp only [execLoadDrainTimeout, hp, hi, ht, hd, hlate]
  rfl

theorem exec_loadMemoryWaitExpiry (hp : s.loader.phase = .memWait) (hw : s.loader.phaseAt + 2000000 ≤ s.now) :
    exec .loadMemoryWaitExpiry s = .next (s.loader.toRinse.foldl State.discard s).memSettled := by
  change execLoadMemoryWaitExpiry s = _
  simp only [execLoadMemoryWaitExpiry, ht, hp, State.passed, ms, hw]
  rfl

theorem exec_rinseComplete_of_gone {p : PartId} (hr : (s.part p).rinsing = true) (hi : s.loader.image = none) :
    exec (.rinseComplete p) s = .next (s.rinseGone p) := by
  change execRinseComplete p s = _
  simp [execRinseComplete, ht, hr, (s.rinseGone_keeps p).1, hi]

theorem exec_rinseComplete_of_replaced {p q : PartId} {img : PatImage} (hr : (s.part p).rinsing = false)
    (hi : s.loader.image = some img) (hph : s.loader.phase = .rinse) (hp : p ∈ s.loader.toRinse)
    (hq : q ∈ s.loader.toRinse) (hne : q ≠ p) :
    exec (.rinseComplete p) s = .next { s.rinseOld p with
      loader := { s.loader with toRinse := s.loader.toRinse.filter (· ≠ p) } } := by
  have hleft : (s.loader.toRinse.filter (· ≠ p)).isEmpty = false :=
    List.isEmpty_eq_false_iff.mpr (List.ne_nil_of_mem (List.mem_filter.mpr ⟨hq, by simpa using hne⟩))
  change execRinseComplete p s = _
  simp only [execRinseComplete, ht, hr, hi, hph, List.contains_iff_mem.mpr hp, s.rinseOld_loader p, hleft, Bool.not_true,
    Bool.false_eq_true, if_false]
  rfl

end Phases

/-- Nothing is outstanding any more: the rinse begins. -/
theorem State.memSettled_of_discarded {s : State} (h : s.loader.phase = .memWait)
    (hp : ∀ p ∈ s.loader.toRinse, (s.part p).pendReqs = []) :
    s.memSettled = { s with loader := { s.loader with phase := .rinse } } := by
  have hall : (s.loader.toRinse.all fun p => (s.part p).pendReqs.isEmpty) = true :=
    List.all_eq_true.mpr fun p hm => by simp [hp p hm]
  simp only [State.memSettled, h, hall]
  rfl

end Sys2Proof.Machine

namespace Sys2Proof.Proofs

open Sys2Proof Sys2Proof.Machine

/-- Settles O36: first what each phase's command comes to under the statement's conditions, then what that state shows. That
the stain of the stream's lines plays no part is log 128's choice; the drain of several partitions is log 66's. -/
theorem loaderPhasesFollowEachOther : Obligations.LoaderPhasesFollowEachOther := by
  intro s ht
  refine ⟨fun d st m r hp ha hr hv => exec_loadValidateDone_of_error ht hp ha hr hv,
    fun d st m img hp ha hr hv hfirst hrec => ?first, fun img hp hi hd => exec_loadDrainDone ht hp hi hd,
    fun img hp hi hd late => ?timeout, fun hp hw => ?memory, fun p hr hi => ?gone, fun p q img hr hi hph hp hq hne => ?old⟩
  case first =>
    refine ⟨_, exec_loadValidateDone_of_ok ht hp ha hr hv, ?_⟩
    rw [State.startQuiesce_of_first (s := s.setMem m) hfirst]
    exact State.applyLoad_of_recheck hrec
  case timeout => exact ⟨_, exec_loadDrainTimeout ht hp hi hd late, State.endDrain_loader _ img⟩
  case memory =>
    obtain ⟨hl, hm, hb⟩ := State.foldl_discard_keeps s.loader.toRinse s
    have none_left : ∀ p ∈ s.loader.toRinse, ((s.loader.toRinse.foldl State.discard s).part p).pendReqs = [] :=
      fun p h => State.foldl_discard_pendReqs (.inl h)
    refine ⟨_, exec_loadMemoryWaitExpiry ht hp hw, ?_⟩
    rw [State.memSettled_of_discarded (by rw [hl]; exact hp) (by rw [hl]; exact none_left)]
    exact ⟨rfl, none_left, hm, hb⟩
  case gone =>
    exact ⟨_, exec_rinseComplete_of_gone ht hr hi, State.rinseGone_part hr, (s.rinseGone_keeps p).2,
      fun b => State.rinseGone_bench⟩
  case old =>
    exact ⟨_, exec_rinseComplete_of_replaced ht hr hi hph hp hq hne, rfl, s.rinseOld_caches p, fun b => State.rinseOld_bench⟩

end Sys2Proof.Proofs

/-! EXCHANGE at its start: its tables, its messages and the receive context that it opens (09 R262 to R266) -/

namespace Sys2Proof.Machine

open Sys2Proof

/-! Orders of the crossing interface that no slot holds -/

/-- Such an order starts by itself, under the next number of its bench. -/
theorem State.runCross_of_alone {s : State} {b : BenchId} {p : PartId} {o : Order} (h : Safety.Alone s b p o)
    (act : State → PartId → DecOrder → State) : s.runCross b o act =
      act (s.modBench b fun x => { x with nextSeq := x.nextSeq + 1 }) p { body := o, seq := (s.bench b).nextSeq } := by
  obtain ⟨hlive, hpart, hin, hhold, hcheck, -⟩ := h
  simp [State.runCross, Bench.slotOf, hlive, hpart, hin, hhold, hcheck]

theorem Bench.shelfStained_of_clean {x : Bench} (h : x.shelfStain = []) (a n : Nat) : x.shelfStained a n = false := by
  simp [Bench.shelfStained, h]

/-! Frames on their way out leave the benches and module time -/

theorem State.launch_eq (s : State) (own : Option PartId) (f : Frame) :
    ∃ ps cx, s.launch own f = { s with ports := ps, cx := cx } := by
  unfold State.launch
  dsimp only
  split
  · exact ⟨_, s.cx, rfl⟩
  · split
    · exact ⟨s.ports, _, rfl⟩
    · exact ⟨_, s.cx, rfl⟩
    · exact ⟨s.ports, _, rfl⟩

theorem State.launchAll_eq (s : State) (own : Option PartId) (fs : List Frame) :
    ∃ ps cx, s.launchAll own fs = { s with ports := ps, cx := cx } := by
  unfold State.launchAll
  induction fs generalizing s with
  | nil => exact ⟨s.ports, s.cx, rfl⟩
  | cons f fs ih =>
    obtain ⟨_, _, h⟩ := s.launch_eq own f
    obtain ⟨ps, cx, hs⟩ := ih (s.launch own f)
    exact ⟨ps, cx, by rw [List.foldl_cons, hs, h]⟩

@[simp] theorem State.launchAll_benches (s : State) (own : Option PartId) (fs : List Frame) :
    (s.launchAll own fs).benches = s.benches := by
  obtain ⟨_, _, h⟩ := s.launchAll_eq own fs; rw [h]

@[simp] theorem State.launchAll_bench (s : State) (own : Option PartId) (fs : List Frame) (b : BenchId) :
    (s.launchAll own fs).bench b = s.bench b := by
  simp [State.bench]

@[simp] theorem State.launchAll_now (s : State) (own : Option PartId) (fs : List Frame) : (s.launchAll own fs).now = s.now := by
  obtain ⟨_, _, h⟩ := s.launchAll_eq own fs; rw [h]; rfl

/-! A receive context that waits for headers (R264) -/

/-- A bench in whose receive store no frame waits has nothing to hand out. -/
theorem State.feed_of_empty {s : State} {b : BenchId} (p : PartId) (h : (s.bench b).rxStore = []) : s.feed b p = s := by
  have settled : s.settleStore b = s := by
    simp only [State.settleStore, h, List.foldl_nil]
    exact State.modBench_id (by rw [← h])
  simpa only [State.feed, h, List.length_nil, State.feedGo] using settled

/-- An exchange that lacks a header does not begin to receive. -/
theorem State.exReady_of_missing {s : State} {b : BenchId} (p : PartId) {c : ExCtx}
    (hc : (s.bench b).exchanges.find? (fun e => e.seq = c.seq) = some c) (hrx : c.rx.all (·.counts.isSome) = false) :
    s.exReady b p c.seq = s := by
  simp [State.exReady, hc, hrx]

/-- A context opened under a number that no other has stays as it is while a header is missing and no frame waits. -/
theorem State.opened_waits {s : State} {b : BenchId} (p : PartId) {c : ExCtx} (hb : b.idx < s.benches.length)
    (hnew : ∀ e ∈ (s.bench b).exchanges, e.seq ≠ c.seq) (hstore : (s.bench b).rxStore = [])
    (hrx : c.rx.all (·.counts.isSome) = false) :
    ((s.modBench b fun x => { x with exchanges := x.exchanges ++ [c] }).exReady b p c.seq).feed b p =
      s.modBench b fun x => { x with exchanges := x.exchanges ++ [c] } := by
  have hbench := s.modBench_self b (fun x => { x with exchanges := x.exchanges ++ [c] }) hb
  have hfind : (s.bench b).exchanges.find? (fun e => e.seq = c.seq) = none := by simpa using hnew
  rw [State.exReady_of_missing p (by rw [hbench]; simp [hfind]) hrx, State.feed_of_empty p (by rw [hbench]; exact hstore)]

/-! The walk of the route list (R262) -/

/-- The walk reads the shelf alone: the numbering of orders has no part in it. -/
theorem walkSegment_nextSeq (x : Bench) (seq : Nat) (d : DispDesc) (strict : Bool) (cap e : Nat) (m : Nat × Nat) (n i kept : Nat)
    (w : Walked) : walkSegment { x with nextSeq := seq } d strict cap e m n i kept w = walkSegment x d strict cap e m n i kept w := by
  induction n generalizing i kept w with
  | zero => rfl
  | succ n ih =>
    simp only [walkSegment, ih]
    rfl

theorem walkRoutes_nextSeq (x : Bench) (seq : Nat) (d : DispDesc) (strict : Bool) (cap : Nat) (hist : List Nat)
    (m : List (Nat × Nat)) : walkRoutes { x with nextSeq := seq } d strict cap hist m = walkRoutes x d strict cap hist m := by
  simp only [walkRoutes, walkSegment_nextSeq]

/-- The kept routes to a peer (R263). -/
def Walked.keptOf (w : Walked) (q : Nat) : List Kept := w.kept.filter fun k => k.1 = q

/-- The same routes, each with its place in the sorted order. -/
def Walked.placedOf (w : Walked) (q : Nat) : List (Nat × Kept) :=
  w.kept.zipIdx.filterMap fun k => if k.1.1 = q then some (k.2, k.1) else none

theorem Walked.map_placedOf (w : Walked) (q : Nat) : (w.placedOf q).map (·.2) = w.keptOf q := by
  unfold Walked.placedOf Walked.keptOf
  generalize 0 = n
  induction w.kept generalizing n with
  | nil => rfl
  | cons k ks ih => by_cases hk : k.1 = q <;> simp [hk, ih]

theorem Walked.placedOf_tokens (w : Walked) (q : Nat) :
    ((w.placedOf q).map fun k => k.2.2.2.1) = (w.keptOf q).map (·.2.2.1) := by
  rw [← w.map_placedOf, List.map_map]
  rfl

theorem Walked.placedOf_count (w : Walked) (q l : Nat) :
    ((w.placedOf q).filter fun k => k.2.2.1 = l).length = ((w.keptOf q).filter fun k => k.2.1 = l).length := by
  rw [← w.map_placedOf, List.filter_map, List.length_map]
  rfl

/-- What a dispatch leaves of its walk: the overflow counts in their row, the totals in the counters (R262). -/
def Walked.record (w : Walked) (row : Nat) (x : Bench) : Bench := { x.putWords row w.excess with
  exOob := wrapAdd 64 x.exOob w.oob, exOverflow := wrapAdd 64 x.exOverflow (w.excess.foldl (· + ·) 0) }

/-! What an EXCHANGE sends and what it then awaits, by its mode: return mode or dispatch -/

/-- The peer words that an EXCHANGE names. -/
def Bench.exPeers (x : Bench) (o : ExchangeOp) : List Nat := x.words o.peerRow o.peers

/-- The peer word of a bench of this module. -/
def State.ownWord (s : State) (x : Bench) : Nat := peerWord s.coord x.logical

/-- The local experts of a bench in the order of its messages. -/
def Bench.exOrder (x : Bench) (o : ExchangeOp) (dd : DispDesc) (me : Nat) : List Nat :=
  localOrder (x.expertMap dd) (((x.exPeers o).zipIdx.find? fun e => e.1 = me).map (·.2)) dd.locals_

/-- The counts in the header of a peer's message (R263, R266). -/
def Bench.exCounts (x : Bench) (o : ExchangeOp) (dd : DispDesc) (w : Walked) (ret : Bool) (q : Nat) : List Nat :=
  if ret then (x.receiveTable dd o.peers).2.map fun cs => cs.getD q 0
  else (List.range (localsOf (x.expertMap dd) q)).map fun l => ((w.keptOf q).filter fun k => k.2.1 = l).length

/-- The positions of the tokens of a peer's message (R263, R266). -/
def Bench.exTokens (x : Bench) (o : ExchangeOp) (dd : DispDesc) (me : Nat) (w : Walked) (ret : Bool) (q : Nat) : List Nat :=
  if ret then peerPositions (x.exOrder o dd me) (x.receiveTable dd o.peers).1 (x.receiveTable dd o.peers).2 q
  else (w.keptOf q).map (·.2.2.1)

/-- The frames to a peer, under a header that gives the coordinates it goes to; none to the bench itself (R263; 12 R352). -/
def Bench.exFramesTo (x : Bench) (header : Nat → Frame) (o : ExchangeOp) (dd : DispDesc) (me : Nat) (w : Walked) (ret : Bool)
    (e : Nat × Nat) : List Frame :=
  if e.1 = me then []
  else
    let ts := x.tokensAt o.srcRow o.tokq (x.exTokens o dd me w ret e.2)
    exMessage { header (e.1 % 2 ^ 18) with c := bits e.1 24 18, d := x.logical, ef := o.tag } (x.exCounts o dd w ret e.2) ts.1 ts.2

/-- The messages of an EXCHANGE, in the order of the peer words. -/
def Bench.exFrames (x : Bench) (header : Nat → Frame) (o : ExchangeOp) (dd : DispDesc) (me : Nat) (w : Walked) (ret : Bool) :
    List Frame :=
  (x.exPeers o).zipIdx.flatMap (x.exFramesTo header o dd me w ret)

/-- The context of an EXCHANGE that waits for its peers' headers. -/
def ExCtx.Waits (c : ExCtx) (x : Bench) (o : ExchangeOp) (dd : DispDesc) (me now seq : Nat) (ret : Bool) : Prop :=
  c.ex = o ∧ c.ret = ret ∧ c.desc = dd ∧ c.peers = (x.exPeers o).map (BitVec.ofNat 32) ∧ c.started = false ∧
    c.order = x.exOrder o dd me ∧ c.since = now ∧ c.seq = seq

/-- An EXCHANGE of bench `x` that meets no fault and awaits another bench: its rows, peer words and tables are right (R262), its
walk finds `w` and stops at no route, the outputs that it returns lie on the shelf (R266), and no frame waits in the store. -/
def ExLegal (s : State) (p : PartId) (o : ExchangeOp) (dd : DispDesc) (x : Bench) (w : Walked) (ret : Bool) : Prop :=
  dd.mode = (if ret then 1 else 0) ∧ exRowsBad dd o = false ∧ x.shelfStain = [] ∧ (x.exPeers o).any (peerBad s.geo) = false ∧
    (ret = false → tableBreach dd (x.words dd.histRow dd.experts) (x.words dd.offRow dd.experts) (x.expertMap dd) (x.exPeers o) =
      none) ∧
    walkRoutes x dd (dd.mode = 0 && (dd.strict || (s.part p).hdr.strictPolicy = 1)) ((s.part p).caps.getD dd.cap 0)
      (x.words dd.histRow dd.experts) (x.expertMap dd) = w ∧ w.strictAt = none ∧
    (ret = true → ((List.range o.peers).all fun q => (x.exTokens o dd (s.ownWord x) w ret q).all fun τ =>
      o.srcRow + rowsFor ((τ + 1) * o.tokq * 64) ≤ shelfRows) = true) ∧
    (ret = false → ∀ e, ((x.exPeers o).zipIdx.find? fun e => e.1 = s.ownWord x) = some e →
      localsOf (x.expertMap dd) e.2 = dd.locals_) ∧
    (∃ pw ∈ x.exPeers o, pw ≠ s.ownWord x) ∧ x.rxStore = []

theorem State.ite_modBench (c : Prop) [Decidable c] (s : State) (b : BenchId) (f : Bench → Bench) :
    (if c then s.modBench b f else s) = s.modBench b fun x => if c then f x else x := by
  split
  · rfl
  · exact (State.modBench_id rfl).symm

/-- The bench's own header is in hand from the start; that of any other peer is missing (R264). -/
theorem header_missing {peers : List Nat} {me : Nat} {own : Nat → List Nat} (h : ∃ pw ∈ peers, pw ≠ me) :
    (peers.zipIdx.map fun e => if e.1 = me then { counts := some (own e.2), done := true } else ({} : ExPeer)).all
      (·.counts.isSome) = false := by
  obtain ⟨pw, hmem, hne⟩ := h
  obtain ⟨i, hi, rfl⟩ := List.getElem_of_mem hmem
  refine List.all_eq_false.mpr ⟨{}, List.mem_map.mpr ⟨(peers[i], i), ?_, if_neg hne⟩, by simp⟩
  simp [List.mem_zipIdx_iff_getElem?, hi]

/-- The checks of the tables that a dispatch alone makes (R262). -/
theorem no_breach {α : Type} {mode : Nat} {ret : Bool} {found : Option α} (hmode : mode = if ret then 1 else 0)
    (h : ret = false → found = none) : (if mode = 0 then found else none) = none := by
  cases ret with
  | true => rw [if_neg (by simp [hmode])]
  | false => rw [if_pos (by simp [hmode]), h rfl]

/-- The check of the outputs that return mode alone makes (R266). -/
theorem none_past {ret : Bool} {row tokq n : Nat} {tokens : Nat → List Nat}
    (h : ret = true → ((List.range n).all fun q => (tokens q).all fun τ => row + rowsFor ((τ + 1) * tokq * 64) ≤ shelfRows) = true) :
    (ret && (List.range n).any fun q => (tokens q).any fun τ => row + rowsFor ((τ + 1) * tokq * 64) > shelfRows) = false := by
  cases ret with
  | true => simpa using h rfl
  | false => rfl

/-- The header that a dispatch keeps for itself counts the experts of this bench. -/
theorem Bench.exCounts_own {x : Bench} {o : ExchangeOp} {dd : DispDesc} {w : Walked} {ret : Bool} {q : Nat}
    (h : ret = false → localsOf (x.expertMap dd) q = dd.locals_) :
    (!ret && ((x.exCounts o dd w ret q).length ≠ dd.locals_ : Bool)) = false := by
  cases ret with
  | true => rfl
  | false => simpa [Bench.exCounts] using h rfl

/-- Nothing of it depends on the number of the order. -/
theorem ExLegal.of_nextSeq {s : State} {p : PartId} {o : ExchangeOp} {dd : DispDesc} {x : Bench} {w : Walked} {ret : Bool}
    (h : ExLegal s p o dd x w ret) (b : BenchId) (seq : Nat) (f : Bench → Bench) :
    ExLegal (s.modBench b f) p o dd { x with nextSeq := seq } w ret := by
  obtain ⟨hmode, hrows, hclean, hpeers, htables, hwalk, hrest⟩ := h
  exact ⟨hmode, hrows, hclean, hpeers, htables, (walkRoutes_nextSeq ..).trans hwalk, hrest⟩

/-! The two steps of its start; as one block they are elaborated in order, and not beside the proofs before them. -/

mutual

/-- What an EXCHANGE does that meets no fault and awaits another bench: a dispatch records its walk, the messages leave, and the
order waits in its context. -/
theorem State.startExchange_waits {s : State} {b : BenchId} {p : PartId} {o : ExchangeOp} {dd : DispDesc} {d : DecOrder} {x : Bench}
    {w : Walked} {ret : Bool} (h : ExLegal s p o dd x w ret) (hx : s.bench b = x) (hb : b.idx < s.benches.length)
    (hnew : ∀ e ∈ x.exchanges, e.seq ≠ d.seq) :
    ∃ c : ExCtx, c.Waits x o dd (s.ownWord x) s.now d.seq ret ∧ s.startExchange b p o dd true true d =
      ((s.modBench b fun y => if ret then y else w.record dd.ovfRow y).launchAll (some p)
        (x.exFrames (s.header p 0x02 2) o dd (s.ownWord x) w ret)).modBench b fun y => { y with exchanges := y.exchanges ++ [c] } := by
  subst hx
  obtain ⟨hmode, hrows, hclean, hpeers, htables, hwalk, hunstopped, hwithin, hlocals, hother, hstore⟩ := h
  unfold State.startExchange
  extract_lets x stained peers hist m strict walked counted desc recorded mine keptCounts back me own order kept
  have hclear : ∀ row bytes, stained row bytes = false := fun row bytes => by
    simp only [stained, x, Bench.shelfStained_of_clean hclean, Bool.and_false]
  have hbreach : (if dd.mode = 0 then tableBreach dd hist (x.words dd.offRow dd.experts) m peers else none) = none :=
    no_breach hmode htables
  rw [if_neg (by simp [hclear]), if_neg (by simp), if_neg (by simp), if_neg (by simp [hrows]), if_neg (by simp [hclear]),
    if_neg (ne_true_of_eq_false (b := peers.any (peerBad s.geo)) hpeers), hbreach]
  dsimp -zeta only
  extract_lets counts tokens frames sent rx c
  -- what the order's own values come to: its walk, its mode, the state it sends from, its counts and its tokens
  have hwalked : walked = w := hwalk
  have hback : back = ret := by cases ret <;> simp [back, hmode]
  have hrecorded : recorded = s.modBench b fun y => if ret then y else w.record dd.ovfRow y := by
    simp only [recorded, counted, State.ite_modBench, State.modBench_modBench, hwalked, hmode]
    cases ret <;> rfl
  have hme : me = s.ownWord x := by simp only [me, hrecorded]; rfl
  clear_value walked recorded back
  subst hwalked hback hrecorded
  clear_value me
  subst hme
  have hcounts : counts = x.exCounts o dd walked back := by
    funext q
    cases back with
    | true => rfl
    | false => exact List.map_congr_left fun l _ => walked.placedOf_count q l
  have htokens : tokens = x.exTokens o dd (s.ownWord x) walked back := by
    funext q
    cases back with
    | true => rfl
    | false => exact (List.map_map ..).trans (walked.placedOf_tokens q)
  clear_value counts tokens
  subst hcounts htokens
  have hbench : sent.bench b = if back then x else walked.record dd.ovfRow x := by
    simp only [sent, State.launchAll_bench, State.modBench_self _ _ _ hb, x]
  have hwaits : ((sent.modBench b fun y => { y with exchanges := y.exchanges ++ [c] }).exReady b p d.seq).feed b p =
      sent.modBench b fun y => { y with exchanges := y.exchanges ++ [c] } := by
    refine State.opened_waits p (c := c) (by simpa [sent] using hb) ?_ ?_ (header_missing hother)
    · rw [hbench]; split <;> exact hnew
    · rw [hbench]; split <;> exact hstore
  refine ⟨c, ⟨rfl, rfl, rfl, rfl, rfl, rfl, (State.launchAll_now ..).trans rfl, rfl⟩, ?_⟩
  rw [hunstopped]
  dsimp -zeta only
  refine (if_neg (ne_true_of_eq_false (none_past hwithin))).trans ?_
  rw [hwaits]
  cases hown : own with
  | none => rfl
  | some e => exact if_neg (ne_true_of_eq_false (Bench.exCounts_own fun hret => hlocals hret e hown))

/-- An EXCHANGE that no slot holds, under the row of its mode. -/
theorem State.exchangeRow_waits {s : State} {b : BenchId} {p : PartId} {o : ExchangeOp} {dd : DispDesc} {w : Walked} {ret : Bool}
    (halone : Safety.Alone s b p (.exchange o)) (hdesc : parseDisp ((s.bench b).shelfRead (512 * o.dispRow) 64) = (dd, true, true))
    (h : ExLegal s p o dd (s.bench b) w ret) (hnew : ∀ e ∈ (s.bench b).exchanges, e.seq ≠ (s.bench b).nextSeq) :
    ∃ c : ExCtx, c.Waits (s.bench b) o dd (s.ownWord (s.bench b)) s.now (s.bench b).nextSeq ret ∧
      s.exchangeRow b o (if ret then 1 else 0) = ((s.modBench b fun y =>
          if ret then { y with nextSeq := y.nextSeq + 1 } else w.record dd.ovfRow { y with nextSeq := y.nextSeq + 1 }).launchAll (some p)
        ((s.bench b).exFrames (s.header p 0x02 2) o dd (s.ownWord (s.bench b)) w ret)).modBench b
          fun y => { y with exchanges := y.exchanges ++ [c] } := by
  have ⟨_, hpart, _⟩ := halone
  have ⟨hmode, _⟩ := h
  have hb : b.idx < s.benches.length := State.idx_lt_of_partOf hpart
  obtain ⟨c, hc, he⟩ := State.startExchange_waits (d := { body := .exchange o, seq := (s.bench b).nextSeq })
    (h.of_nextSeq b ((s.bench b).nextSeq + 1) fun y => { y with nextSeq := y.nextSeq + 1 }) (s.modBench_self b _ hb)
    (by simpa using hb) hnew
  refine ⟨c, hc, ?_⟩
  simp only [State.exchangeRow, hdesc, hmode, ne_eq, not_true_eq_false, decide_false, Bool.false_and, Bool.false_eq_true, if_false,
    State.runCross_of_alone halone]
  rw [he, State.modBench_modBench]
  rfl

end

end Sys2Proof.Machine

namespace Sys2Proof.Proofs

open Sys2Proof Sys2Proof.Machine

/-- Settles O26: a bench whose receive store is empty and that lacks a header hands nothing out, so the context that the order
opens stays as it is. That LOCALS is the number of the map's entries for a peer and the order of the local experts are log 80's
choice; the row of the other mode is log 9's. -/
theorem exchangeCountsSendsAndWaits : Obligations.ExchangeCountsSendsAndWaits := by
  intro b o s p dd halone hdesc hrows hclean hstore hnew x peers hist m me order w keptOf
  dsimp -zeta only
  intro message waits hpeers hother hstrict
  refine ⟨fun hmode htables hlocals => ?dispatch, fun hmode hwithin => ?back⟩
  case dispatch =>
    have h : ExLegal s p o dd (s.bench b) w false :=
      ⟨hmode, hrows, hclean, hpeers, fun _ => htables, rfl, hstrict, nofun, fun _ => hlocals, hother, hstore⟩
    obtain ⟨c, hc, he⟩ := State.exchangeRow_waits halone hdesc h hnew
    exact ⟨c, hc, congrArg Host.Outcome.next he⟩
  case back =>
    have h : ExLegal s p o dd (s.bench b) w true :=
      ⟨hmode, hrows, hclean, hpeers, nofun, rfl, hstrict, fun _ => hwithin, nofun, hother, hstore⟩
    obtain ⟨c, hc, he⟩ := State.exchangeRow_waits halone hdesc h hnew
    exact ⟨c, hc, congrArg Host.Outcome.next he⟩

end Sys2Proof.Proofs

/-! FOLD within its bench: the work of an order, its plan, its blocks and its end (13 R371 to R375, R388) -/

namespace Sys2Proof.Machine

open Sys2Proof

/-- What a bench has under way: its orders in flight, its FOLDs and the frames that wait in its receive store. -/
def Bench.underWay (x : Bench) : List InFlight × List FoldCtx × List (Option PortId × Frame) := (x.inflight, x.folds, x.rxStore)

theorem Bench.underWay_inj {x y : Bench} :
    x.underWay = y.underWay ↔ x.inflight = y.inflight ∧ x.folds = y.folds ∧ x.rxStore = y.rxStore := by
  simp [Bench.underWay]

/-! Work on one order leaves what its bench has under way -/

@[simp] theorem Bench.recordBd_underWay (x : Bench) (bd : Option (Nat × Nat × Bool × Nat)) :
    (x.recordBd bd).underWay = x.underWay := by
  unfold Bench.recordBd
  split
  · split <;> rfl
  · rfl

@[simp] theorem Work.fail_underWay (w : Work) (code : Nat) : (w.fail code).x.underWay = w.x.underWay := by
  unfold Work.fail; split <;> rfl

@[simp] theorem Work.failWhen_underWay (w : Work) (c : Bool) (code : Nat) : (w.failWhen c code).x.underWay = w.x.underWay := by
  unfold Work.failWhen; split <;> simp

@[simp] theorem Work.failBd_underWay (w : Work) (code cause desc : Nat) (write : Bool) (va : Nat) :
    (w.failBd code cause desc write va).x.underWay = w.x.underWay := by
  unfold Work.failBd; split <;> simp

@[simp] theorem Work.countLine_underWay (w : Work) : w.countLine.x.underWay = w.x.underWay := rfl

@[simp] theorem Work.oobEvent_underWay (w : Work) (i : Nat) (d : TDesc) (write : Bool) (va n : Nat) :
    (w.oobEvent i d write va n).x.underWay = w.x.underWay := by
  unfold Work.oobEvent
  split
  · rfl
  · extract_lets k v
    split
    · exact Work.failBd_underWay ..
    · rfl

/-! Translation, descriptors and owner tables -/

@[simp] theorem Work.leaf_underWay (w : Work) (va : Nat) : (w.leaf va).2.x.underWay = w.x.underWay := by
  unfold Work.leaf
  split
  · rfl
  · dsimp only
    split <;> rfl

@[simp] theorem Work.dataAddr_underWay (w : Work) (desc va : Nat) (write : Bool) :
    (w.dataAddr desc va write).2.x.underWay = w.x.underWay := by
  rw [← w.leaf_underWay va]
  unfold Work.dataAddr
  rcases w.leaf va with ⟨(c | _) | e, v⟩
  · exact Work.failBd_underWay ..
  · exact Work.fail_underWay ..
  · dsimp only; split <;> simp

@[simp] theorem Work.fetchAddr_underWay (w : Work) (va : Nat) : (w.fetchAddr va).2.x.underWay = w.x.underWay := by
  rw [← w.leaf_underWay va]
  unfold Work.fetchAddr
  rcases w.leaf va with ⟨(c | _) | e, v⟩
  · exact Work.failBd_underWay ..
  · exact Work.fail_underWay ..
  · dsimp only; split <;> simp

@[simp] theorem Work.fetchLine_underWay (w : Work) (va : Nat) : (w.fetchLine va).2.x.underWay = w.x.underWay := by
  rw [← w.fetchAddr_underWay (lineBase va)]
  unfold Work.fetchLine
  rcases w.fetchAddr (lineBase va) with ⟨_ | pa, v⟩
  · rfl
  · dsimp only
    split
    · exact Work.fail_underWay ..
    · rfl

@[simp] theorem Work.rawDesc_underWay (w : Work) (i : Nat) : (w.rawDesc i).2.x.underWay = w.x.underWay := by
  unfold Work.rawDesc
  split
  · exact Work.fail_underWay ..
  · split
    · rfl
    · rw [← w.fetchLine_underWay (w.x.dtab + 64 * i)]
      dsimp only
      split <;> rfl

@[simp] theorem Work.checkDesc_underWay (w : Work) (d : TDesc) : (w.checkDesc d).x.underWay = w.x.underWay := by
  simp [Work.checkDesc]

@[simp] theorem Work.desc_underWay (w : Work) (i : Nat) : (w.desc i).2.2.x.underWay = w.x.underWay := by
  unfold Work.desc
  dsimp only
  split
  · exact Work.rawDesc_underWay ..
  · split
    · simp
    · dsimp only
      split <;> simp

@[simp] theorem Work.ownerLine_underWay (w : Work) (i oi va : Nat) : (w.ownerLine i oi va).2.x.underWay = w.x.underWay := by
  unfold Work.ownerLine
  dsimp only
  split
  · rfl
  · rw [← w.dataAddr_underWay oi (lineBase va) false]
    rcases w.dataAddr oi (lineBase va) false with ⟨_ | pa, v⟩
    · rfl
    · dsimp only
      split
      · exact Work.fail_underWay ..
      · rfl

@[simp] theorem Work.ownerEntry_underWay (w : Work) (i oi : Nat) (o : TDesc) (blk : Nat) :
    (w.ownerEntry i oi o blk).2.x.underWay = w.x.underWay := by
  unfold Work.ownerEntry
  extract_lets l
  split
  · exact Work.ownerLine_underWay ..
  · exact Work.oobEvent_underWay ..

/-! Bytes through a descriptor -/

@[simp] theorem Work.readNew_underWay (w : Work) (desc va : Nat) : (w.readNew desc va).2.2.x.underWay = w.x.underWay := by
  rw [← w.dataAddr_underWay desc va false]
  unfold Work.readNew
  rcases w.dataAddr desc va false with ⟨_ | pa, v⟩
  · rfl
  · dsimp only
    split
    · exact Work.fail_underWay ..
    · rfl

@[simp] theorem Work.readByte_underWay (w : Work) (desc va : Nat) : (w.readByte desc va).2.2.x.underWay = w.x.underWay := by
  unfold Work.readByte
  split
  · split
    · rfl
    · exact Work.readNew_underWay ..
  · exact Work.readNew_underWay ..

@[simp] theorem Work.readMem_underWay (desc n va : Nat) (w : Work) : (Work.readMem desc n va w).2.2.x.underWay = w.x.underWay := by
  induction n generalizing va w with
  | zero => rfl
  | succ n ih => simp only [Work.readMem]; split <;> simp [ih]

@[simp] theorem Work.flush_underWay (w : Work) (desc : Nat) : (w.flush desc).x.underWay = w.x.underWay := by
  unfold Work.flush
  split
  · rfl
  · next l d mask st _ =>
    dsimp only
    rw [show w.x.underWay = _ from (Work.dataAddr_underWay { w with wbuf := none, rbuf := none } desc l true).symm]
    rcases Work.dataAddr { w with wbuf := none, rbuf := none } desc l true with ⟨_ | pa, v⟩
    · rfl
    · dsimp only
      split
      · rfl
      · split
        · exact Work.fail_underWay ..
        · rfl

@[simp] theorem Work.writeByte_underWay (w : Work) (desc va : Nat) (b : Byte) (st : Bool) :
    (w.writeByte desc va b st).x.underWay = w.x.underWay := by
  unfold Work.writeByte
  dsimp only
  split
  · split
    · rfl
    · exact Work.flush_underWay ..
  · rfl

@[simp] theorem Work.writeMem_underWay (desc : Nat) (st : Bool) (bs : List Byte) (va : Nat) (w : Work) :
    (Work.writeMem desc st bs va w).x.underWay = w.x.underWay := by
  induction bs generalizing va w with
  | nil => rfl
  | cons b bs ih => simp only [Work.writeMem]; split <;> simp [ih]

/-! The plan of a FOLD, its slots and its local blocks -/

@[simp] theorem Work.foldEntry_underWay (q : FoldSide) (blk : Nat) (write : Bool) (w : Work) :
    (w.foldEntry q blk write).2.2.x.underWay = w.x.underWay := by
  unfold Work.foldEntry
  split
  · rfl
  · dsimp only
    split
    · simp
    · split <;> simp

@[simp] theorem Work.foldPlan_underWay (src dst : FoldSide) (me n blk : Nat) (w : Work) :
    (Work.foldPlan src dst me n blk w).2.x.underWay = w.x.underWay := by
  induction n generalizing blk w with
  | zero => rfl
  | succ n ih => simp only [Work.foldPlan]; split <;> simp [ih]

@[simp] theorem Work.readUnit_underWay (q : FoldSide) (k : Nat) (w : Work) : (w.readUnit q k).2.2.x.underWay = w.x.underWay := by
  unfold Work.readUnit
  dsimp only
  split
  · split <;> simp
  · exact Work.oobEvent_underWay ..

@[simp] theorem Work.writeUnit_underWay (q : FoldSide) (k : Nat) (bs sc : Marked) (w : Work) :
    (w.writeUnit q k bs sc).x.underWay = w.x.underWay := by
  unfold Work.writeUnit
  dsimp only
  split
  · split <;> simp
  · simp

@[simp] theorem Work.readUnits_underWay (q : FoldSide) (n k : Nat) (w : Work) :
    (Work.readUnits q n k w).2.2.x.underWay = w.x.underWay := by
  induction n generalizing k w with
  | zero => rfl
  | succ n ih => simp only [Work.readUnits]; split <;> simp [ih]

@[simp] theorem Work.writeUnits_underWay (q : FoldSide) (n k : Nat) (bs sc : Marked) (w : Work) :
    (Work.writeUnits q n k bs sc w).x.underWay = w.x.underWay := by
  induction n generalizing k bs sc w with
  | zero => exact Work.flush_underWay ..
  | succ n ih => simp only [Work.writeUnits]; split <;> simp [ih]

theorem Work.readSlot_underWay (q : FoldSide) (elems slot : Nat) (w : Work) :
    (w.readSlot q elems slot).2.2.x.underWay = w.x.underWay := Work.readUnits_underWay ..

theorem Work.writeSlot_underWay (q : FoldSide) (elems slot : Nat) (bs sc : Marked) (w : Work) :
    (w.writeSlot q elems slot bs sc).x.underWay = w.x.underWay := Work.writeUnits_underWay ..

/-! A plan that keeps within its bench (R373, R374) -/

/-- A step that neither leaves this bench nor awaits another: a move between two slots of its own, or a fill. -/
def FoldStep.isLocal : FoldStep → Bool
  | .move _ _ | .fill _ => true
  | _ => false

def FoldStep.isFill : FoldStep → Bool
  | .fill _ => true
  | _ => false

def FoldData.IsSlot (k : FoldData) : Prop := ∃ d bs sc, k = .slot d bs sc

theorem FoldStep.local_cases {k : FoldStep} (h : k.isLocal = true) : (∃ s d, k = .move s d) ∨ ∃ d, k = .fill d := by
  cases k with
  | move s d => exact .inl ⟨s, d, rfl⟩
  | fill d => exact .inr ⟨d, rfl⟩
  | _ => cases h

section LocalPlan

variable {plan : List FoldStep} (hlocal : plan.all FoldStep.isLocal = true)

include hlocal

/-- What steps of the other kinds alone give rise to, such a plan lacks. -/
theorem FoldStep.filterMap_of_local {α : Type} {f : FoldStep → Option α} (hmove : ∀ s d, f (.move s d) = none)
    (hfill : ∀ d, f (.fill d) = none) : plan.filterMap f = [] := by
  refine List.filterMap_eq_nil_iff.mpr fun k hk => ?_
  obtain ⟨s, d, rfl⟩ | ⟨d, rfl⟩ := FoldStep.local_cases (List.all_eq_true.mp hlocal k hk)
  · exact hmove s d
  · exact hfill d

theorem FoldStep.flatMap_of_local {α : Type} {f : FoldStep → List α} (hmove : ∀ s d, f (.move s d) = [])
    (hfill : ∀ d, f (.fill d) = []) : plan.flatMap f = [] := by
  refine List.flatMap_eq_nil_iff.mpr fun k hk => ?_
  obtain ⟨s, d, rfl⟩ | ⟨d, rfl⟩ := FoldStep.local_cases (List.all_eq_true.mp hlocal k hk)
  · exact hmove s d
  · exact hfill d

theorem FoldStep.filter_of_local {f g : FoldStep → Bool} (hmove : ∀ s d, f (.move s d) = g (.move s d))
    (hfill : ∀ d, f (.fill d) = g (.fill d)) : plan.filter f = plan.filter g := by
  refine List.filter_congr fun k hk => ?_
  obtain ⟨s, d, rfl⟩ | ⟨d, rfl⟩ := FoldStep.local_cases (List.all_eq_true.mp hlocal k hk)
  · exact hmove s d
  · exact hfill d

end LocalPlan

theorem Work.readStep_of_local {k : FoldStep} (h : k.isLocal = true) (src : FoldSide) (elems : Nat) (own : TDesc) (w : Work) :
    (∀ d ∈ (w.readStep src elems own k).1, d.IsSlot) ∧ (w.readStep src elems own k).2.x.underWay = w.x.underWay := by
  obtain ⟨s, d, rfl⟩ | ⟨d, rfl⟩ := FoldStep.local_cases h
  · exact ⟨fun _ hd => ⟨_, _, _, (Option.some.inj hd).symm⟩, Work.readSlot_underWay ..⟩
  · exact ⟨fun _ hd => ⟨_, _, _, (Option.some.inj hd).symm⟩, rfl⟩

/-- The reads of such a plan bring slots alone. -/
theorem Work.readSteps_of_local {plan : List FoldStep} (hlocal : plan.all FoldStep.isLocal = true) (src : FoldSide) (elems : Nat)
    (own : TDesc) (w : Work) : (∀ d ∈ (Work.readSteps src elems own plan w).1, d.IsSlot) ∧
      (Work.readSteps src elems own plan w).2.x.underWay = w.x.underWay := by
  induction plan generalizing w with
  | nil => exact ⟨nofun, rfl⟩
  | cons k ks ih =>
    obtain ⟨hk, hks⟩ : k.isLocal = true ∧ ks.all FoldStep.isLocal = true := by simpa using hlocal
    obtain ⟨hslot, hway⟩ := Work.readStep_of_local hk src elems own w
    obtain ⟨hslots, hways⟩ := ih hks (w.readStep src elems own k).2
    simp only [Work.readSteps]
    split
    · exact ⟨nofun, hway⟩
    · refine ⟨fun d hd => ?_, hways.trans hway⟩
      rcases List.mem_append.mp hd with hd | hd
      · exact hslot d (Option.mem_toList.mp hd)
      · exact hslots d hd

theorem Work.writeStep_slot_underWay {k : FoldData} (h : k.IsSlot) (dst : FoldSide) (elems : Nat) (own : TDesc) (w : Work) :
    (w.writeStep dst elems own k).x.underWay = w.x.underWay := by
  obtain ⟨d, bs, sc, rfl⟩ := h
  exact Work.writeSlot_underWay ..

/-- The work of a FOLD that has read its blocks: it takes its staging lines and writes its slots. -/
def Work.foldWrites (b : BenchId) (dst : FoldSide) (own : TDesc) (lines : Nat) (ds : List FoldData) (w : Work) : Work :=
  ds.foldl (fun w k => if w.ok then w.writeStep dst (blockElems own) own k else w)
    { w with m := MemSys.stage b.tile b.phys 524289 lines 0 w.m }

theorem Work.foldWrites_underWay {ds : List FoldData} (h : ∀ d ∈ ds, d.IsSlot) (b : BenchId) (dst : FoldSide) (own : TDesc)
    (lines : Nat) (w : Work) : (w.foldWrites b dst own lines ds).x.underWay = w.x.underWay := by
  rw [show w.x.underWay = ({ w with m := MemSys.stage b.tile b.phys 524289 lines 0 w.m } : Work).x.underWay from rfl]
  unfold Work.foldWrites
  generalize ({ w with m := MemSys.stage b.tile b.phys 524289 lines 0 w.m } : Work) = w
  induction ds generalizing w with
  | nil => rfl
  | cons k ks ih =>
    obtain ⟨hk, hks⟩ := List.forall_mem_cons.mp h
    rw [List.foldl_cons, ih hks]
    split
    · exact Work.writeStep_slot_underWay hk ..
    · rfl

/-! A FOLD that awaits nothing completes (07 R232; R375) -/

/-- An order that no slot holds completes without a trace of its own: it raised no flag and counted nothing out of bounds. -/
theorem State.crossDone_of_direct {s : State} {b : BenchId} (h : (s.bench b).inflight = []) (seq op : Nat) :
    s.crossDone b seq {} [] op = s := by
  have hflags : (s.modBench b fun x => { x with bqFlags := fOr x.bqFlags {} }) = s := State.modBench_id (by simp [fOr])
  simp only [State.crossDone, h, List.any_nil, hflags]
  cases (s.bench b).partOf <;> rfl

/-- What a change of a bench keeps of it, it keeps of every bench. -/
theorem State.modBench_keeps {β : Type} {g : Bench → β} {f : Bench → Bench} (h : ∀ x, g (f x) = g x) (s : State) (c b : BenchId) :
    g ((s.modBench c f).bench b) = g (s.bench b) := by
  simp only [State.bench, State.modBench, List.getD_eq_getElem?_getD, List.getElem?_modify]
  cases s.benches[b.idx]? with
  | none => rfl
  | some x =>
    by_cases hi : c.idx = b.idx
    · simp [hi, h]
    · simp [hi]

theorem State.poolFreed_inflight (s : State) (t : TileId) (b : BenchId) :
    ((s.poolFreed t).bench b).inflight = (s.bench b).inflight := by
  refine foldl_keeps (g := fun s : State => (s.bench b).inflight) (fun s c => ?_) allBenches s
  split
  · refine State.modBench_keeps (g := Bench.inflight) ?_ s c b
    exact fun _ => rfl
  · rfl

/-- A FOLD gives its staging lines back, and one that waits for them may issue. -/
def State.foldReleased (s : State) (b : BenchId) (lines : Nat) : State :=
  let t := s.modCache b.tile fun t => { t with stageLines := dropStage b.phys lines t.stageLines }
  if lines = 0 then t else t.poolFreed b.tile

theorem State.foldReleased_inflight (s : State) (b : BenchId) (lines : Nat) :
    ((s.foldReleased b lines).bench b).inflight = (s.bench b).inflight := by
  unfold State.foldReleased
  extract_lets t
  split
  · rfl
  · exact State.poolFreed_inflight t b.tile b

/-- The context of a FOLD that has sent and received all it has to, on `lines` staging lines. -/
def FoldCtx.Done (c : FoldCtx) (lines : Nat) : Prop :=
  c.rx = [] ∧ c.pulls = [] ∧ c.todo = [] ∧ c.slots = [] ∧ c.oob = [] ∧ c.staged = 64 * lines

/-- With no read to send, none goes out. -/
theorem State.foldPullGo_of_done {s : State} {b : BenchId} {c : FoldCtx} (p : PartId) (n : Nat)
    (hc : (s.bench b).folds.find? (fun e => e.seq = c.seq) = some c) (h : c.todo = []) : State.foldPullGo b p c.seq n s = s := by
  cases n with
  | zero => rfl
  | succ n => simp [State.foldPullGo, hc, h]

theorem State.foldFinish_of_done {s : State} {b : BenchId} {c : FoldCtx} {lines : Nat}
    (hc : (s.bench b).folds.find? (fun e => e.seq = c.seq) = some c) (h : c.Done lines) (hb : b.idx < s.benches.length)
    (hin : (s.bench b).inflight = []) : s.foldFinish b c.seq =
      (s.modBench b fun x => { x with folds := x.folds.filter fun e => e.seq ≠ c.seq }).foldReleased b lines := by
  obtain ⟨hrx, hpulls, htodo, hslots, hoob, hstaged⟩ := h
  have hzero : 64 * lines = 0 ↔ lines = 0 := by omega
  have hlines : 64 * lines / 64 = lines := by omega
  simp only [State.foldFinish, hc, hrx, hpulls, htodo, hslots, hoob, hstaged, hzero, hlines, List.all_nil, List.isEmpty_nil,
    Bool.and_self, if_true]
  refine State.crossDone_of_direct (s := State.foldReleased _ b lines) ?_ _ _
  rw [State.foldReleased_inflight, State.modBench_self _ _ _ hb, hin]

/-- A context opened under a number that no other has, with nothing left to await and no frame in the store, closes at once. -/
theorem State.opened_fold_closes {s : State} {b : BenchId} {c : FoldCtx} {lines : Nat} (p : PartId) (hb : b.idx < s.benches.length)
    (hin : (s.bench b).inflight = []) (hstore : (s.bench b).rxStore = []) (hnew : ∀ e ∈ (s.bench b).folds, e.seq ≠ c.seq)
    (h : c.Done lines) (out inn : Nat) :
    ((State.foldPullGo b p c.seq 64
      ((s.modBench b fun x => { x with folds := x.folds ++ [c] }).foldCount b out inn)).feed b p).foldFinish b c.seq =
      (s.foldCount b out inn).foldReleased b lines := by
  have hbench : ((s.modBench b fun x => { x with folds := x.folds ++ [c] }).foldCount b out inn).bench b =
      { s.bench b with folds := (s.bench b).folds ++ [c], fdOut := wrapAdd 64 (s.bench b).fdOut out
                       fdIn := wrapAdd 64 (s.bench b).fdIn inn } := by
    simp only [State.foldCount, State.modBench_modBench, State.modBench_self _ _ _ hb]
  have hfind : ((s.bench b).folds ++ [c]).find? (fun e => e.seq = c.seq) = some c := by
    have hnone : (s.bench b).folds.find? (fun e => e.seq = c.seq) = none := by simpa using hnew
    simp [hnone]
  have hfilter : ((s.bench b).folds ++ [c]).filter (fun e => e.seq ≠ c.seq) = (s.bench b).folds := by
    simpa [List.filter_append] using hnew
  have ⟨_, _, htodo, _⟩ := h
  rw [State.foldPullGo_of_done p 64 (by rw [hbench]; exact hfind) htodo, State.feed_of_empty p (by rw [hbench]; exact hstore),
    State.foldFinish_of_done (by rw [hbench]; exact hfind) h (by simpa [State.foldCount] using hb) (by rw [hbench]; exact hin)]
  congr 1
  simp only [State.foldCount, State.modBench_modBench]
  exact State.modBench_congr (by simp only [hfilter])

/-! FOLD by itself on its bench (R371, R373 to R375) -/

/-- The descriptor whose owner table gives a FOLD its blocks. -/
def foldOwn (src dst : FoldSide) : TDesc := if src.o.isSome then src.d else dst.d

theorem State.bench_putWork {s : State} {b : BenchId} (hb : b.idx < s.benches.length) (p : PartId) (w : Work) :
    (s.putWork b p w).bench b = w.x := s.setBench_self b w.x hb

theorem State.putWork_len (s : State) (b : BenchId) (p : PartId) (w : Work) : (s.putWork b p w).benches.length = s.benches.length :=
  s.setBench_len b w.x

/-- A planned FOLD whose plan keeps within its bench: its slots are written, its blocks counted, its staging lines released. -/
theorem State.foldRun_of_local {s : State} {b : BenchId} {p : PartId} {o : FoldOp} {src dst : FoldSide}
    {raws : List Byte × List Byte} {plan : List FoldStep} {staged : List Nat} {lines : Nat} {w0 v v1 u : Work}
    {ds : List FoldData} {d : DecOrder}
    (hb : b.idx < s.benches.length) (hlocal : plan.all FoldStep.isLocal = true)
    (hread : Work.readSteps src (blockElems (foldOwn src dst)) (foldOwn src dst) plan v = (ds, v1)) (hok : v1.fault = none)
    (hwrites : v1.foldWrites b dst (foldOwn src dst) lines ds = u) (hfault : u.fault = none) (hoob : u.oob = [])
    (hin : v.x.inflight = []) (hstore : v.x.rxStore = []) (hnew : ∀ e ∈ v.x.folds, e.seq ≠ d.seq) :
    s.foldRun b p o src dst raws plan staged lines w0 v d =
      ((s.putWork b p u).foldCount b (ds.length - (plan.filter FoldStep.isFill).length) ds.length).foldReleased b lines := by
  obtain ⟨hslots, hway⟩ := Work.readSteps_of_local hlocal src (blockElems (foldOwn src dst)) (foldOwn src dst) v
  rw [hread] at hslots hway
  have hux : u.x.underWay = v.x.underWay := by rw [← hwrites, Work.foldWrites_underWay hslots, hway]
  obtain ⟨hxin, hxfolds, hxstore⟩ := Bench.underWay_inj.mp hux
  unfold State.foldRun
  extract_lets own elems sends recvs fills pulls
  have hsends : sends = [] := FoldStep.filterMap_of_local hlocal (fun _ _ => rfl) fun _ => rfl
  have hrecvs : recvs = [] := FoldStep.filterMap_of_local hlocal (fun _ _ => rfl) fun _ => rfl
  clear_value sends recvs
  subst hsends hrecvs
  rw [show Work.readSteps src elems own plan v = (ds, v1) from hread]
  dsimp -zeta only [byPeer, List.foldl_nil, Work.foldMessages]
  -- the work that takes the staging lines and the work that has written; the blocks moved and filled, the reads still to go out;
  -- the context that the order opens, and the states that it is opened and run in
  extract_lets v2 v3 moved c s1 s2
  have hstaged : v2 = { v1 with m := MemSys.stage b.tile b.phys 524289 lines 0 v1.m } := if_pos (by simp [Work.ok, hok])
  have hwritten : v3 = u := (if_pos (by rw [hstaged]; simp [Work.ok, hok])).trans (by rw [hstaged]; exact hwrites)
  have hmoved : moved = ds.length := congrArg List.length (List.filter_eq_self.mpr fun k hk => by
    obtain ⟨_, _, _, rfl⟩ := hslots k hk; rfl)
  have hfills : fills = (plan.filter FoldStep.isFill).length :=
    congrArg List.length (FoldStep.filter_of_local hlocal (fun _ _ => rfl) fun _ => rfl)
  have hdone : c.Done lines := ⟨rfl, rfl, FoldStep.flatMap_of_local hlocal (fun _ _ => rfl) fun _ => rfl,
    FoldStep.filterMap_of_local hlocal (fun _ _ => rfl) fun _ => rfl, (congrArg Work.oob hwritten).trans hoob, rfl⟩
  have hbench := State.bench_putWork hb p u
  have hcloses := State.opened_fold_closes (s := s.putWork b p u) (c := c) p ((s.putWork_len b p u).symm ▸ hb)
    (by rw [hbench, hxin, hin]) (by rw [hbench, hxstore, hstore]) (by rw [hbench, hxfolds]; exact hnew) hdone (moved - fills) moved
  rw [hwritten, hfault, ← hfills, ← hmoved, ← hcloses]
  simp only [s2, s1, hwritten, List.length_nil, Nat.zero_add]
  rfl

/-- The descriptors of a FOLD read without a fault: its two sides, their bytes, and the work so far (R371). -/
def FoldRead (s : State) (b : BenchId) (p : PartId) (o : FoldOp) (src dst : FoldSide) (raws : List Byte × List Byte) (w : Work) :
    Prop :=
  src.i = o.src ∧ dst.i = o.dst ∧ w.fault = none ∧ ∃ w1 w2 w3, (s.work b p).desc o.src = (src.d, src.o, w1) ∧
    w1.desc o.dst = (dst.d, dst.o, w2) ∧ w2.rawDesc o.src = (raws.1, w3) ∧ w3.rawDesc o.dst = (raws.2, w)

/-- The SRC slots that a FOLD stages: those of a permutation alone. -/
def foldStaged (src dst : FoldSide) (plan : List FoldStep) : List Nat :=
  if src.o.isSome && dst.o.isSome then stagedSlots src dst (blockElems (foldOwn src dst)) plan else []

def foldLines (src dst : FoldSide) (plan : List FoldStep) : Nat :=
  (foldStaged src dst plan).length * stageLinesOf src.f (blockElems (foldOwn src dst))

section Start

variable {s : State} {b : BenchId} {p : PartId} {o : FoldOp} {src dst : FoldSide} {raws : List Byte × List Byte} {w : Work}
  (h : FoldRead s b p o src dst raws w)

include h

theorem FoldRead.underWay : w.x.underWay = (s.bench b).underWay := by
  obtain ⟨-, -, -, w1, w2, w3, hsrc, hdst, hsraw, hdraw⟩ := h
  calc w.x.underWay = w3.x.underWay := by rw [← w3.rawDesc_underWay o.dst, hdraw]
    _ = w2.x.underWay := by rw [← w2.rawDesc_underWay o.src, hsraw]
    _ = w1.x.underWay := by rw [← w1.desc_underWay o.dst, hdst]
    _ = (s.bench b).underWay := by rw [show (s.bench b).underWay = _ from ((s.work b p).desc_underWay o.src).symm, hsrc]

theorem State.startFold_of_mismatch {code : Nat} (hbad : foldMismatch src dst = some code) (d : DecOrder) :
    s.startFold b p o d = (s.putWork b p w).foldFail b d { code := code } 1 0 := by
  obtain ⟨si, sd, so⟩ := src
  obtain ⟨di, dd, do_⟩ := dst
  obtain ⟨rfl, rfl, hok, w1, w2, w3, hsrc, hdst, hsraw, hdraw⟩ := h
  simp only [State.startFold, hsrc, hdst, hsraw, hdraw, hok, hbad]

/-- A FOLD whose descriptors agree, whose plan is formed and whose staging finds room runs. -/
theorem State.startFold_of_fit {plan : List FoldStep} {v : Work} (hgood : foldMismatch src dst = none)
    (hplan : Work.foldPlan src dst (peerWord s.coord (s.bench b).logical) (blockCount (foldOwn src dst)) 0 w = (plan, v))
    (hok : v.fault = none) (hmax : 64 * foldLines src dst plan ≤ 4194304)
    (hroom : foldLines src dst plan = 0 ∨ (s.cache b.tile).stageLines.length + foldLines src dst plan ≤ 524288) (d : DecOrder) :
    s.startFold b p o d =
      s.foldRun b p o src dst raws plan (foldStaged src dst plan) (foldLines src dst plan) (s.work b p) v d := by
  obtain ⟨si, sd, so⟩ := src
  obtain ⟨di, dd, do_⟩ := dst
  obtain ⟨rfl, rfl, hread, w1, w2, w3, hsrc, hdst, hsraw, hdraw⟩ := h
  simp only [foldOwn] at hplan
  simp only [State.startFold, hsrc, hdst, hsraw, hdraw, hread, hgood, hplan, hok]
  refine (if_neg (Nat.not_lt.mpr hmax)).trans (if_neg ?_)
  rcases hroom with hzero | hroom
  · exact ne_true_of_eq_false (Bool.and_eq_false_iff.mpr (.inl (decide_eq_false fun hne => hne hzero)))
  · exact ne_true_of_eq_false (Bool.and_eq_false_iff.mpr (.inr (decide_eq_false (Nat.not_lt.mpr hroom))))

end Start

end Sys2Proof.Machine

namespace Sys2Proof.Proofs

open Sys2Proof Sys2Proof.Machine

/-- Settles O27: the work of the order leaves what its bench has under way, so the context that the FOLD opens is the one that it
closes, and with a plan of moves and fills alone nothing is left to await. That staging takes whole 64-byte lines for each block,
in permutations alone, is log 82's choice; the edge blocks are log 81's. -/
theorem foldMovesItsLocalBlocks : Obligations.FoldMovesItsLocalBlocks := by
  intro b o s p sd dd so do_ rs rd w1 w2 w3 w halone hstore hnew s1 src dst own elems dec hsrc hdst hsraw hdraw hok
  have ⟨_, hpart, hin, _⟩ := halone
  have hb : b.idx < s.benches.length := State.idx_lt_of_partOf hpart
  have hstart : exec (.fold b o) s = .next (s1.startFold b p o dec) :=
    congrArg Host.Outcome.next (State.runCross_of_alone halone fun s p d => s.startFold b p o d)
  have hread : FoldRead s1 b p o src dst (rs, rd) w := ⟨rfl, rfl, hok, w1, w2, w3, hsrc, hdst, hsraw, hdraw⟩
  refine ⟨fun code hbad => ?refused, ?runs⟩
  case refused => rw [hstart, State.startFold_of_mismatch hread hbad]
  case runs =>
    intro plan v v1 ds hgood hplan hv hlocal hds hv1 lines fills u hmax hroom hu hoob
    have hbench : s1.bench b = { s.bench b with nextSeq := (s.bench b).nextSeq + 1 } := s.modBench_self b _ hb
    have hway : v.x.underWay = (s.bench b).underWay := by
      rw [show v = _ from (congrArg Prod.snd hplan).symm, Work.foldPlan_underWay, hread.underWay, hbench]
      rfl
    obtain ⟨hvin, hvfolds, hvstore⟩ := Bench.underWay_inj.mp hway
    have hplan1 : Work.foldPlan src dst (peerWord s1.coord (s1.bench b).logical) (blockCount (foldOwn src dst)) 0 w =
        (plan, v) := by
      rw [hbench]; exact hplan
    rw [hstart, State.startFold_of_fit hread hgood hplan1 hv hmax hroom,
      State.foldRun_of_local (src := src) (dst := dst) (lines := foldLines src dst plan) (by simpa [s1] using hb) hlocal hds hv1 rfl
        hu hoob (hvin.trans hin) (hvstore.trans hstore) (by rw [hvfolds]; exact hnew)]
    rfl

end Sys2Proof.Proofs

/-! What stays aside while a partition stops and a verdict acts (07 R236; 14 R397) -/

namespace Sys2Proof.Machine

open Sys2Proof

theorem map_modify_of_keeps {α β : Type} {f : α → α} {g : α → β} (h : ∀ x, g (f x) = g x) (xs : List α) (i : Nat) :
    (xs.modify i f).map g = xs.map g := by
  apply List.ext_getElem?
  intro j
  by_cases e : i = j
  · subst e; cases hx : xs[i]? <;> simp [hx, h]
  · simp [e]

/-- The integrity block, module time, and when each bench last took an operand fault. -/
def State.aside (s : State) : Integ × ModTime × List (Option Nat) := (s.integ, s.time, s.benches.map Bench.lastOperandFault)

theorem State.aside_length {s t : State} (h : t.aside.2 = s.aside.2) : t.benches.length = s.benches.length := by
  simpa [State.aside] using congrArg (fun v => v.2.length) h

theorem State.aside_now {s t : State} (h : t.aside.2 = s.aside.2) : t.now = s.now := congrArg (fun v => v.1.now.toNat) h

theorem State.aside_lastOperandFault {s t : State} (h : t.aside.2 = s.aside.2) (b : BenchId) :
    (t.bench b).lastOperandFault = (s.bench b).lastOperandFault := by
  have key (u : State) : (u.bench b).lastOperandFault = u.aside.2.2.getD b.idx none := by
    simp only [State.aside, State.bench, List.getD_eq_getElem?_getD, List.getElem?_map]
    cases u.benches[b.idx]? <;> rfl
  rw [key, key, h]

section Keeps

variable {f : Bench → Bench} (h : ∀ x, (f x).lastOperandFault = x.lastOperandFault) (s : State)
include h

theorem State.modify_aside (i : Nat) : State.aside { s with benches := s.benches.modify i f } = s.aside := by
  simp only [State.aside, map_modify_of_keeps (g := Bench.lastOperandFault) h]

theorem State.modBench_aside (b : BenchId) : (s.modBench b f).aside = s.aside := State.modify_aside h s b.idx

theorem State.modBenches_aside (bs : List BenchId) : (s.modBenches bs f).aside = s.aside :=
  foldl_keeps (fun s b => s.modBench_aside h b) bs s

end Keeps

/-! A partition stops (07 R236) -/

theorem State.sendPeers_aside (s : State) (dests : List (BitVec 128)) (typ part n : Nat) (body : List Byte) :
    (s.sendPeers dests typ part n body).aside = s.aside := by
  refine foldl_keeps (fun s d => ?_) dests s
  obtain ⟨ps, out, h, -⟩ := s.sendMsg_sends d body
  simp only [h]
  rfl

theorem State.sendPeers_parts (s : State) (dests : List (BitVec 128)) (typ part n : Nat) (body : List Byte) :
    (s.sendPeers dests typ part n body).parts = s.parts := by
  refine foldl_keeps (fun s d => ?_) dests s
  obtain ⟨ps, out, h, -⟩ := s.sendMsg_sends d body
  simp only [h]

theorem State.cancelFolds_aside (s : State) (b : BenchId) : (s.cancelFolds b).aside = s.aside := by
  simp only [State.cancelFolds]
  split <;> rfl

theorem State.cancelFolds_parts (s : State) (b : BenchId) : (s.cancelFolds b).parts = s.parts := by
  simp only [State.cancelFolds]
  split <;> rfl

theorem State.cancelBenches_aside (s : State) (bs : List BenchId) : (s.cancelBenches bs).aside = s.aside := by
  rw [State.cancelBenches, State.modBenches_aside, foldl_keeps State.cancelFolds_aside]
  exact fun _ => rfl

theorem State.cancelBenches_parts (s : State) (bs : List BenchId) : (s.cancelBenches bs).parts = s.parts := by
  rw [State.cancelBenches, State.modBenches_parts, foldl_keeps State.cancelFolds_parts]

theorem State.raise_aside (s : State) (cls index event : Nat) (part : Option PartId) (detail : List (Nat × Detail))
    (operands : Option (List Byte)) : (s.raise cls index event part detail operands).aside = s.aside := by
  simp only [State.aside, State.raise_integ, State.raise_time, State.raise_benches]

section Stop

variable (s : State) (p : PartId) (code : Nat) (cause : Option Nat) (notice : Option (Nat × Nat))

theorem State.stopPart_aside : (s.stopPart p code cause notice).aside = s.aside := by
  simp only [State.stopPart, State.faultNotice]
  split
  · rfl
  · split
    · rw [State.sendPeers_aside, State.raise_aside, State.cancelBenches_aside]; rfl
    · rw [State.raise_aside, State.cancelBenches_aside]; rfl

/-- A loaded partition reads stopped then. -/
theorem State.stopPart_stopped {s : State} {p : PartId} (hl : (s.part p).loaded = true) :
    ((s.stopPart p code cause notice).part p).stopped = true := by
  simp only [State.stopPart, State.faultNotice]
  split
  · next h => simpa [hl] using h
  · split <;> simp only [State.part, State.sendPeers_parts, State.raise_parts, State.cancelBenches_parts]
    · exact congrArg Partition.stopped (State.modPart_self s p _ (State.lt_of_loaded hl))
    · exact congrArg Partition.stopped (State.modPart_self s p _ (State.lt_of_loaded hl))

end Stop

/-! Signals that a verdict lets go (R201, R397) -/

theorem State.interrupt_aside (s : State) (hart level : Nat) : (s.interrupt hart level).aside = s.aside := by
  simp only [State.interrupt]
  split <;> rfl

theorem State.ringWrite_aside (s : State) (p : PartId) (rec : List Byte) : (s.ringWrite p rec).aside = s.aside := by
  simp only [State.ringWrite]
  split
  · rfl
  · rw [apply_ite State.aside, State.interrupt_aside, ite_self]
    split <;> rfl

theorem State.benchEvent_aside (s : State) (b : BenchId) (kind code : Nat) (flags : Flags) (opcode va : Nat) :
    (s.benchEvent b kind code flags opcode va).aside = s.aside := by
  simp only [State.benchEvent]
  split
  · rfl
  · exact State.ringWrite_aside ..

theorem State.benchFault_aside (s : State) (b : BenchId) (code opcode : Nat) (stream : Bool) (va : Nat) :
    (s.benchFault b code opcode stream va).aside = s.aside := by
  simp only [State.benchFault]
  split
  · rfl
  · rw [State.stopPart_aside, State.benchEvent_aside, State.modBench_aside]
    intro x
    split <;> rfl

theorem State.addToken_aside (s : State) (b : BenchId) (ctr v : Nat) : (s.addToken b ctr v).aside = s.aside := by
  simp only [State.addToken]
  split
  · rfl
  · split
    · rw [State.benchFault_aside, State.modBench_aside]; exact fun _ => rfl
    · refine State.modBench_aside ?_ s b
      exact fun _ => rfl

theorem State.signalTo_aside (s : State) (b : BenchId) (logical ctr v : Nat) : (s.signalTo b logical ctr v).aside = s.aside := by
  simp only [State.signalTo]
  split
  · rfl
  · split
    · rfl
    · split
      · exact State.addToken_aside ..
      · refine State.modBench_aside ?_ s _
        exact fun _ => rfl

/-! Timers run on (R398) -/

theorem State.modBenches_keeps {β : Type} {g : Bench → β} {f : Bench → Bench} (h : ∀ x, g (f x) = g x) (s : State)
    (bs : List BenchId) (b : BenchId) : g ((s.modBenches bs f).bench b) = g (s.bench b) :=
  foldl_keeps (g := fun s : State => g (s.bench b)) (fun s c => State.modBench_keeps h s c b) bs s

/-- What a verdict marks on a bench that it sets free. -/
def Bench.cleared (x : Bench) : HoldKind × Bool × Option InFlight := (x.hold, x.unchecked, x.heldOrder)

theorem State.thaw_aside (s : State) (p : PartId) : (s.thaw p).aside = s.aside := by
  simp only [State.thaw]
  split
  · rfl
  · split
    · rfl
    · refine State.modBenches_aside (s := s.modPart p _) ?_ (s.benchesOf p)
      exact fun _ => rfl

theorem State.thaw_cleared (s : State) (p : PartId) (b : BenchId) : ((s.thaw p).bench b).cleared = (s.bench b).cleared := by
  simp only [State.thaw]
  split
  · rfl
  · split
    · rfl
    · refine State.modBenches_keeps (g := Bench.cleared) ?_ (s.modPart p _) (s.benchesOf p) b
      exact fun _ => rfl

end Sys2Proof.Machine

/-! Verdicts on held benches (14 R397, R399, R417) -/

namespace Sys2Proof.Machine

open Sys2Proof

/-- A run ends, a hold is judged: marks on benches, and which runs there are. -/
theorem State.endRun_aside (s : State) (r : ArbRun) : (s.endRun r).aside.2 = s.aside.2 := by
  simp [State.endRun, State.aside, map_modify_of_keeps]

theorem State.judge_aside (s : State) (i : Nat) : (s.judge i).aside = s.aside := by
  refine State.modify_aside ?_ s i
  exact fun _ => rfl

theorem State.endOthers_aside (s : State) (p : PartId) (held : Nat) : (s.endOthers p held).aside.2 = s.aside.2 := by
  refine foldl_keeps (g := fun s : State => s.aside.2) (fun s r => ?_) _ s
  rw [State.verdictTicket, State.raise_aside, State.judge_aside, State.endRun_aside]

theorem State.endOthers_parts (s : State) (p : PartId) (held : Nat) : (s.endOthers p held).parts = s.parts :=
  foldl_keeps (fun s r => ((s.endRun r).judge r.held).raise_parts ..) _ s

/-- The state in which a verdict acts: it stands in IN_ARB, is counted at its bench and has its ticket. -/
def State.reported (s : State) (b : BenchId) (arb : Option Nat) (kind : HoldKind) (p : PartId) (v : Nat) (index : Option Nat)
    (records : Option (Nat → List Byte)) : State :=
  let a := arb.getD ((Config.freeWord s.freeCtr).toNat % 136)
  let index := index.getD (Config.noDifference s.freeCtr).toNat
  let told : State := { s.tick with integ := { s.integ with
    lastArb := some (b.tile.val, b.phys.val, a / 34, a % 34, kind.code, v) } }
  (told.modBench b fun x => { x with arbitrating := false, verdicts := x.verdicts.modify (v - 1) fun n => satAdd 16 n 1 }).verdictTicket
    b.idx arb kind v index p (records.map (· index))

/-- A verdict stops the partition, and the runs of its other held benches end. -/
def State.stopFor (s : State) (b : BenchId) (p : PartId) : State :=
  if !(s.part p).stopped then (s.stopPart p 0 (some 0x0023) (some (0x0023, (s.part p).cls))).endOthers p b.idx else s

/-- The tokens that a bench withheld go out. -/
def State.sendWithheld (s : State) (b : BenchId) (p : PartId) : State :=
  if (s.part p).live then (s.bench b).withheld.foldl (fun s w => s.signalTo b w.bench w.ctr w.value) s else s

/-- A bench that takes an operand fault: its second within 24 hours retires it. -/
def Bench.operandFault (now : Nat) (x : Bench) : Bench :=
  { x with
    lastOperandFault := some now
    asg := match x.lastOperandFault with
      | some t => if now ≤ t + sec 86400 then .retired else x.asg
      | none => x.asg }

section Reported

variable (s : State) (b : BenchId) (arb : Option Nat) (kind : HoldKind) (p : PartId) (v : Nat) (index : Option Nat)
  (records : Option (Nat → List Byte))

theorem State.reported_parts : (s.reported b arb kind p v index records).parts = s.parts := State.raise_parts ..

theorem State.reported_part (q : PartId) : (s.reported b arb kind p v index records).part q = s.part q := State.raise_part ..

theorem State.reported_runs : (s.reported b arb kind p v index records).integ.runs = s.integ.runs := by
  simp only [State.reported, State.verdictTicket, State.raise_integ]
  rfl

theorem State.reported_aside : (s.reported b arb kind p v index records).aside.2 = s.aside.2 := by
  simp only [State.reported, State.verdictTicket, State.raise_aside]
  rw [State.modBench_aside]
  · rfl
  · exact fun _ => rfl

end Reported

theorem State.stopFor_aside (s : State) (b : BenchId) (p : PartId) : (s.stopFor b p).aside.2 = s.aside.2 := by
  simp only [State.stopFor]
  split
  · rw [State.endOthers_aside, State.stopPart_aside]
  · rfl

theorem State.stopFor_stopped {s : State} {p : PartId} (hl : (s.part p).loaded = true) (b : BenchId) :
    ((s.stopFor b p).part p).stopped = true := by
  simp only [State.stopFor]
  split
  · simp only [State.part, State.endOthers_parts]
    exact State.stopPart_stopped _ _ _ hl
  · next h => simpa using h

theorem State.sendWithheld_aside (s : State) (b : BenchId) (p : PartId) : (s.sendWithheld b p).aside = s.aside := by
  simp only [State.sendWithheld]
  split
  · exact foldl_keeps (fun s w => State.signalTo_aside s b _ _ _) _ s
  · rfl

theorem Bench.stainOutputs_lastOperandFault (x : Bench) : x.stainOutputs.lastOperandFault = x.lastOperandFault := by
  unfold Bench.stainOutputs
  split
  · rfl
  · dsimp only
    refine foldl_keeps (g := Bench.lastOperandFault) (fun y r => ?_) _ x
    refine foldl_keeps (g := Bench.lastOperandFault) (fun z g => ?_) _ y
    rfl

section Verdicts

variable {s : State} {b : BenchId} {p : PartId} {epoch : BitVec 16} (hl : (s.part p).loaded = true) (he : (s.part p).epoch = epoch)
  (hp : (s.bench b).partOf = some p) (arb : Option Nat) (kind : HoldKind) (index : Option Nat) (records : Option (Nat → List Byte))
include hl he hp

theorem State.verdict_checkerFault : s.verdict b arb kind p epoch 1 index records =
    (((s.reported b arb kind p 1 index records).sendWithheld b p).modBench b Bench.checkerFault).thaw p := by
  simp only [State.verdict, State.tick_part, hl, he, hp, beq_self_eq_true, decide_true, Bool.and_true, Bool.true_and, if_true]
  rfl

theorem State.verdict_operandFault : s.verdict b arb kind p epoch 3 index records =
    let t := ((s.reported b arb kind p 3 index records).modBench b Bench.stainOutputs).stopFor b p
    (t.judge b.idx).modBench b (Bench.operandFault t.now) := by
  simp only [State.verdict, State.tick_part, hl, he, hp, beq_self_eq_true, decide_true, Bool.and_true, Bool.true_and, if_true]
  rfl

theorem State.verdict_retires {v : Nat} (h1 : v ≠ 1) (h3 : v ≠ 3) : s.verdict b arb kind p epoch v index records =
    (((s.reported b arb kind p v index records).stopFor b p).judge b.idx).modBench b fun x => { x with asg := .retired } := by
  simp only [State.verdict, State.tick_part, hl, he, hp, beq_self_eq_true, decide_true, Bool.and_true, Bool.true_and]
  rfl

/-- A computation fault or no arbitration: the bench is retired and its partition stops. -/
theorem State.verdict_stops {v : Nat} (h1 : v ≠ 1) (h3 : v ≠ 3) :
    ((s.verdict b arb kind p epoch v index records).bench b).asg = .retired ∧
      ((s.verdict b arb kind p epoch v index records).part p).stopped = true := by
  rw [State.verdict_retires hl he hp arb kind index records h1 h3]
  generalize hr : s.reported b arb kind p v index records = r
  have hlen : ((r.stopFor b p).judge b.idx).benches.length = s.benches.length := State.aside_length (by
    rw [State.judge_aside, State.stopFor_aside, ← hr, State.reported_aside])
  refine ⟨?_, State.stopFor_stopped (s := r) (by rw [← hr, State.reported_part, hl]) b⟩
  rw [State.modBench_self _ _ _ (hlen ▸ State.idx_lt_of_partOf hp)]

/-- A checker fault: the bench goes on unchecked, and the verdict itself ends no run. -/
theorem State.verdict_clears :
    ((s.verdict b arb kind p epoch 1 index records).bench b).cleared = (.none, true, none) ∧
      (s.verdict b arb kind p epoch 1 index records).integ.runs = s.integ.runs := by
  rw [State.verdict_checkerFault hl he hp]
  generalize hr : s.reported b arb kind p 1 index records = r
  have hs := r.sendWithheld_aside b p
  have hlen : (r.sendWithheld b p).benches.length = s.benches.length := State.aside_length (by
    rw [hs, ← hr, State.reported_aside])
  constructor
  · rw [State.thaw_cleared, State.modBench_self _ _ _ (hlen ▸ State.idx_lt_of_partOf hp)]
    rfl
  · have hruns := congrArg (fun v => v.1.runs) ((State.thaw_aside ((r.sendWithheld b p).modBench b Bench.checkerFault) p).trans
      ((State.modBench_aside (f := Bench.checkerFault) (fun _ => rfl) (r.sendWithheld b p) b).trans hs))
    exact hruns.trans (hr ▸ State.reported_runs ..)

/-- An operand fault: the partition stops, and the bench is marked and kept as `Bench.operandFault` says. -/
theorem State.verdict_marks : ((s.verdict b arb kind p epoch 3 index records).part p).stopped = true ∧
    ∃ y : Bench, y.lastOperandFault = (s.bench b).lastOperandFault ∧
      (s.verdict b arb kind p epoch 3 index records).bench b = y.operandFault s.now := by
  rw [State.verdict_operandFault hl he hp]
  generalize hr : (s.reported b arb kind p 3 index records).modBench b Bench.stainOutputs = r
  have ha : (r.stopFor b p).aside.2 = s.aside.2 := by
    rw [State.stopFor_aside, ← hr, State.modBench_aside Bench.stainOutputs_lastOperandFault, State.reported_aside]
  have hj : ((r.stopFor b p).judge b.idx).aside.2 = s.aside.2 := by rw [State.judge_aside, ha]
  refine ⟨State.stopFor_stopped (s := r) (by rw [← hr, State.modBench_part, State.reported_part, hl]) b,
    _, State.aside_lastOperandFault hj b, ?_⟩
  rw [State.modBench_self _ _ _ (State.aside_length hj ▸ State.idx_lt_of_partOf hp), State.aside_now ha]

end Verdicts

end Sys2Proof.Machine

/-! Self-tests and the commands of an arbiter run (14 R395 to R397, R411, R412) -/

namespace Sys2Proof.Machine

open Sys2Proof

/-! Self-tests (R411, R412) -/

/-- A pending self-test starts on a bench that may be tested. -/
theorem Bench.takePending_of_mayTest {x : Bench} {extra : Bool} (hq : x.testPending = some extra) (hm : x.mayTest = true) :
    x.takePending = x.startTest extra := by
  simp only [Bench.takePending, hq, hm, if_true]

section SelfTests

variable {s : State} {b : BenchId}

theorem State.requestTest_starts {extra : Bool} (hn : (s.bench b).testing = false) (hq : (s.bench b).testPending = none)
    (hm : (s.bench b).mayTest = true) :
    s.requestTest b extra = s.modBench b fun x => { x with testing := true, testPending := none, testExtra := extra } := by
  refine State.modBench_congr ?_
  exact (if_neg (by simp [hn, hq])).trans (Bench.takePending_of_mayTest rfl hm)

theorem State.requestTest_refused {extra : Bool} (hr : (s.bench b).testing = true) :
    s.requestTest b extra = s.modBench b fun x => { x with testResult := 3 } := by
  refine State.modBench_congr ?_
  simp only [hr, Bool.true_or, if_true]

/-- What a test leaves on its bench, whichever way it ends. -/
theorem Bench.tested_rinsed (x : Bench) (r : TestOutcome) : (x.tested r).testing = false ∧ (x.tested r).shelf = [] := by
  cases r with
  | fail unit => exact ⟨rfl, rfl⟩
  | pass cells rows cols leaves shelf =>
    simp only [Bench.tested]
    split <;> exact ⟨rfl, rfl⟩

variable (ht : s.clerkTime = true)
include ht

theorem exec_biTestGo (hon : s.tileIsOn b.tile.val = true) (extra : Bool) :
    exec (.biTestGo b extra) s = .next (s.requestTest b extra) := by
  change execBiTestGo b extra s = _
  simp only [execBiTestGo, State.byClerk, State.inTile, ht, hon, if_true]

/-- A self-test that ends leaves its outcome on its bench and no other bench changed. -/
theorem exec_selfTestDone (hr : (s.bench b).testing = true) (r : TestOutcome) :
    ∃ t, exec (.selfTestDone b r) s = .next t ∧ t.bench b = (s.bench b).tested r ∧ ∀ c : BenchId, c ≠ b → t.bench c = s.bench c := by
  have hl := State.idx_lt_of_bench_ne (s := s) (b := b) fun e => by simp [e] at hr
  refine ⟨if TestOutcome.passes r then s.modBench b (·.tested r) else (s.modBench b (·.tested r)).raise 0x2 (BenchId.unit b) 0x0024,
    ?runs, ?own, fun c hc => ?other⟩
  case runs =>
    change execSelfTestDone b r s = _
    simp [execSelfTestDone, ht, hr]
  case own => split <;> simp [State.modBench_self _ _ _ hl]
  case other => split <;> simp [State.modBench_other _ _ _ _ hc.symm]

end SelfTests

/-! The operands of an arbiter run (R396) -/

/-- Bytes left out of a memory leave the others. -/
theorem memGet_filter (d : Byte) (m : Mem) {here : Nat → Bool} {a : Nat} (h : here a = true) :
    memGet d (m.filter fun c => here c.1) a = memGet d m a := by
  induction m with
  | nil => rfl
  | cons c m ih =>
    by_cases hc : here c.1 = true
    · simp only [List.filter_cons, hc, if_true, memGet, ih]
    · have hne : c.1 ≠ a := fun e => hc (e ▸ h)
      rw [List.filter_cons_of_neg (p := fun c : Nat × Byte => here c.1) hc, ih, memGet, if_neg hne]

/-- Whether a shelf address lies in the rows that the arbiter copies. -/
def Bench.inOperandRows (x : Bench) (i : InFlight) (a : Nat) : Bool :=
  (x.operandRows i).any fun r => 512 * r.1 ≤ a && a < 512 * (r.1 + r.2)

theorem Bench.inOperandRows_of_mem {x : Bench} {i : InFlight} {row n a : Nat} (h : (row, n) ∈ x.operandRows i)
    (hlo : 512 * row ≤ a) (hhi : a < 512 * (row + n)) : x.inOperandRows i a = true :=
  List.any_eq_true.mpr ⟨(row, n), h, by simp [hlo, hhi]⟩

section Runs

variable {s : State} {b : BenchId}

/-! Commands that find nothing to do, and the run that they find -/

theorem exec_arbiterStart_of_judged (hu : (s.bench b).unjudged = false) : exec (.arbiterStart b) s = .next s := by
  change execArbiterStart b s = _
  simp only [execArbiterStart, hu]
  split <;> simp

theorem exec_arbiterCopyDone_of_none (hr : s.runFor b = none) : exec (.arbiterCopyDone b) s = .next s := by
  change execArbiterCopyDone b s = _
  simp only [execArbiterCopyDone, hr]

theorem State.runFor_held {run : ArbRun} (hr : s.runFor b = some run) : run.held = b.idx := by
  simpa using List.find?_some hr

theorem State.endRun_partOf (s : State) (r : ArbRun) (b : BenchId) : ((s.endRun r).bench b).partOf = (s.bench b).partOf := by
  have asg : ((s.endRun r).bench b).asg = (s.bench b).asg := by
    simp only [State.endRun, State.bench, List.getD_eq_getElem?_getD, List.getElem?_modify]
    cases s.benches[b.idx]? with
    | none => rfl
    | some x => simp only [Option.getD_some]; split <;> split <;> rfl
  simp only [Bench.partOf, asg]

variable (ht : s.clerkTime = true)
include ht

/-! An arbiter run starts (R395) -/

theorem exec_arbiterStart_of_found {p : PartId} {a : BenchId} (hp : (s.bench b).partOf = some p) (hu : (s.bench b).unjudged = true)
    (hr : s.runFor b = none) (hen : s.integ.arbEn = true) (ha : s.arbiterFor b p = some a) :
    exec (.arbiterStart b) s = .next
      { (s.modBench a fun x => { x with arbiter := true }).modBench b fun x => { x with arbitrating := true } with
        integ := { s.integ with runs := s.integ.runs ++ [{
          held := b.idx, arb := a.idx, kind := (s.bench b).hold, part := p, epoch := (s.part p).epoch, at_ := s.now
          order := (s.bench b).heldOrder.getD {}, line := (s.bench b).heldLine, quad := (s.bench b).quad, seed := (s.bench b).seed }] } } := by
  change execArbiterStart b s = _
  have taken : (if s.integ.arbEn then s.arbiterFor b p else none) = some a := by simp [hen, ha]
  simp only [execArbiterStart, hp, hu, ht, hr, taken]
  rfl

theorem exec_arbiterStart_of_none {p : PartId} (hp : (s.bench b).partOf = some p) (hu : (s.bench b).unjudged = true)
    (hr : s.runFor b = none) (hn : s.integ.arbEn = false ∨ s.arbiterFor b p = none) :
    exec (.arbiterStart b) s = .next (s.verdict b none (s.bench b).hold p (s.part p).epoch 4 none none) := by
  change execArbiterStart b s = _
  have none_taken : (if s.integ.arbEn then s.arbiterFor b p else none) = none := by
    rcases hn with hn | hn <;> simp [hn]
  simp only [execArbiterStart, hp, hu, ht, hr, none_taken]
  rfl

/-! The operands are copied (R396) -/

theorem exec_arbiterCopyDone {run : ArbRun} (hr : s.runFor b = some run) (hn : run.copied = false)
    (harb : run.arb < s.benches.length) :
    ∃ t, exec (.arbiterCopyDone b) s = .next t ∧
      t.integ = { s.integ with runs := s.integ.runs.map fun r => if r.held = b.idx then { r with copied := true } else r } ∧
      (t.benches.getD run.arb default).shelf = (s.bench b).shelf.filter fun c => (s.bench b).inOperandRows run.order c.1 := by
  refine ⟨?next, ?runs, ?integ, ?shelf⟩
  case runs =>
    change execArbiterCopyDone b s = _
    simp only [execArbiterCopyDone, hr, ht, hn]
    rfl
  case integ => rfl
  case shelf => exact congrArg Bench.shelf (getD_modify_self _ _ _ _ harb)

/-! A verdict, or none in time (R397) -/

theorem exec_arbiterVerdict {run : ArbRun} (hr : s.runFor b = some run) (hc : run.copied = true) (u : Upset) :
    ∃ (index : Option Nat) (records : Option (Nat → List Byte)), exec (.arbiterVerdict b u) s = .next
      ((s.endRun run).verdict b (some run.arb) run.kind run.part run.epoch (s.recompute run u).1 index records) := by
  refine ⟨(s.recompute run u).2.1,
    some ((s.arbiterWork run u).x.capture run.kind run.order.dec.body run.line (s.recompute run u).2.2), ?_⟩
  change execArbiterVerdict b u s = _
  simp only [execArbiterVerdict, hr, ht, hc]
  rfl

theorem exec_arbiterTimeout_of_run {run : ArbRun} (hr : s.runFor b = some run) (hh : (s.bench b).hold ≠ .none)
    (hd : (s.bench b).holdSince + 2000000 ≤ s.now) : exec (.arbiterTimeout b) s = .next
      ((s.endRun run).verdict b (some run.arb) run.kind run.part run.epoch 4 none none) := by
  change execArbiterTimeout b s = _
  simp [execArbiterTimeout, hr, ht, hh, State.passed, ms, hd]

theorem exec_arbiterTimeout_of_none {p : PartId} (hp : (s.bench b).partOf = some p) (hu : (s.bench b).unjudged = true)
    (hr : s.runFor b = none) (hd : (s.bench b).holdSince + 2000000 ≤ s.now) :
    exec (.arbiterTimeout b) s = .next (s.verdict b none (s.bench b).hold p (s.part p).epoch 4 none none) := by
  change execArbiterTimeout b s = _
  simp [execArbiterTimeout, hr, ht, hp, hu, State.passed, ms, hd]

/-! The closing rinse (R395) -/

theorem exec_arbiterRinseDone (hc : (s.bench b).closingRinse = true) (hq : (s.bench b).testPending = none) :
    exec (.arbiterRinseDone b) s = .next (s.modBench b Bench.rinse) := by
  have idle : (s.bench b).rinse.takePending = (s.bench b).rinse := by
    simp only [Bench.takePending, show (s.bench b).rinse.testPending = none from hq]
  change execArbiterRinseDone b s = _
  simp only [execArbiterRinseDone, ht, hc, Bool.not_true, Bool.or_self, Bool.false_eq_true, if_false]
  exact congrArg Host.Outcome.next (State.modBench_congr idle)

end Runs

end Sys2Proof.Machine

namespace Sys2Proof.Proofs

open Sys2Proof Sys2Proof.Machine

/-- Settles O53: the self-test by the bench that it leaves, a verdict by its equation for each code, with the release of withheld tokens
and the stop of the partition keeping what the verdict then marks. SELF_TEST_DONE with its closing rinse and a reserve that reads free
are log 47's, what a hold shows after its verdict log 118's, what the arbiter copies log 132's. -/
theorem selfTestsAndArbitersAct : Obligations.SelfTestsAndArbitersAct := by
  intro b s ht hs x stops
  obtain ⟨-, hlen, -⟩ := hs
  refine ⟨fun extra hon hn hq hm => ?starts, fun extra hon hr => ?refused, fun cells rows cols leaves shelf hr => ?passed,
    fun unit hr => ?failed, exec_arbiterStart_of_judged, fun p a hp hu hen hr ha => ?found,
    fun p hp hu hr hl => ⟨fun hn => ?unfound, fun hd => ?late⟩, exec_arbiterCopyDone_of_none, fun run hr hn harb => ?copied,
    fun run u hr hc hp hl he => ?verdict, fun run hr hh hd hp hl he => ?timeout, fun hc hq => ?rinsed⟩
  case starts => rw [exec_biTestGo ht hon, State.requestTest_starts hn hq hm]
  case refused => rw [exec_biTestGo ht hon, State.requestTest_refused hr]
  case passed =>
    intro r
    obtain ⟨t, hrun, hown, hother⟩ := exec_selfTestDone ht hr r
    obtain ⟨htest, hshelf⟩ := x.tested_rinsed r
    refine ⟨t, hrun, by rw [hown, htest], by rw [hown, hshelf], fun hpass => ?_, fun hfail => ?_, hother⟩
    · simp [hown, r, Bench.tested, hpass]
    · simp [hown, r, Bench.tested, hfail]
  case failed =>
    obtain ⟨t, hrun, hown, hother⟩ := exec_selfTestDone ht hr (.fail unit)
    exact ⟨t, hrun, by rw [hown]; rfl, by rw [hown]; rfl, by rw [hown]; rfl, by rw [hown]; rfl, hother⟩
  case found =>
    refine ⟨_, exec_arbiterStart_of_found ht hp hu hr hen ha, ?_, ?_, rfl⟩
    · refine (State.modBench_keeps (g := Bench.arbiter) ?_ (s.modBench a _) b a).trans
        (congrArg Bench.arbiter (State.modBench_self s a _ (hlen ▸ BenchId.idx_lt a)))
      exact fun _ => rfl
    · exact congrArg Bench.arbitrating
        (State.modBench_self (s.modBench a _) b _ ((s.modBench_len a _).symm ▸ State.idx_lt_of_partOf hp))
  case unfound => exact ⟨_, exec_arbiterStart_of_none ht hp hu hr hn, State.verdict_stops hl rfl hp _ _ _ _ (by decide) (by decide)⟩
  case late => exact ⟨_, exec_arbiterTimeout_of_none ht hp hu hr hd, State.verdict_stops hl rfl hp _ _ _ _ (by decide) (by decide)⟩
  case copied =>
    obtain ⟨t, hrun, hinteg, hshelf⟩ := exec_arbiterCopyDone ht hr hn (hlen ▸ harb)
    refine ⟨t, hrun, hinteg, fun row n hrow a hlo hhi => ?_⟩
    rw [hshelf]
    exact memGet_filter 0 x.shelf (Bench.inOperandRows_of_mem hrow hlo hhi)
  case verdict =>
    have hp' : ((s.endRun run).bench b).partOf = some run.part := (s.endRun_partOf run b).trans hp
    obtain ⟨index, records, hrun⟩ := exec_arbiterVerdict ht hr hc u
    refine ⟨_, hrun, fun hv => ?_, fun hv => ?_, fun hv => ?_⟩ <;> rw [hv]
    · obtain ⟨hclear, hruns⟩ := State.verdict_clears (s := s.endRun run) hl he hp' (some run.arb) run.kind index records
      simp only [Bench.cleared, Prod.mk.injEq] at hclear
      obtain ⟨hhold, hunch, horder⟩ := hclear
      refine ⟨hhold, hunch, horder, hruns.trans ?_⟩
      rw [← State.runFor_held hr]; rfl
    · exact State.verdict_stops (s := s.endRun run) hl he hp' _ _ _ _ (by decide) (by decide)
    · obtain ⟨hstop, y, hy, hb⟩ := State.verdict_marks (s := s.endRun run) hl he hp' (some run.arb) run.kind index records
      rw [State.aside_lastOperandFault (s.endRun_aside run)] at hy
      refine ⟨hstop, by rw [hb]; rfl, fun a ha hnow => ?_⟩
      rw [hb, Bench.operandFault]
      simp only [hy, show (s.bench b).lastOperandFault = some a from ha]
      exact if_pos hnow
  case timeout =>
    exact ⟨_, exec_arbiterTimeout_of_run ht hr hh hd, State.verdict_stops (s := s.endRun run) hl he
      ((s.endRun_partOf run b).trans hp) _ _ _ _ (by decide) (by decide)⟩
  case rinsed =>
    have hb := State.idx_lt_of_bench_ne (s := s) (b := b) fun e => by simp [x, e] at hc
    refine ⟨_, exec_arbiterRinseDone ht hc hq, ?_, ?_, ?_, fun c hc => State.modBench_other _ _ _ _ hc.symm⟩ <;>
      rw [State.modBench_self _ _ _ hb] <;> rfl

end Sys2Proof.Proofs

/-! An epoch-ready from a source that is no MEMBER (14 R408) -/

namespace Sys2Proof.Machine

open Sys2Proof

/-- What the hub reads depends on the memory system alone, -/
theorem State.hubRead_congr {s t : State} (h : t.mem = s.mem) (pa n : Nat) : (t.hubRead pa n).1 = (s.hubRead pa n).1 := by
  simp only [State.hubRead, h]
  split <;> rfl

/-- and so do the members of a group, with the place of their table. -/
theorem State.memberAddr_congr {s t : State} (hm : t.mem = s.mem) (hi : t.pint = s.pint) (p : PartId) (m : MsgSrc) :
    t.memberAddr p m = s.memberAddr p m := by
  simp only [State.memberAddr, State.members, State.integOf, hi, State.hubRead_congr hm]

/-- It gets its PEER_ACK, and the barrier of the partition does not hold it. -/
theorem exec_epochReady_of_not_member {s : State} {m : MsgSrc} {p : PartId} {e : Member} (ho : s.online = true)
    (hf : s.fromMember m = true) (he : s.memberAddr p m = some e) (hn : e.isMember = false) {epoch : Nat} (hlt : epoch < 65536)
    (loc : Nat) : exec (.epochReady m p.val epoch loc) s = .next (s.peerAck m 0x22 p.val epoch) := by
  obtain ⟨ps, out, hack, -⟩ : Sends s (s.peerAck m 0x22 p.val epoch) := s.sendMsg_sends ..
  have named : (s.peerAck m 0x22 p.val epoch).memberAddr p m = some e := by
    rw [State.memberAddr_congr (s := s) (by rw [hack]; rfl) (by rw [hack]), he]
  have untaken : (s.peerAck m 0x22 p.val epoch).takeReady p m epoch loc = s.peerAck m 0x22 p.val epoch := by
    simp only [State.takeReady, named, hn, Bool.false_eq_true, if_false]
  have bounds : s.mgmtBounds (.epochReady m p.val epoch loc) = true := by
    simp only [State.mgmtBounds, Bool.and_eq_true, decide_eq_true_eq]
    omega
  change execEpochReady m p.val epoch loc s = _
  simp only [execEpochReady, ho, State.member, bounds, mgmtSrc, mgmtType, hf, Bool.not_true, Bool.false_eq_true, if_false, p.isLt,
    dif_pos]
  exact congrArg Host.Outcome.next untaken

theorem State.peerAck_integOf (s : State) (m : MsgSrc) (typ part n : Nat) (p : PartId) :
    (s.peerAck m typ part n).integOf p = s.integOf p := by
  obtain ⟨ps, out, hack, -⟩ : Sends s (s.peerAck m typ part n) := s.sendMsg_sends ..
  rw [hack]; rfl

/-- A running module whose partition 0 is loaded and has one entry in its member table, at the start of H0: the module at
address 2, a REPLICA that is no MEMBER (14 R419). -/
def replicaAlone : State := { State.reset with
  power := .running
  house := { State.reset.house with link := true }
  parts := { loaded := true } :: List.replicate 7 {}
  pint := { groupTable := h0Base / 64, groupCount := 1 } :: List.replicate 7 {}
  cells := memWrite 0 [] (cellKey 12 1 0) ([2] ++ List.replicate 15 0 ++ [0, 0, 0, 2]) }

/-- The replica of `replicaAlone` as the source of a message. -/
def replica : MsgSrc := { addr := 2 }

theorem replicaAlone_fromMember : replicaAlone.fromMember replica = true := by decide +kernel

theorem replicaAlone_memberAddr :
    replicaAlone.memberAddr 0 replica = some { addr := 2, coord := 0, isMember := false, isReplica := true } := by decide +kernel

end Sys2Proof.Machine

namespace Sys2Proof.Proofs

open Sys2Proof Sys2Proof.Machine

/-- Refutes O52 in its clause on epoch-ready, which asks of the source an entry in the partition's member table and not that the
entry be a MEMBER: the barrier of R408 waits for MEMBERs alone, and the epoch-ready of a module that is a REPLICA only is
acknowledged and not held. -/
theorem not_membersAndHouseTimersAct : ¬ Obligations.MembersAndHouseTimersAct := by
  intro h
  obtain ⟨-, -, -, -, -, -, -, -, -, -, held, -⟩ :=
    h replica replicaAlone rfl rfl rfl rfl ⟨rfl, rfl, rfl, rfl, rfl, rfl, rfl, rfl⟩
  obtain ⟨t, hrun, hready⟩ := held 0 0 0 _ replicaAlone_fromMember replicaAlone_memberAddr rfl (by decide) rfl rfl
  have unheld := exec_epochReady_of_not_member (s := replicaAlone) (p := 0) (epoch := 0) rfl replicaAlone_fromMember
    replicaAlone_memberAddr rfl (by decide) 0
  obtain rfl : replicaAlone.peerAck replica 0x22 (0 : PartId).val 0 = t := Host.Outcome.next.inj (unheld.symm.trans hrun)
  rw [State.peerAck_integOf] at hready
  simpa using congrArg List.length hready

end Sys2Proof.Proofs

/-! Clerk cores and event rings (15 R423 to R425) -/

namespace Sys2Proof.Machine

open Sys2Proof

/-! A core fails (R423) -/

/-- The failed core leaves the active set, and what it held reserved with it. -/
def State.loseCore (s : State) (c : Nat) : State := { s with house := { s.house with
  active := s.house.active &&& ~~~(1#32 <<< c), failed := s.house.failed ||| (1#32 <<< c)
  reserve := s.house.reserve.filter fun r => r.1 ≠ c } }

/-- The spare `q` starts in the place of core `c` with its number, and its heartbeat watch with it. -/
def State.startSpare (s : State) (c q : Nat) (qs : List Nat) : State := { s with house := { s.house with
  active := s.house.active ||| (1#32 <<< q), spares := qs, coreStarts := s.house.coreStarts ++ [⟨q, s.house.entry, c⟩]
  replacedBy := (c, q) :: s.house.replacedBy, beats := s.house.beats.set q s.now } }

/-- The interrupt of the failure route. -/
def State.signalFailure (s : State) : State := s.interrupt s.failRoute.1 s.failRoute.2.1

theorem State.failCore_of_spare {s : State} {q : Nat} {qs : List Nat} (h : s.house.spares = q :: qs) (c : Nat) :
    s.failCore c = (((s.loseCore c).raise 0x8 c 0x0050).startSpare c q qs).signalFailure := by
  have now : ((s.loseCore c).raise 0x8 c 0x0050).now = s.now := State.raise_now ..
  simp only [State.signalFailure, State.startSpare, now]
  unfold State.failCore
  dsimp only
  split
  · rename_i hnil
    exact absurd (hnil.symm.trans h) (List.cons_ne_nil q qs).symm
  · rename_i hcons
    obtain ⟨rfl, rfl⟩ := List.cons.inj (hcons.symm.trans h)
    rfl

theorem State.failCore_of_none {s : State} (h : s.house.spares = []) (c : Nat) :
    s.failCore c = (s.loseCore c).raise 0x8 c 0x0051 := by
  unfold State.failCore
  dsimp only
  split
  · rfl
  · rename_i hcons
    exact absurd (hcons.symm.trans h) (List.cons_ne_nil _ _)

section Clerks

variable {s : State} (ht : s.clerkTime = true)
include ht

theorem State.power_of_clerkTime : s.power = .running := by
  simp only [State.clerkTime, Bool.and_eq_true, decide_eq_true_eq] at ht
  exact ht.1

theorem exec_chBeat (c : CoreId) :
    exec (.chBeat c) s = .next { s with house := { s.house with beats := s.house.beats.set c.val s.now } } := by
  change execChBeat c s = _
  simp only [execChBeat, ht, Bool.not_true, Bool.false_eq_true, if_false]

theorem exec_clerkCacheUe {c : CoreId} (hc : s.house.active.getLsbD c.val = true) :
    exec (.clerkCacheUe c) s = .next (s.failCore c.val) := by
  change execClerkCacheUe c s = _
  simp only [execClerkCacheUe, State.coreRuns_of_active ht hc, Bool.not_true, Bool.false_eq_true, if_false]

/-- The heartbeat of a running core has stayed out for TIMEOUT_MS. -/
theorem exec_clerkHeartbeatTimeout {c : CoreId} (hc : s.house.active.getLsbD c.val = true) (hw : s.house.wdog ≠ 0)
    (hl : s.house.beats.getD c.val 0 + 1000000 * s.house.wdog ≤ s.now) :
    exec (.clerkHeartbeatTimeout c) s = .next (s.failCore c.val) := by
  change execClerkHeartbeatTimeout c s = _
  have late : s.passed (s.house.beats.getD c.val 0) (ms s.house.wdog) = true := by
    simpa [State.passed, ms, Nat.mul_comm] using hl
  simp only [execClerkHeartbeatTimeout, State.coreRuns_of_active ht hc, hw, late, decide_false, Bool.not_true, Bool.or_self,
    Bool.false_eq_true, if_false]

/-- In VOID the cores halt 1 ms after the command (17 R474). -/
theorem exec_clerkCoresHalt {since : Nat} (hh : s.start.haltAt = some since) (hl : since + 1000000 ≤ s.now) :
    exec .clerkCoresHalt s = .next { s with house := { s.house with active := 0 } } := by
  change execClerkCoresHalt s = _
  simp [execClerkCoresHalt, hh, State.power_of_clerkTime ht, State.passed, ms, hl]

/-- A core whose caches fail and one whose heartbeat stays out fail alike (R423). -/
theorem exec_core_fails {c : CoreId} (hc : s.house.active.getLsbD c.val = true) {t : State} (hf : s.failCore c.val = t) :
    exec (.clerkCacheUe c) s = .next t ∧
      (s.house.wdog ≠ 0 ∧ s.house.beats.getD c.val 0 + 1000000 * s.house.wdog ≤ s.now →
        exec (.clerkHeartbeatTimeout c) s = .next t) :=
  ⟨hf ▸ exec_clerkCacheUe ht hc, fun ⟨hw, hl⟩ => hf ▸ exec_clerkHeartbeatTimeout ht hc hw hl⟩

/-! Event rings (R425) -/

theorem exec_eventRingInterrupt {p : PartId} (hu : (s.ring p).unread ≠ 0) (hn : (s.ring p).told = false)
    (hl : (s.ring p).oldest + 10000 ≤ s.now) : exec (.eventRingInterrupt p) s = .next (s.ringInterrupt p) := by
  change execEventRingInterrupt p s = _
  simp [execEventRingInterrupt, State.power_of_clerkTime ht, hu, hn, State.passed, us, hl]

theorem exec_erTailWrite (p : PartId) (v : BitVec 32) : exec (.erTailWrite p v) s = .next
    (if ((s.modRing p fun r => { r with tail := v }).ring p).unread = 0 then s.modRing p fun r => { r with tail := v }
     else (s.modRing p fun r => { r with tail := v }).ringInterrupt p) := by
  change execErTailWrite p v s = _
  simp only [execErTailWrite, ht, Bool.not_true, Bool.false_eq_true, if_false]

end Clerks

end Sys2Proof.Machine

namespace Sys2Proof.Proofs

open Sys2Proof Sys2Proof.Machine

/-- Settles O40: a failed core by whether a spare is left, a ring by whether its records are unread after the read. -/
theorem coresAndRingsAct : Obligations.CoresAndRingsAct := by
  intro s ht
  refine ⟨exec_chBeat ht, fun c hc => ⟨fun q qs hq => ?spare, fun hn => ?none_left⟩, fun _ hh hl => exec_clerkCoresHalt ht hh hl,
    fun p hu hn hl => exec_eventRingInterrupt ht hu hn hl, fun p v => ⟨fun hr => ?all_read, fun hr => ?some_unread⟩⟩
  case spare =>
    have now : ((s.loseCore c.val).raise 0x8 c.val 0x0050).now = s.now := State.raise_now ..
    have fails := State.failCore_of_spare hq c.val
    simp only [State.startSpare, now] at fails
    exact exec_core_fails ht hc fails
  case none_left => exact exec_core_fails ht hc (State.failCore_of_none hn c.val)
  case all_read => rw [exec_erTailWrite ht, if_pos hr]
  case some_unread => rw [exec_erTailWrite ht, if_neg hr]; rfl

end Sys2Proof.Proofs

/-! Retire commands (15 R430) -/

namespace Sys2Proof.Machine

open Sys2Proof

section Retire

variable (s : State)

/-! A bench -/

/-- A bench that no partition owns retires; one in use is refused. -/
theorem State.retireBench_eq (b : BenchId) : s.retireBench b.tile.val b.phys.val =
    if (s.bench b).ownerOf = none then
      (1, (s.modBench b fun x => { x with asg := .retired }).raise 0x2 (BenchId.unit b) 0x0024)
    else (2, s) := by
  have place : BenchId.mk b.tile b.phys = b := rfl
  cases hasg : (s.bench b).asg <;>
    simp only [State.retireBench, b.tile.isLt, b.phys.isLt, and_self, dif_pos, Fin.eta, place, Bench.ownerOf, hasg, reduceCtorEq,
      if_true, if_false]

theorem State.retireBench_of_bad {a c : Nat} (h : 4 ≤ a ∨ 34 ≤ c) : s.retireBench a c = (3, s) := dif_neg (by omega)

/-! A channel -/

theorem State.retireChannel_of_good (k : StackId) {c : Nat} (h : c ≤ 16) : s.retireChannel k.val c = (1, s.swapChannel k c) := by
  simp only [State.retireChannel, k.isLt, h, dif_pos, if_true]

theorem State.retireChannel_of_bad {a c : Nat} (h : 14 ≤ a ∨ 16 < c) : s.retireChannel a c = (3, s) := by
  unfold State.retireChannel
  split
  · exact if_neg (by omega)
  · rfl

/-! A port -/

@[simp] theorem State.modPort_modPort (n : PortId) (f g : Port → Port) :
    (s.modPort n f).modPort n g = s.modPort n fun x => g (f x) := by
  simp only [State.modPort, List.modify_modify_eq]; rfl

theorem State.modPort_congr {s : State} {n : PortId} {f g : Port → Port} (h : f (s.port n) = g (s.port n)) :
    s.modPort n f = s.modPort n g := by
  unfold State.port at h
  simp only [State.modPort, ← set_getD_eq_modify s.ports n.val _ {}, h]

theorem State.port_modPort_keeps {β : Type} {g : Port → β} {f : Port → Port} (h : ∀ x, g (f x) = g x) (n : PortId) :
    g ((s.modPort n f).port n) = g (s.port n) := by
  by_cases hn : n.val < s.ports.length
  · rw [State.modPort_self _ _ _ hn, h]
  · simp only [State.port, State.modPort, List.modify_eq_self (Nat.le_of_not_lt hn)]

/-- A retired port takes no part in training until the next start. -/
def Port.retire (x : Port) : Port := { x with disable := true, retired := true }

theorem State.retirePort_state (n : PortId) : ((s.modPort n Port.retire).port n).state = (s.port n).state :=
  s.port_modPort_keeps (g := Port.state) (f := Port.retire) (fun _ => rfl) n

theorem State.retirePort_of_down {n : PortId} (h : (s.port n).state.toNat ≤ 1) : s.retirePort n.val 0 =
    (1, (s.modPort n fun x => { x with disable := true, retired := true, cause := 7 }).raise 0x6 n.val 0x0040 none [(0, .num 7)]) := by
  have down : ((s.modPort n Port.retire).port n).state.toNat ≤ 1 := by rwa [s.retirePort_state]
  unfold State.retirePort
  rw [dif_pos n.isLt, if_neg (by simp)]
  refine (if_pos down).trans ?_
  rw [State.modPort_modPort]

theorem State.retirePort_of_up {n : PortId} (h : 1 < (s.port n).state.toNat) :
    s.retirePort n.val 0 = (1, (s.modPort n Port.retire).portDown n 7) := by
  have up : ¬ ((s.modPort n Port.retire).port n).state.toNat ≤ 1 := by rw [s.retirePort_state]; omega
  unfold State.retirePort
  rw [dif_pos n.isLt, if_neg (by simp)]
  exact if_neg up

theorem State.retirePort_of_bad {a c : Nat} (h : 8 ≤ a ∨ c ≠ 0) : s.retirePort a c = (3, s) := by
  unfold State.retirePort
  split
  · exact if_pos (by omega)
  · rfl

/-! A lane -/

theorem State.retireLane_of_idle {n : PortId} {c : Nat} (hc : c < 9) (hi : (s.port n).serves c = none)
    (hw : (s.port n).swapping = none) : s.retireLane n.val c = (1, (s.modPort n fun x => { x with
      failedLanes := setInsert x.failedLanes c, idleLane := if x.idleLane = some c then none else x.idleLane }).laneTicket n c) := by
  unfold State.retireLane
  rw [dif_pos n.isLt, if_neg (by omega)]
  simp only [hi]
  have idle : (s.port n).swapping.map (fun e => (e.1, e.2 || e.1 = c)) = (s.port n).swapping := by rw [hw]; rfl
  refine congrArg (fun t : State => ((1 : Retired), t.laneTicket n c)) (State.modPort_congr ?_)
  rw [idle]

theorem State.retireLane_of_serving {n : PortId} {c i : Nat} (hc : c < 9) (hi : (s.port n).serves c = some i)
    (h3 : 3 ≤ (s.port n).state.toNat) : s.retireLane n.val c = (1, s.swapLane n i true) := by
  unfold State.retireLane
  rw [dif_pos n.isLt, if_neg (by omega)]
  simp only [hi]
  exact if_pos h3

theorem State.retireLane_of_bad {a c : Nat} (h : 8 ≤ a ∨ 9 ≤ c) : s.retireLane a c = (3, s) := by
  unfold State.retireLane
  split
  · exact if_pos (by omega)
  · rfl

/-! A clerk core -/

theorem State.retireClerk_eq {c : Nat} (hc : c < 32) : s.retireClerk c 0 =
    if s.house.active.getLsbD c then (1, s.failCore c)
    else (1, State.raise { s with house := { s.house with spares := s.house.spares.filter (· ≠ c) } } 0x8 c 0x0050) :=
  if_neg (by simp [hc])

theorem State.retireClerk_of_bad {a c : Nat} (h : 32 ≤ a ∨ c ≠ 0) : s.retireClerk a c = (3, s) := if_pos (by simpa using h)

/-! The commands: each hands its designator to its unit, and CH_RETIRE_STATUS takes the result. -/

section Commands

variable {s : State} (ht : s.clerkTime = true) (a c : Nat)
include ht

theorem exec_chRetireBench : exec (.chRetireBench a c) s = .next (State.retireDone (s.retireBench a c)) := if_neg (by simp [ht])

theorem exec_chRetireChannel : exec (.chRetireChannel a c) s = .next (State.retireDone (s.retireChannel a c)) := if_neg (by simp [ht])

theorem exec_chRetirePort : exec (.chRetirePort a c) s = .next (State.retireDone (s.retirePort a c)) := if_neg (by simp [ht])

theorem exec_chRetireLane : exec (.chRetireLane a c) s = .next (State.retireDone (s.retireLane a c)) := if_neg (by simp [ht])

theorem exec_chRetireClerk : exec (.chRetireClerk a c) s = .next (State.retireDone (s.retireClerk a c)) := if_neg (by simp [ht])

end Commands

end Retire

end Sys2Proof.Machine

namespace Sys2Proof.Proofs

open Sys2Proof Sys2Proof.Machine

/-- Settles O41: each command by what its unit answers to a good and to a bad designator. A bench retired again, a port already down
and the ticket of a spare core are log 62's. -/
theorem retireCommandsAnswer : Obligations.RetireCommandsAnswer := by
  refine fun s ht => ⟨fun b hfree => ?free, fun b hown => ?owned, fun k c hc => ?channel, fun n hdown => ?portDown, fun n hup => ?portUp,
    fun n c hc hi hw => ?idle, fun n c i hc hi h3 => ?serving, fun c hc hs => ?spare, fun c hc ha => ?active,
    fun a c => ⟨fun h => ?badBench, fun h => ?badChannel, fun h => ?badPort, fun h => ?badLane, fun h => ?badClerk⟩⟩
  case free => rw [exec_chRetireBench ht, State.retireBench_eq, if_pos hfree]; rfl
  case owned => rw [exec_chRetireBench ht, State.retireBench_eq, if_neg hown]; rfl
  case channel => rw [exec_chRetireChannel ht, State.retireChannel_of_good s k hc]; rfl
  case portDown => rw [exec_chRetirePort ht, State.retirePort_of_down s hdown]; rfl
  case portUp => rw [exec_chRetirePort ht, State.retirePort_of_up s hup]; rfl
  case idle => rw [exec_chRetireLane ht, State.retireLane_of_idle s hc hi hw]; rfl
  case serving => rw [exec_chRetireLane ht, State.retireLane_of_serving s hc hi h3]; rfl
  case spare => rw [exec_chRetireClerk ht, State.retireClerk_eq s hc, if_neg (by simp [hs])]; rfl
  case active => rw [exec_chRetireClerk ht, State.retireClerk_eq s hc, if_pos ha]; rfl
  case badBench => rw [exec_chRetireBench ht, State.retireBench_of_bad s h]; rfl
  case badChannel => rw [exec_chRetireChannel ht, State.retireChannel_of_bad s h]; rfl
  case badPort => rw [exec_chRetirePort ht, State.retirePort_of_bad s h]; rfl
  case badLane => rw [exec_chRetireLane ht, State.retireLane_of_bad s h]; rfl
  case badClerk => rw [exec_chRetireClerk ht, State.retireClerk_of_bad s h]; rfl

end Sys2Proof.Proofs

/-! Datagrams that leave by the management port (15 R431, R437) -/

namespace Sys2Proof.Machine

open Sys2Proof

/-- `t` is `s` but for datagrams that left after those of `s`. -/
def Tells (s t : State) : Prop := ∃ out, t = { s with mgmtOut := s.mgmtOut ++ out }

theorem Tells.refl (s : State) : Tells s s := ⟨[], by rw [List.append_nil]⟩

theorem Tells.trans {s t u : State} (h : Tells s t) (k : Tells t u) : Tells s u := by
  obtain ⟨o, rfl⟩ := h
  obtain ⟨o', rfl⟩ := k
  exact ⟨o ++ o', by rw [List.append_assoc]⟩

theorem Tells.byRelay {s t : State} (h : Tells s t) : t.byRelay = s.byRelay := by
  obtain ⟨out, rfl⟩ := h
  rfl

theorem Tells.foldl {α : Type} {f : State → α → State} (h : ∀ s a, s.byRelay = false → Tells s (f s a)) (as : List α) {s : State}
    (hs : s.byRelay = false) : Tells s (as.foldl f s) := by
  induction as generalizing s with
  | nil => exact .refl s
  | cons a as ih => exact (h s a hs).trans (ih ((h s a hs).byRelay.trans hs))

theorem State.sendMsg_eq {s : State} (hs : s.byRelay = false) (dest : BitVec 128) (body : List Byte) :
    s.sendMsg dest body = { s with mgmtOut := s.mgmtOut ++ [{ dest := dest, body := body }] } := if_neg (by simp [hs])

theorem State.sendMsg_tells {s : State} (hs : s.byRelay = false) (dest : BitVec 128) (body : List Byte) :
    Tells s (s.sendMsg dest body) := ⟨_, State.sendMsg_eq hs dest body⟩

/-- The reply to a message (R433). -/
def State.replyTo (s : State) (m : MsgSrc) (typ status : Nat) (more : List (Nat × List Byte)) : MgmtOut :=
  ⟨m.addr, cborMap ([(0, cborUint typ), (1, cborUint m.reqId), (2, cborUint status), (3, cborUint s.now)] ++ more)⟩

theorem State.answer_eq {s : State} (hs : s.byRelay = false) {m : MsgSrc} (hm : m.relay = none) (typ status : Nat)
    (more : List (Nat × List Byte)) :
    s.answer m typ status more = { s with mgmtOut := s.mgmtOut ++ [s.replyTo m typ status more] } := by
  simp only [State.answer, hm, State.sendMsg_eq hs, List.append_nil, State.replyTo]

/-- The reply leaves, with the time of any state that stands at the same time. -/
theorem State.replyTo_mem_answer {s t : State} (ht : t.byRelay = false) (hnow : t.now = s.now) {m : MsgSrc} (hm : m.relay = none)
    (typ status : Nat) (more : List (Nat × List Byte)) : s.replyTo m typ status more ∈ (t.answer m typ status more).mgmtOut := by
  rw [State.answer_eq ht hm, State.replyTo, State.replyTo, hnow]
  exact List.mem_concat_self

section Answer

variable (s : State) (m : MsgSrc) (typ status : Nat) (more : List (Nat × List Byte))

theorem State.answer_sends : Sends s (s.answer m typ status more) := s.sendMsg_sends ..

@[simp] theorem State.answer_house : (s.answer m typ status more).house = s.house := by
  obtain ⟨ps, out, h, -⟩ := s.answer_sends m typ status more; rw [h]

@[simp] theorem State.answer_nv : (s.answer m typ status more).nv = s.nv := by
  obtain ⟨ps, out, h, -⟩ := s.answer_sends m typ status more; rw [h]

@[simp] theorem State.answer_bench (b : BenchId) : (s.answer m typ status more).bench b = s.bench b := by
  obtain ⟨ps, out, h, -⟩ := s.answer_sends m typ status more; rw [h]; rfl

@[simp] theorem State.answer_byRelay : (s.answer m typ status more).byRelay = s.byRelay := by
  obtain ⟨ps, out, h, -⟩ := s.answer_sends m typ status more; rw [h]; rfl

end Answer

@[simp] theorem State.raise_byRelay (s : State) (cls index event : Nat) (part : Option PartId) (detail : List (Nat × Detail))
    (operands : Option (List Byte)) (heat : Option Int) :
    (s.raise cls index event part detail operands heat).byRelay = s.byRelay := by
  simp only [State.byRelay, State.raise_house_link, State.raise_start]

/-! Stored tickets that are sent (R436) -/

/-- Sending the stored tickets stamps them and leaves their numbers. -/
theorem State.sendTickets_tells {s : State} (hs : s.byRelay = false) :
    ∃ tk sent, Tells { s with house := { s.house with tickets := tk, sent := sent } } s.sendTickets ∧
      tk.map (·.seq) = s.house.tickets.map (·.seq) := by
  simp only [State.sendTickets]
  split
  · exact ⟨_, _, .refl s, rfl⟩
  · rename_i mgr _
    obtain ⟨out, hout⟩ := Tells.foldl (fun s (t : Ticket) hs => State.sendMsg_tells hs mgr (ticketMsg s t))
      (s.house.tickets.filter fun t => decide (s.house.sent ≤ t.seq) && decide (t.seq < s.house.low + 64)) hs
    rw [hout]
    refine ⟨_, _, ⟨out, rfl⟩, ?_⟩
    rw [List.map_map]
    refine List.map_congr_left fun t _ => ?_
    simp only [Function.comp_apply]
    split <;> rfl

/-! Requests of a network boot (17 R464) -/

theorem State.sendBootReq_tells {s : State} (hs : s.byRelay = false) (off len : Nat) : Tells s (s.sendBootReq off len) := by
  unfold State.sendBootReq
  split
  · exact .refl s
  · exact State.sendMsg_tells hs _ _

/-- `t` is `s` but for boot requests from the next offset on, and for datagrams that left. -/
def Fetches (s t : State) : Prop :=
  ∃ reqs next, Tells { s with house := { s.house with bootReqs := s.house.bootReqs ++ reqs, bootNext := next } } t ∧
    s.house.bootNext ≤ next ∧ ∀ r ∈ reqs, s.house.bootNext ≤ r.1

theorem Fetches.refl (s : State) : Fetches s s :=
  ⟨[], s.house.bootNext, by rw [List.append_nil]; exact .refl s, Nat.le_refl _, List.forall_mem_nil _⟩

theorem Fetches.trans {s t u : State} (h : Fetches s t) (k : Fetches t u) : Fetches s u := by
  obtain ⟨reqs, next, ⟨out, rfl⟩, hle, hreqs⟩ := h
  obtain ⟨reqs', next', ⟨out', rfl⟩, hle', hreqs'⟩ := k
  refine ⟨reqs ++ reqs', next', ⟨out ++ out', by simp only [List.append_assoc]⟩, Nat.le_trans hle hle', fun r hr => ?_⟩
  rcases List.mem_append.1 hr with hr | hr
  · exact hreqs r hr
  · exact Nat.le_trans hle (hreqs' r hr)

theorem Fetches.byRelay {s t : State} (h : Fetches s t) : t.byRelay = s.byRelay := by
  obtain ⟨_, _, ht, -⟩ := h
  exact ht.byRelay

/-- One more request goes out. -/
def State.bootAsk (s : State) : State :=
  let len := min 3584 (s.house.bootLimit - s.house.bootNext)
  let t := s.sendBootReq s.house.bootNext len
  { t with house := { t.house with
      bootReqs := t.house.bootReqs ++ [(s.house.bootNext, len, t.now)], bootNext := s.house.bootNext + len } }

theorem State.bootMore_succ (n : Nat) (s : State) : State.bootMore (n + 1) s =
    if s.house.mgr.isNone || 16 ≤ s.house.bootReqs.length || s.house.bootLimit ≤ s.house.bootNext then s
    else State.bootMore n s.bootAsk := rfl

theorem State.bootAsk_fetches {s : State} (hs : s.byRelay = false) : Fetches s s.bootAsk := by
  unfold State.bootAsk
  dsimp only
  generalize min 3584 (s.house.bootLimit - s.house.bootNext) = len
  obtain ⟨out, hout⟩ := State.sendBootReq_tells hs s.house.bootNext len
  rw [hout]
  exact ⟨[(s.house.bootNext, len, s.now)], s.house.bootNext + len, ⟨out, rfl⟩, Nat.le_add_right .., by simp⟩

theorem State.bootMore_fetches (n : Nat) {s : State} (hs : s.byRelay = false) : Fetches s (State.bootMore n s) := by
  induction n generalizing s with
  | zero => exact .refl s
  | succ n ih =>
    rw [State.bootMore_succ]
    split
    · exact .refl s
    · have asks := State.bootAsk_fetches hs
      exact asks.trans (ih (asks.byRelay.trans hs))

theorem State.bootFetch_fetches {s : State} (hs : s.byRelay = false) : Fetches s s.bootFetch := by
  unfold State.bootFetch
  split
  · exact State.bootMore_fetches 16 hs
  · exact .refl s

end Sys2Proof.Machine

/-! What no access changes in the memory system -/

namespace Sys2Proof.Machine

open Sys2Proof

/-- Which tiles are powered, and the records by which the regulator serves. -/
def MemSys.frame (m : MemSys) : List Bool × List (List RegRec) := (m.tileOn, m.regs)

@[simp] theorem MemSys.modStack_frame (m : MemSys) (k : StackId) (f : Stack → Stack) : (m.modStack k f).frame = m.frame := rfl

@[simp] theorem MemSys.modCache_frame (m : MemSys) (t : TileId) (f : TileCache → TileCache) : (m.modCache t f).frame = m.frame := rfl

@[simp] theorem MemSys.draw_frame (m : MemSys) (k : StackId) (v : Origin) : (m.draw k v).frame = m.frame := rfl

@[simp] theorem MemSys.countHome_frame (m : MemSys) (t : TileId) (hit : Bool) (v : Origin) : (m.countHome t hit v).frame = m.frame := rfl

@[simp] theorem MemSys.stackRead_frame (m : MemSys) (k : StackId) (o : Nat) : (m.stackRead k o).2.2.frame = m.frame := rfl

@[simp] theorem MemSys.stackWrite_frame (m : MemSys) (k : StackId) (o : Nat) (data : List Byte) (stain : Bool) :
    (m.stackWrite k o data stain).frame = m.frame := rfl

@[simp] theorem MemSys.writeBack_frame (m : MemSys) (l : CacheLine) : (m.writeBack l).frame = m.frame := by
  unfold MemSys.writeBack
  split
  · split <;> simp
  · rfl

@[simp] theorem MemSys.evict_frame (m : MemSys) (t : TileId) (set way : Nat) : (m.evict t set way).frame = m.frame := by
  unfold MemSys.evict
  split <;> simp

@[simp] theorem MemSys.allocate_frame (m : MemSys) (t : TileId) (l : CacheLine) : (m.allocate t l).frame = m.frame := by
  unfold MemSys.allocate
  dsimp only
  split
  · rfl
  · exact MemSys.evict_frame ..

@[simp] theorem MemSys.fetchLine_frame (m : MemSys) (t : TileId) (k : StackId) (o pa : Nat) (v : Origin) :
    (m.fetchLine t k o pa v).2.frame = m.frame := by
  unfold MemSys.fetchLine
  split
  · rfl
  · exact MemSys.allocate_frame ..

theorem MemSys.writeLine_frame {m w : MemSys} {pa : Nat} {data : List Byte} {mask : List Bool} {stain : Bool} {v : Origin}
    (h : m.writeLine pa data mask stain v = some w) : w.frame = m.frame := by
  unfold MemSys.writeLine at h
  dsimp only at h
  split at h
  · split at h
    · split at h <;> obtain rfl := Option.some.inj h <;> simp
    · split at h
      · split at h <;> obtain rfl := Option.some.inj h <;> simp
      · obtain rfl := Option.some.inj h
        simp
  · contradiction

theorem MemSys.writeLines_frame {stain : Bool} {v : Origin} {w : MemSys} (n : Nat) {m : MemSys} {pa : Nat} {data : List Byte}
    (h : m.writeLines stain v n pa data = some w) : w.frame = m.frame := by
  induction n generalizing m pa data with
  | zero => obtain rfl := Option.some.inj h; rfl
  | succ n ih =>
    rw [MemSys.writeLines] at h
    split at h
    · contradiction
    · rename_i hline
      exact (ih h).trans (MemSys.writeLine_frame hline)

theorem MemSys.writeFrom_frame {m w : MemSys} {pa : Nat} {data : List Byte} {stain : Bool} {v : Origin}
    (h : m.writeFrom pa data stain v = some w) : w.frame = m.frame := by
  unfold MemSys.writeFrom at h
  dsimp only at h
  split at h
  · obtain rfl := Option.some.inj h; rfl
  · split at h
    · contradiction
    · rename_i hline
      exact (MemSys.writeLines_frame _ h).trans (MemSys.writeLine_frame hline)

/-- What the hub has written stands in the state that takes it. -/
theorem State.mem_setMem_writeFrom {s : State} {pa : Nat} {data : List Byte} {stain : Bool} {v : Origin} {w : MemSys}
    (h : s.mem.writeFrom pa data stain v = some w) : (s.setMem w).mem = w := by
  obtain ⟨hon, hregs⟩ := Prod.mk.inj (MemSys.writeFrom_frame h)
  exact State.mem_setMem s w hon hregs

end Sys2Proof.Machine

/-! Flash that was erased, and images that are staged (17 R466, R470) -/

namespace Sys2Proof.Machine

open Sys2Proof

theorem memGet_memClear {d : Byte} (m : Mem) {a n x : Nat} (lo : a ≤ x) (hi : x < a + n) : memGet d (memClear m a n) x = d := by
  induction m with
  | nil => rfl
  | cons c m ih =>
    unfold memClear at ih ⊢
    rw [List.filter_cons]
    split
    · rename_i hc
      have hne : c.1 ≠ x := by
        simp only [Bool.or_eq_true, decide_eq_true_eq] at hc
        omega
      rw [memGet, if_neg hne, ih]
    · exact ih

/-- A range that was erased reads as the default. -/
theorem memRead_memClear {d : Byte} (m : Mem) {a n k : Nat} (hk : k ≤ n) : memRead d (memClear m a n) a k = List.replicate k d := by
  refine List.eq_replicate_iff.2 ⟨memRead_length .., fun b hb => ?_⟩
  obtain ⟨i, hi, rfl⟩ := List.mem_map.1 hb
  have lt := List.mem_range.1 hi
  exact memGet_memClear m (by omega) (by omega)

theorem State.dropCommit_commitLen (s : State) : s.dropCommit.commitLen = none := by
  have erased : s.dropCommit.flashRead commitRecord 4 = List.replicate 4 0xFF := memRead_memClear s.nv.flash (by decide)
  unfold State.commitLen
  rw [erased]
  decide

theorem State.commitLen_congr {s t : State} (h : t.nv = s.nv) : t.commitLen = s.commitLen := by
  unfold State.commitLen State.flashRead
  rw [h]

section Commit

variable (s : State) {len : Nat} {sha : Option (List Byte)}

/-- The bytes of the staging area. -/
def State.staged (off n : Nat) : List Byte := s.flashRead (stagingArea + off) n

theorem State.commit_of_good (h : verifyImage s.nv s.staged (some len) 1 sha = 0) :
    s.commit len sha = (0, s.writeCommit len (fwMeasOf s.staged)) := by
  unfold State.commit
  dsimp only
  split
  · rfl
  · rename_i hpass
    exact absurd h hpass

theorem State.commit_of_bad (h : verifyImage s.nv s.staged (some len) 1 sha ≠ 0) :
    ∃ r ≠ 0, s.commit len sha = (r, s.dropCommit.imageTicket r) := by
  unfold State.staged at h
  refine ⟨_, h, ?_⟩
  unfold State.commit
  dsimp only
  split
  · rename_i hzero
    exact absurd hzero h
  · rfl

end Commit

end Sys2Proof.Machine

/-! Commands of the manager that are served at once (15 R432, R433) -/

namespace Sys2Proof.Machine

open Sys2Proof

/-- The manager is `m`, the module serves it, and no command waits. -/
def State.Managed (s : State) (m : MsgSrc) : Prop :=
  s.house.mgr = some m.addr ∧ s.servesFailed = false ∧ s.start.recovery = false ∧ s.house.commands = []

theorem State.gate_of_managed {s : State} {m : MsgSrc} (h : s.Managed m) {typ : Nat} (ht : typ ≠ 2) : s.gate m.addr typ = 0 := by
  obtain ⟨hmgr, hserves, hrecovery, -⟩ := h
  simp [State.gate, hmgr, ht, hserves, hrecovery]

theorem State.Managed.idle {s : State} {m : MsgSrc} (h : s.Managed m) : s.house.commands = [] := by
  obtain ⟨-, -, -, hc⟩ := h
  exact hc

/-- A command that its bounds and its gate let pass is served while none waits. -/
theorem State.command_eq {s : State} {i : Instr} (hb : s.mgmtBounds i = true) (hg : s.gate (mgmtSrc i).addr (mgmtType i) = 0)
    (hc : s.house.commands = []) (hr : s.mgmtReady i = true) : s.command i = s.serveCmd i := by
  simp [State.command, hb, hg, hc, hr]

theorem State.orForward_here {i : Instr} (h : (mgmtSrc i).relay = none) (s : State) (f : State → State) : s.orForward i f = f s := by
  simp only [State.orForward, h]

/-- SET_SLOT takes its slot and its source as the manager. -/
def State.takeSlot (s : State) (m : MsgSrc) (slot : List Byte) : State :=
  { s with house := { s.house with slot := some slot, mgr := some m.addr } }

section Commands

variable {s : State} (ho : s.online = true)
include ho

/-- What every command of the manager does on a module that is served, without a relay. -/
theorem command_served {i : Instr} (hm : (mgmtSrc i).relay = none) (hb : s.mgmtBounds i = true)
    (hg : s.gate (mgmtSrc i).addr (mgmtType i) = 0) (hc : s.house.commands = []) (hr : s.mgmtReady i = true) :
    (if !s.online then .next s else .next (s.orForward i fun s => s.command i) : Result) = .next (s.serveCmd i) := by
  rw [ho, State.orForward_here hm, State.command_eq hb hg hc hr]
  rfl

variable {m : MsgSrc} (hm : m.relay = none)
include hm

theorem exec_setSlot {slot : List Byte} (hn : s.house.mgr = none) (hc : s.house.commands = []) (h1 : 1 ≤ slot.length)
    (h32 : slot.length ≤ 32) : exec (.setSlot m slot) s = .next ((s.takeSlot m slot).answer m 2 0).sendTickets.bootFetch :=
  command_served ho (i := .setSlot m slot) hm (by simp [State.mgmtBounds, h1, h32]) (by simp [State.gate, hn, mgmtType]) hc rfl

section Managed

variable (hg : s.Managed m)
include hg

theorem command_of_manager_served {i : Instr} (hsrc : mgmtSrc i = m) (ht : mgmtType i ≠ 2) (hb : s.mgmtBounds i = true)
    (hr : s.mgmtReady i = true) :
    (if !s.online then .next s else .next (s.orForward i fun s => s.command i) : Result) = .next (s.serveCmd i) :=
  command_served ho (hsrc ▸ hm) hb (State.gate_of_managed (hsrc ▸ hg) ht) hg.idle hr

theorem exec_measure {nonce : List Byte} (hk : s.start.keyReady = true) (h16 : 16 ≤ nonce.length) (h64 : nonce.length ≤ 64) :
    exec (.measure m nonce) s = .next ((s.report nonce).2.answer m 3 0 (s.report nonce).1) :=
  command_of_manager_served ho hm hg (i := .measure m nonce) rfl (by simp [mgmtType]) (by simp [State.mgmtBounds, h16, h64]) hk

theorem exec_status : exec (.status m) s = .next (s.answer m 4 0 s.statusKeys) :=
  command_of_manager_served ho hm hg (i := .status m) rfl (by simp [mgmtType]) rfl rfl

theorem exec_sensors : exec (.sensors m) s =
    .next (s.answer m 5 0 [(4, cborMap (sensorCodes.map fun c => (c, cborUint (s.sensor c).toNat)))]) :=
  command_of_manager_served ho hm hg (i := .sensors m) rfl (by simp [mgmtType]) rfl rfl

theorem exec_retire_bench (a c : Nat) : exec (.retire m 2 a c) s =
    .next ((s.retireBench a c).2.answer m 6 (if (s.retireBench a c).1 = 1 then 0 else 6)) :=
  command_of_manager_served ho hm hg (i := .retire m 2 a c) rfl (by simp [mgmtType]) rfl rfl

theorem exec_ticketAck (seq : Nat) : exec (.ticketAck m seq) s = .next ((s.answer m 0x11 0).ack seq) :=
  command_of_manager_served ho hm hg (i := .ticketAck m seq) rfl (by simp [mgmtType]) rfl rfl

theorem exec_stageWrite (hf : s.start.sfdpOk = true) (hb : s.start.flBusy = none) (hcp : s.start.copying = false)
    {off : Nat} {data : List Byte} (hd : data.length ≤ 3584) (hl : off + data.length ≤ commitRecord - stagingArea) :
    exec (.stageWrite m off data) s = .next ((s.dropCommit.flashWrite (stagingArea + off) data).answer m 0x30 0) := by
  have ⟨_, _, hrec, _⟩ := hg
  refine (command_of_manager_served ho hm hg (i := .stageWrite m off data) rfl (by simp [mgmtType])
    (by simp [State.mgmtBounds, State.stageRoom, hrec, hd, hl]) (by simp [State.mgmtReady, hb, hcp])).trans ?_
  simp [State.serveCmd, State.stageBytes, hrec, hf, mgmtSrc, mgmtType]

theorem exec_stageCommit (hf : s.start.sfdpOk = true) (hb : s.start.flBusy = none) (hcp : s.start.copying = false)
    {len : Nat} {sha : List Byte} (hs : sha.length = 64) (hl : len ≤ commitRecord - stagingArea) :
    exec (.stageCommit m len sha) s =
      .next ((s.commit len (some sha)).2.answer m 0x31 (if (s.commit len (some sha)).1 = 0 then 0 else 2)) := by
  have ⟨_, _, hrec, _⟩ := hg
  refine (command_of_manager_served ho hm hg (i := .stageCommit m len sha) rfl (by simp [mgmtType])
    (by simp [State.mgmtBounds, State.stageRoom, hrec, hs, hl]) (by simp [State.mgmtReady, hb, hcp])).trans ?_
  simp [State.serveCmd, State.stageCommitted, hrec, hf, mgmtSrc, mgmtType]

end Managed

/-! BOOT_DATA from the manager (17 R464), and a TYPE that the list does not have (R433) -/

theorem exec_bootData (hmgr : s.house.mgr = some m.addr) (off : Nat) (data : List Byte) :
    exec (.bootData m off data) s = .next (s.noReply.bootPiece off data) := by
  change execBootData m off data s = _
  rw [execBootData, ho, State.orForward_here (i := .bootData m off data) hm, State.takeBootData]
  exact congrArg Host.Outcome.next (if_pos hmgr)

omit hm in
theorem exec_unknownType {data : List Byte} {typ req : Nat} (ht : uintKey (cborDatagram data).1 0 = some typ)
    (hq : uintKey (cborDatagram data).1 1 = some req) (hlt : req < 2 ^ 32) (hk : uintKey (cborDatagram data).1 20 = none)
    (hn : typ ∉ [0x01, 0x02, 0x03, 0x04, 0x05, 0x06, 0x10, 0x11, 0x20, 0x21, 0x22, 0x23, 0x30, 0x31, 0x32, 0x33]) :
    exec (.unknownType m data) s = .next (s.answer { addr := m.addr, reqId := req } typ 7) := by
  change execUnknownType m data s = _
  simp only [List.mem_cons, List.not_mem_nil, or_false, not_or] at hn
  have fits : ¬ 4294967296 ≤ req := by omega
  simp [execUnknownType, ho, State.datagram, ht, hq, hk, fits, hn]

end Commands

/-! What a command leaves behind its reply -/

/-- After its reply SET_SLOT sends stored tickets and asks for the image of a network boot. -/
theorem State.sendTickets_bootFetch {s : State} (hs : s.byRelay = false) :
    s.sendTickets.bootFetch.house.slot = s.house.slot ∧ s.sendTickets.bootFetch.house.mgr = s.house.mgr ∧
      s.mgmtOut ⊆ s.sendTickets.bootFetch.mgmtOut := by
  obtain ⟨tk, sent, told, -⟩ := State.sendTickets_tells hs
  obtain ⟨reqs, next, asked, -⟩ := State.bootFetch_fetches (told.byRelay.trans hs)
  obtain ⟨out, hout⟩ := told
  rw [hout] at asked ⊢
  obtain ⟨out', hout'⟩ := asked
  rw [hout']
  exact ⟨rfl, rfl, fun x hx => List.mem_append_left _ (List.mem_append_left _ hx)⟩

/-- TICKET_ACK takes the tickets up to its SEQ, where none is lost untold. -/
theorem State.ack_tells {s : State} (hs : s.byRelay = false) (hl : s.house.lostUntold = 0) (seq : Nat) :
    (s.ack seq).house.tickets.map (·.seq) = (s.house.tickets.filter fun t => seq < t.seq).map (·.seq) ∧
      s.mgmtOut ⊆ (s.ack seq).mgmtOut := by
  let kept : State := { s with house := { s.house with tickets := s.house.tickets.filter fun t => seq < t.seq } }
  have acked : s.ack seq = kept.sendTickets := congrArg State.sendTickets (if_pos (by simp [hl]))
  obtain ⟨tk, sent, ⟨out, hout⟩, hseq⟩ := State.sendTickets_tells (s := kept) hs
  rw [acked, hout]
  exact ⟨hseq, fun x hx => List.mem_append_left _ hx⟩

/-- The bytes of a BOOT_DATA land in H0. -/
def State.bootLands (s : State) (off : Nat) (data : List Byte) : State :=
  match s.mem.writeFrom (h0Base + off) data false Origin.hub with
  | some w => s.setMem w
  | none => s

theorem State.bootLands_eq (s : State) (off : Nat) (data : List Byte) : ∃ w, s.bootLands off data = s.setMem w := by
  unfold State.bootLands
  split
  · exact ⟨_, rfl⟩
  · exact ⟨s.mem, s.setMem_mem.symm⟩

theorem State.bootLands_mem {s : State} {off : Nat} {data : List Byte} {w : MemSys}
    (h : s.mem.writeFrom (h0Base + off) data false Origin.hub = some w) : (s.bootLands off data).mem = w := by
  simp only [State.bootLands, h]
  exact State.mem_setMem_writeFrom h

/-- The request of a piece that has come is gone. -/
def State.bootTakes (s : State) (off : Nat) : State :=
  { s with house := { s.house with bootReqs := s.house.bootReqs.filter fun r => r.1 ≠ off } }

/-- The header gives the image's length once it is whole. -/
def State.bootSizes (s : State) : State :=
  if s.house.bootTotal.isNone && s.house.bootReqs.isEmpty && 4096 ≤ s.house.bootNext then
    let h := imageHead (s.h0 0 4096)
    { s with house := { s.house with bootTotal := some (if h.lenOk then h.total else 4096) } }
  else s

theorem State.bootSizes_eq (s : State) : ∃ total, s.bootSizes = { s with house := { s.house with bootTotal := total } } := by
  unfold State.bootSizes
  split
  · exact ⟨_, rfl⟩
  · exact ⟨s.house.bootTotal, rfl⟩

theorem State.bootPiece_eq {s : State} (hf : s.fetching = true) {off : Nat} {data : List Byte}
    (hr : (off, data.length) ∈ s.house.bootReqs.map fun r => (r.1, r.2.1)) :
    s.bootPiece off data = ((s.bootLands off data).bootTakes off).bootSizes.bootFetch := by
  have answers : (s.house.bootReqs.any fun r => r.1 = off && r.2.1 = data.length) = true := by
    obtain ⟨r, hmem, hreq⟩ := List.mem_map.1 hr
    obtain ⟨hoff, hlen⟩ := Prod.mk.inj hreq
    exact List.any_eq_true.2 ⟨r, hmem, by simp [hoff, hlen]⟩
  exact if_neg (by simp [hf, answers])

/-- A piece that answers a request lands in H0, and its request is gone: the next ones lie beyond it. -/
theorem State.bootPiece_answers {s : State} (hs : s.byRelay = false) (hf : s.fetching = true) {off : Nat} {data : List Byte}
    (hr : (off, data.length) ∈ s.house.bootReqs.map fun r => (r.1, r.2.1)) (hlt : ∀ r ∈ s.house.bootReqs, r.1 < s.house.bootNext) :
    (s.bootPiece off data).house.noReply = s.house.noReply ∧ off ∉ (s.bootPiece off data).house.bootReqs.map (·.1) ∧
      (s.bootPiece off data).mem = (s.bootLands off data).mem := by
  have past : off < s.house.bootNext := by
    obtain ⟨r, hmem, hreq⟩ := List.mem_map.1 hr
    obtain ⟨rfl, -⟩ := Prod.mk.inj hreq
    exact hlt r hmem
  rw [State.bootPiece_eq hf hr]
  obtain ⟨w, hw⟩ := s.bootLands_eq off data
  obtain ⟨total, hu⟩ := ((s.bootLands off data).bootTakes off).bootSizes_eq
  rw [hw] at hu ⊢
  obtain ⟨reqs, next, ⟨out, hfetch⟩, -, hreqs⟩ :=
    State.bootFetch_fetches (s := ((s.setMem w).bootTakes off).bootSizes) (by rw [hu]; exact hs)
  rw [hfetch]
  rw [hu] at hreqs ⊢
  refine ⟨rfl, fun hoff => ?_, rfl⟩
  obtain ⟨r, hmem, rfl⟩ := List.mem_map.1 hoff
  rcases List.mem_append.1 hmem with hold | hnew
  · exact absurd rfl (of_decide_eq_true (List.mem_filter.1 hold).2)
  · exact absurd past (Nat.not_lt.2 (hreqs r hnew))

end Sys2Proof.Machine

namespace Sys2Proof.Proofs

open Sys2Proof Sys2Proof.Machine

/-- Settles O51: each command by the state in which it is answered and by what it leaves behind its reply. BOOT_DATA as a datagram
without a reply and the reply to TICKET_ACK are log 104's. -/
theorem datagramsAreServed : Obligations.DatagramsAreServed := by
  intro m s ho hs hm hsized answer managed
  obtain ⟨-, hlen, -⟩ := hsized
  refine ⟨fun slot hn hc h1 h32 => ?slot, fun nonce hg hk h16 h64 => ?measure, fun hg => ?status, fun hg => ?sensors,
    fun b hg hb => ?retire, fun seq hg hl => ?ack, fun off data hg hf hb hc hd hl => ?write,
    fun len sha hg hf hb hc hsha hl => ?commit, fun off data hmgr hf hr hlt => ?boot, fun data typ req ht hq hlt hk hn => ?unknown⟩
  case slot =>
    have direct : (s.takeSlot m slot).byRelay = false := hs
    obtain ⟨hslot, hmgr, hout⟩ := State.sendTickets_bootFetch ((State.answer_byRelay _ m 2 0 []).trans direct)
    rw [State.answer_house] at hslot hmgr
    exact ⟨_, exec_setSlot ho hm hn hc h1 h32, hslot, hmgr, hout (State.replyTo_mem_answer direct rfl hm ..)⟩
  case measure =>
    refine ⟨(List.range 512).map (Config.signatureByte s.freeCtr (cborMap [(4, cborBytes nonce), (5, cborBytes s.start.fwMeas),
      (6, patMeasCbor s.patMeas), (7, cborUint s.now)])), by simp, ?_⟩
    rw [exec_measure ho hm hg hk h16 h64, State.answer_eq (s := (s.report nonce).2) hs hm]
    rfl
  case status => rw [exec_status ho hm hg, State.answer_eq hs hm]; rfl
  case sensors => rw [exec_sensors ho hm hg, State.answer_eq hs hm]; rfl
  case retire =>
    refine ⟨_, exec_retire_bench ho hm hg b.tile.val b.phys.val, ?_⟩
    rw [State.retireBench_eq, if_pos hb]
    constructor
    · rw [State.answer_bench, State.raise_bench, State.modBench_self _ _ _ (hlen ▸ Machine.BenchId.idx_lt b)]
    · have direct : (s.modBench b fun x => { x with asg := .retired }).byRelay = false := hs
      exact State.replyTo_mem_answer ((State.raise_byRelay ..).trans direct) (State.raise_now ..) hm 6 0 []
  case ack =>
    obtain ⟨hseq, hout⟩ := State.ack_tells (s := s.answer m 0x11 0) ((State.answer_byRelay ..).trans hs) (by simpa using hl) seq
    rw [State.answer_house] at hseq
    exact ⟨_, exec_ticketAck ho hm hg seq, hseq, hout (State.replyTo_mem_answer hs rfl hm ..)⟩
  case write =>
    rw [exec_stageWrite ho hm hg hf hb hc hd hl, State.answer_eq (s := s.dropCommit.flashWrite (stagingArea + off) data) hs hm]
    rfl
  case commit =>
    intro read
    refine ⟨_, exec_stageCommit ho hm hg hf hb hc hsha hl, ?_⟩
    -- With the reason as a variable the cases are taken on it, where Lean would else compute the verification.
    generalize hreason : verifyImage s.nv read (some len) 1 (some sha) = reason
    by_cases hpass : reason = 0
    · rw [if_pos hpass, State.commit_of_good s (hreason.trans hpass)]
      exact ⟨State.answer_nv .., State.replyTo_mem_answer (t := s.writeCommit len (fwMeasOf s.staged)) hs rfl hm ..⟩
    · obtain ⟨r, hr, hcommit⟩ := State.commit_of_bad s (fun hzero => hpass (hreason.symm.trans hzero))
      rw [if_neg hpass, hcommit, if_neg hr]
      have direct : s.dropCommit.byRelay = false := hs
      have nv : ((s.dropCommit.imageTicket r).answer m 0x31 2).nv = s.dropCommit.nv :=
        (State.answer_nv ..).trans (State.raise_nv ..)
      exact ⟨(State.commitLen_congr nv).trans s.dropCommit_commitLen,
        State.replyTo_mem_answer ((State.raise_byRelay ..).trans direct) (State.raise_now ..) hm 0x31 2 []⟩
  case boot =>
    refine ⟨_, exec_bootData ho hm hmgr off data, ?_⟩
    obtain ⟨hno, hreq, hmem⟩ := State.bootPiece_answers (s := s.noReply) hs hf hr hlt
    exact ⟨hno, hreq, fun w hw => hmem.trans (State.bootLands_mem (s := s.noReply) hw)⟩
  case unknown =>
    rw [exec_unknownType ho ht hq hlt hk hn, State.answer_eq hs rfl]
    rfl

end Sys2Proof.Proofs
